-- ==== Sys2Proof/Word.lean ====
section
/-! DEFINITION. Word.lean: the byte, the index of one of four ports or lanes, and a table of four. -/

namespace Sys2Proof

/-- One byte of a frame or lane message (11 R186). -/
abbrev Byte := BitVec 8

/-- The number of a client port (CP0 to CP3) or of a gangway lane (LN0 to LN3): 00 section 4. -/
inductive Four
  | n0
  | n1
  | n2
  | n3
  deriving DecidableEq, Repr

/-- A client port, CP0 to CP3. -/
abbrev Port := Four

/-- A gangway lane, LN0 to LN3. -/
abbrev Lane := Four

def Four.index : Four → Nat
  | .n0 => 0
  | .n1 => 1
  | .n2 => 2
  | .n3 => 3

/-- The port or lane of a number, where it names one. -/
def Four.ofIndex : Nat → Option Four
  | 0 => some .n0
  | 1 => some .n1
  | 2 => some .n2
  | 3 => some .n3
  | _ => none

/-- One value for each of the four ports or lanes. -/
structure Quad (α : Type) where
  a0 : α
  a1 : α
  a2 : α
  a3 : α
  deriving DecidableEq, Repr

def Quad.get {α : Type} (q : Quad α) : Four → α
  | .n0 => q.a0
  | .n1 => q.a1
  | .n2 => q.a2
  | .n3 => q.a3

def Quad.set {α : Type} (q : Quad α) (i : Four) (x : α) : Quad α :=
  match i with
  | .n0 => { q with a0 := x }
  | .n1 => { q with a1 := x }
  | .n2 => { q with a2 := x }
  | .n3 => { q with a3 := x }

def Quad.map {α β : Type} (f : α → β) (q : Quad α) : Quad β :=
  { a0 := f q.a0, a1 := f q.a1, a2 := f q.a2, a3 := f q.a3 }

def Quad.fill {α : Type} (x : α) : Quad α :=
  { a0 := x, a1 := x, a2 := x, a3 := x }

end Sys2Proof
end

