-- ==== Sys2Proof/Config.lean ====
section
/-! DEFINITION. Config.lean: the sizes and ranges the spec fixes for this part. The spec leaves no
result undefined, so no constant here is opaque. -/

namespace Sys2Proof.Config

/-- Slots of the cardholder table (01 section 1.1). -/
abbrev cardholderSlots : Nat := 8192

/-- Slots of the account table (01 section 1.1). -/
abbrev accountSlots : Nat := 4096

/-- Slots of the cabin table (01 section 1.1). -/
abbrev cabinSlots : Nat := 3072

/-- Slots of the hold table (04 R81). -/
abbrev holdSlots : Nat := 256

/-- Places of the charge log (04 R69). -/
abbrev logPlaces : Nat := 131072

/-- Places of the pending unlock list (02 R30). -/
abbrev unlockPlaces : Nat := 64

/-- Places of the closure queue (05 R108). -/
abbrev closurePlaces : Nat := 32

/-- Cardholders on one account (01 R5, R13). -/
abbrev holdersPerAccount : Nat := 8

/-- Cabins of one cardholder (01 R21). -/
abbrev cabinsPerCardholder : Nat := 4

/-- Grantees of one cabin (01 R21). -/
abbrev granteesPerCabin : Nat := 8

/-- Events of a cabin's history (02 R49). -/
abbrev historyPlaces : Nat := 8

/-- Entries a request buffer holds (09 R164, R166). -/
abbrev bufferPlaces : Nat := 2

/-- Notices a queue holds (09 R164, R171). -/
abbrev queuePlaces : Nat := 16

/-- Verdict messages a lane buffer holds (06 R120). -/
abbrev verdictPlaces : Nat := 2

/-- The largest ship time, and the largest 32-bit quantity (08 R151). -/
abbrev maxWord : Nat := 4294967295

/-- A counter of serials or sequences at this value is exhausted (01 R14, 04 R71). -/
abbrev exhausted : Nat := 4294967296

/-- The largest value a total may hold (04 R93). -/
abbrev totalMax : Int := 2000000000

/-- The least value a total may hold (04 R93). -/
abbrev totalMin : Int := -2000000000

/-- The largest credit limit, base cap, floor and ceiling (01 R13, 03 R52). -/
abbrev capMax : Nat := 50000000

/-- The largest deposit (01 R13). -/
abbrev depositMax : Nat := 99999999

/-- The largest adjustment amount (04 R92). -/
abbrev adjustMax : Nat := 99999999

/-- The largest unit price (03 R54). -/
abbrev priceMax : Nat := 999999

/-- The largest quantity (03 R54). -/
abbrev quantityMax : Nat := 99

/-- The largest gross (03 R54). -/
abbrev grossMax : Nat := 98999901

/-- The largest outlet (04 R75). -/
abbrev outletMax : Nat := 1023

/-- Entries one settlement step passes (05 R100). -/
abbrev settleStride : Nat := 32

/-- Items one window read returns (09 R175). -/
abbrev windowStride : Nat := 8

/-- Seconds of a day of ship time (08 R159). -/
abbrev daySeconds : Nat := 86400

/-- Milliseconds without a byte that end a message being assembled (06 R117). -/
abbrev gapMs : Nat := 20

/-- Milliseconds a repeat record matches (06 R124). -/
abbrev repeatMs : Nat := 5000

/-- Milliseconds without a tick that lose the tick line (08 R154). -/
abbrev tickLossMs : Nat := 1500

/-- Milliseconds of a freewheel second (08 R155). -/
abbrev secondMs : Nat := 1000

/-- The sync byte of a frame (11 R187). -/
abbrev syncByte : Byte := 0xD3#8

/-- The type byte of a WRITE transaction (11 R187). -/
abbrev writeType : Byte := 0x3C#8

/-- The type byte of a READ transaction (11 R187). -/
abbrev readType : Byte := 0xC3#8

/-- The fill byte the device shifts out during a WRITE (11 R187). -/
abbrev fillByte : Byte := 0xFF#8

/-- The lane start byte (11 R188). -/
abbrev laneStart : Byte := 0xA6#8

end Sys2Proof.Config
end

