-- ==== Sys2Proof/Syntax.lean ====
section
/-! DEFINITION. Syntax.lean: the requests of 11 R189 in decoded form, and `Instr`, the commands of the
block: one constructor for each row of spec/opcode_table.json. A field keeps the width its layout gives
it, enumerations and flags as the bytes the master sent. -/

namespace Sys2Proof

/-- One card presentation of a CHARGE: a card number and a generation (04 R75). -/
structure Presentation where
  card : BitVec 32
  gen : Byte
  deriving DecidableEq, Repr

/-- The fields of SET TARIFF part 1 (11 R192): the 8 service rates, the five cap fields, and package
rows 0 to 7, each its 8 class discounts in class order (64 in all). -/
structure TariffPart1 where
  rates : List (BitVec 16)
  adultBase : BitVec 32
  minorBase : BitVec 32
  capStep : BitVec 32
  capFloor : BitVec 32
  capCeiling : BitVec 32
  rows : List (BitVec 16)
  deriving DecidableEq, Repr

/-- The fields of SET OPTIONS in layout order (11 R189). -/
structure OptionFields where
  unlockDeadline : BitVec 16
  holdLifetime : BitVec 32
  voidWindow : BitVec 16
  escortWindow : BitVec 16
  threshold : Byte
  rolloverHour : Byte
  deriving DecidableEq, Repr

/-- An entry of a request buffer as it is executed (09 R165, R167): a bad frame, a code that names no
request, a known code whose body has not its layout's length (11 R191), or a request of 11 R189. -/
inductive Request
  | badFrame
  | unknown (code : Byte)
  | badLength (code : Byte)
  | noOp
  | readPortStatus
  | setNoticeMask (mask : BitVec 32)
  | readCardholder (card : BitVec 32)
  | readAccount (folio : BitVec 32)
  | readCabin (cabin : BitVec 16)
  | readHold (slot reuse : Byte)
  | readEntry (seq : BitVec 32)
  | readCounts
  | readCall
  | readTime
  | readLane (lane : Byte)
  | readSettings
  | windowOpen (collection mode : Byte) (key start : BitVec 32)
  | windowRead
  | price (cls : Byte) (unit : BitVec 32) (qty k : Byte) (card : BitVec 32) (package : Byte)
  | charge (outlet : BitVec 16) (cls : Byte) (unit : BitVec 32) (qty : Byte) (cards : List Presentation)
  | holdOpen (card : BitVec 32) (gen : Byte) (outlet : BitVec 16) (cls : Byte) (gross lifetime : BitVec 32)
  | holdComplete (slot reuse : Byte) (gross : BitVec 32)
  | holdRelease (slot reuse : Byte)
  | void (seq : BitVec 32) (outlet : BitVec 16)
  | accessQuery (card : BitVec 32) (gen : Byte) (cabin : BitVec 16)
  | lockReport (cabin token : BitVec 16) (outcome : Byte)
  | privacySet (cabin : BitVec 16)
  | privacyClear (cabin : BitVec 16)
  | enrol (card : BitVec 32) (kind : Byte) (folio : BitVec 32) (classMask : Byte) (deckMask : BitVec 32)
  | reissue (card : BitVec 32)
  | suspend (card : BitVec 32)
  | resume (card : BitVec 32)
  | purge (card : BitVec 32)
  | setClassMask (card : BitVec 32) (mask : Byte)
  | setDeckMask (card : BitVec 32) (mask : BitVec 32)
  | capUp (card : BitVec 32)
  | capDown (card : BitVec 32)
  | setCapOffset (card : BitVec 32) (offset : Byte)
  | openAccount (folio limit deposit : BitVec 32)
  | setLimit (folio amount : BitVec 32)
  | setDeposit (folio amount : BitVec 32)
  | setPackage (folio : BitVec 32) (package : Byte)
  | setMinorRelease (folio : BitVec 32) (flag : Byte)
  | adjust (folio : BitVec 32) (kind : Byte) (amount : BitVec 32)
  | settleBegin (folio : BitVec 32)
  | settleStep (folio : BitVec 32)
  | reopen (folio : BitVec 32)
  | close (folio : BitVec 32)
  | takeClosure
  | defineCabin (cabin : BitVec 16) (deck : Byte)
  | undefineCabin (cabin : BitVec 16)
  | grantCabin (card : BitVec 32) (cabin : BitVec 16)
  | revokeCabin (card : BitVec 32) (cabin : BitVec 16)
  | rekeyCabin (cabin : BitVec 16)
  | blockCabin (cabin : BitVec 16)
  | unblockCabin (cabin : BitVec 16)
  | setPresence (card : BitVec 32) (presence : Byte)
  | openCall (kind : Byte) (allAboard : BitVec 32) (closeMode : Byte) (closeTime : BitVec 32)
  | closeCall (force : Byte)
  | laneMode (lane mode direction clearFaults : Byte)
  | injectRead (lane : Byte) (card : BitVec 32) (gen direction seq : Byte)
  | setTime (time : BitVec 32)
  | setTariff1 (part : TariffPart1)
  | setTariff2 (rows : List (BitVec 16))
  | setOptions (fields : OptionFields)
  | loadSettings
  | saveSettings
  | voyageClear
  | windowAct (action : Byte)
  deriving DecidableEq, Repr

/-- The commands of the block, one constructor for each row of spec/opcode_table.json. A request's
constructor carries the port it is written on, the tag its master chose and the fields of its body
(11 R189); an event's constructor carries what names it (its port, lane, slot or byte). -/
inductive Instr
  | startUp (straps : Quad (BitVec 2)) (memoryLost : Bool)
  | write (p : Port) (bytes : List Byte)
  | ignoredTransaction (p : Port) (kind : Byte)
  | read (p : Port)
  | deliveryComplete (p : Port)
  | readAbandoned (p : Port)
  | badFrame (p : Port) (tag : Byte)
  | unknownRequest (p : Port) (tag code : Byte)
  | noOp (p : Port) (tag : Byte)
  | readPortStatus (p : Port) (tag : Byte)
  | setNoticeMask (p : Port) (tag : Byte) (mask : BitVec 32)
  | readCardholder (p : Port) (tag : Byte) (card : BitVec 32)
  | readAccount (p : Port) (tag : Byte) (folio : BitVec 32)
  | readCabin (p : Port) (tag : Byte) (cabin : BitVec 16)
  | readHold (p : Port) (tag slot reuse : Byte)
  | readEntry (p : Port) (tag : Byte) (seq : BitVec 32)
  | readCounts (p : Port) (tag : Byte)
  | readCall (p : Port) (tag : Byte)
  | readTime (p : Port) (tag : Byte)
  | readLane (p : Port) (tag lane : Byte)
  | readSettings (p : Port) (tag : Byte)
  | windowOpen (p : Port) (tag collection mode : Byte) (key start : BitVec 32)
  | windowOpenReview (p : Port) (tag collection : Byte) (key start : BitVec 32)
  | windowRead (p : Port) (tag : Byte)
  | windowActKeep (p : Port) (tag : Byte)
  | windowActVoid (p : Port) (tag : Byte)
  | price (p : Port) (tag cls : Byte) (unit : BitVec 32) (qty k : Byte) (card : BitVec 32) (package : Byte)
  | charge (p : Port) (tag : Byte) (outlet : BitVec 16) (cls : Byte) (unit : BitVec 32) (qty : Byte) (cards : List Presentation)
  | holdOpen (p : Port) (tag : Byte) (card : BitVec 32) (gen : Byte) (outlet : BitVec 16) (cls : Byte) (gross lifetime : BitVec 32)
  | holdComplete (p : Port) (tag slot reuse : Byte) (gross : BitVec 32)
  | holdRelease (p : Port) (tag slot reuse : Byte)
  | void (p : Port) (tag : Byte) (seq : BitVec 32) (outlet : BitVec 16)
  | accessQuery (p : Port) (tag : Byte) (card : BitVec 32) (gen : Byte) (cabin : BitVec 16)
  | lockReport (p : Port) (tag : Byte) (cabin token : BitVec 16) (outcome : Byte)
  | privacySet (p : Port) (tag : Byte) (cabin : BitVec 16)
  | privacyClear (p : Port) (tag : Byte) (cabin : BitVec 16)
  | enrolCardholder (p : Port) (tag : Byte) (card : BitVec 32) (kind : Byte) (folio : BitVec 32) (classMask : Byte) (deckMask : BitVec 32)
  | reissueCard (p : Port) (tag : Byte) (card : BitVec 32)
  | suspend (p : Port) (tag : Byte) (card : BitVec 32)
  | resume (p : Port) (tag : Byte) (card : BitVec 32)
  | purgeCardholder (p : Port) (tag : Byte) (card : BitVec 32)
  | setClassMask (p : Port) (tag : Byte) (card : BitVec 32) (mask : Byte)
  | setDeckMask (p : Port) (tag : Byte) (card : BitVec 32) (mask : BitVec 32)
  | capUp (p : Port) (tag : Byte) (card : BitVec 32)
  | capDown (p : Port) (tag : Byte) (card : BitVec 32)
  | setCapOffset (p : Port) (tag : Byte) (card : BitVec 32) (offset : Byte)
  | openAccount (p : Port) (tag : Byte) (folio limit deposit : BitVec 32)
  | setLimit (p : Port) (tag : Byte) (folio amount : BitVec 32)
  | setDeposit (p : Port) (tag : Byte) (folio amount : BitVec 32)
  | setPackage (p : Port) (tag : Byte) (folio : BitVec 32) (package : Byte)
  | setMinorRelease (p : Port) (tag : Byte) (folio : BitVec 32) (flag : Byte)
  | adjust (p : Port) (tag : Byte) (folio : BitVec 32) (kind : Byte) (amount : BitVec 32)
  | settleBegin (p : Port) (tag : Byte) (folio : BitVec 32)
  | settleStep (p : Port) (tag : Byte) (folio : BitVec 32)
  | reopen (p : Port) (tag : Byte) (folio : BitVec 32)
  | close (p : Port) (tag : Byte) (folio : BitVec 32)
  | takeClosure (p : Port) (tag : Byte)
  | defineCabin (p : Port) (tag : Byte) (cabin : BitVec 16) (deck : Byte)
  | undefineCabin (p : Port) (tag : Byte) (cabin : BitVec 16)
  | grantCabin (p : Port) (tag : Byte) (card : BitVec 32) (cabin : BitVec 16)
  | revokeCabin (p : Port) (tag : Byte) (card : BitVec 32) (cabin : BitVec 16)
  | rekeyCabin (p : Port) (tag : Byte) (cabin : BitVec 16)
  | blockCabin (p : Port) (tag : Byte) (cabin : BitVec 16)
  | unblockCabin (p : Port) (tag : Byte) (cabin : BitVec 16)
  | setPresence (p : Port) (tag : Byte) (card : BitVec 32) (presence : Byte)
  | openCall (p : Port) (tag kind : Byte) (allAboard : BitVec 32) (closeMode : Byte) (closeTime : BitVec 32)
  | closeCall (p : Port) (tag force : Byte)
  | laneMode (p : Port) (tag lane mode direction clearFaults : Byte)
  | injectRead (p : Port) (tag lane : Byte) (card : BitVec 32) (gen direction seq : Byte)
  | setTime (p : Port) (tag : Byte) (time : BitVec 32)
  | setTariffPart1 (p : Port) (tag : Byte) (part : TariffPart1)
  | setTariffPart2 (p : Port) (tag : Byte) (rows : List (BitVec 16))
  | setOptions (p : Port) (tag : Byte) (fields : OptionFields)
  | loadSettings (p : Port) (tag : Byte)
  | saveSettings (p : Port) (tag : Byte)
  | saveCompletion
  | saveFailure
  | voyageClear (p : Port) (tag : Byte)
  | readMessage (l : Lane) (kind : Byte) (card : BitVec 32) (gen direction seq : Byte) (crc : BitVec 16)
  | framingFault (l : Lane)
  | gapFault (l : Lane)
  | endOfTransmission (l : Lane)
  | repeatRecordExpiry (l : Lane)
  | tick
  | tickLoss
  | freewheelSecond
  | holdExpiry (slot : Byte)
  | unlockDeadline (cabinSlot : BitVec 16)
  | allAboardDeadline
  | closeDeadline
  | laneByteReceived (l : Lane) (b : Byte)
  deriving DecidableEq, Repr

end Sys2Proof
end

