-- ==== Sys2Proof/WellFormed.lean ====
section
/-! DEFINITION. WellFormed.lean: which requests have a frame of their own (11 R189) and which commands
name a row of the table. `exec` gives every term a meaning; an ill-formed term is one no master can send
under that row's name. -/

namespace Sys2Proof

/-- The request codes of 11 R189. -/
def isRequestCode (code : Nat) : Bool :=
  (0x01 ≤ code && code ≤ 0x0F) || (0x20 ≤ code && code ≤ 0x25) || (0x30 ≤ code && code ≤ 0x33) ||
    (0x40 ≤ code && code ≤ 0x49) || (0x50 ≤ code && code ≤ 0x5A) || (0x60 ≤ code && code ≤ 0x66) ||
    (0x70 ≤ code && code ≤ 0x74) || (0x80 ≤ code && code ≤ 0x86)

/-- The lists of part 1 have the lengths of 11 R192: 8 rates and 8 rows of 8 discounts. -/
def TariffPart1.wf (t : TariffPart1) : Bool := t.rates.length == 8 && t.rows.length == 64

/-- A request with a frame that decodes to it: a CHARGE lists at most 4 presentations (more are carried
by a count byte alone, 11 R191), a tariff part has its lists whole (11 R192), an unknown code is none of
R189's. The two entries that are not requests of R189 have no frame of their own. -/
def Request.wf : Request → Bool
  | .badFrame => false
  | .badLength _ => false
  | .unknown code => !isRequestCode code.toNat
  | .charge _ _ _ _ cards => decide (cards.length ≤ 4)
  | .setTariff1 part => part.wf
  | .setTariff2 rows => rows.length == 64
  | _ => true

/-- A command names its row: a WRITE or READ type byte is no ignored transaction (09 R165), an unknown
code is none of R189's, WINDOW OPEN in REVIEW mode is its own row, a CHARGE lists at most 4 cards, a
tariff part has its lists whole, and an unlock deadline names a cabin slot. -/
def Instr.wf : Instr → Bool
  | .ignoredTransaction _ kind => kind != Config.writeType && kind != Config.readType
  | .unknownRequest _ _ code => !isRequestCode code.toNat
  | .windowOpen _ _ _ mode _ _ => mode != 1#8
  | .charge _ _ _ _ _ _ cards => decide (cards.length ≤ 4)
  | .setTariffPart1 _ _ part => part.wf
  | .setTariffPart2 _ _ rows => rows.length == 64
  | .unlockDeadline slot => decide (slot.toNat < Config.cabinSlots)
  | _ => true

end Sys2Proof
end

