-- ==== Sys2Proof/Decode.lean ====
section
/-! DEFINITION. Decode.lean: byte order and CRC-16 (11 R186), the request frame (09 R165, 11 R187), the
decoding of a request body by its layout (11 R189, R191, R192), and the encoder written from the same
tables. The opcode table's rows have no bits, so `decodeTableWord` answers none. -/

namespace Sys2Proof

/-- No row of spec/opcode_table.json gives bits: a word spells no command. -/
def decodeTableWord (_nbits _w : Nat) : Option Instr := none

/-! ## Byte order and check (11 R186) -/

/-- The `n` bytes of a quantity, least significant first. -/
def leBytes : Nat → Nat → List Byte
  | 0, _ => []
  | n + 1, x => BitVec.ofNat 8 x :: leBytes n (x / 256)

/-- The quantity of a run of bytes, least significant first. -/
def leValue : List Byte → Nat
  | [] => 0
  | b :: bs => b.toNat + 256 * leValue bs

/-- One data bit into the CRC register: shift left, and exclusive-or with 1021h when the bit shifted out
differs from the data bit. -/
def crcBit (reg : BitVec 16) (bit : Bool) : BitVec 16 :=
  if reg.msb != bit then (reg <<< 1) ^^^ 0x1021#16 else reg <<< 1

/-- One byte into the CRC register, most significant bit first. -/
def crcByte (reg : BitVec 16) (b : Byte) : BitVec 16 :=
  [7, 6, 5, 4, 3, 2, 1, 0].foldl (fun r i => crcBit r (b.getLsbD i)) reg

/-- The CRC-16 of the covered bytes: the register starts at FFFFh, no final inversion. -/
def crc16 (bytes : List Byte) : BitVec 16 := bytes.foldl crcByte 0xFFFF#16

/-- The two CRC bytes that close a frame or message. -/
def crcBytes (bytes : List Byte) : List Byte := leBytes 2 (crc16 bytes).toNat

/-! ## Fields of a body -/

/-- The quantity of `n` bytes at an offset of a body. -/
def fieldAt (body : List Byte) (off n : Nat) : Nat := leValue ((body.drop off).take n)

def field8 (body : List Byte) (off : Nat) : Byte := BitVec.ofNat 8 (fieldAt body off 1)

def field16 (body : List Byte) (off : Nat) : BitVec 16 := BitVec.ofNat 16 (fieldAt body off 2)

def field32 (body : List Byte) (off : Nat) : BitVec 32 := BitVec.ofNat 32 (fieldAt body off 4)

/-- `n` two-byte quantities from an offset on. -/
def fields16 (body : List Byte) : Nat → Nat → List (BitVec 16)
  | _, 0 => []
  | off, n + 1 => field16 body off :: fields16 body (off + 2) n

/-- `n` presentations, each a card number and a generation, from an offset on (11 R189). -/
def presentations (body : List Byte) : Nat → Nat → List Presentation
  | _, 0 => []
  | off, n + 1 => ⟨field32 body off, field8 body (off + 4)⟩ :: presentations body (off + 5) n

/-! ## Request bodies (11 R189, R191, R192) -/

/-- A body of the layout's length is decoded; another is answered BAD_FIELD (11 R191). -/
def ofLayout (code : Byte) (body : List Byte) (n : Nat) (req : Request) : Request :=
  if body.length = n then req else .badLength code

/-- CHARGE: 9 bytes plus 5 for each card the count byte gives; a count of 0 or above 4 is a matter of
check 1, whatever the length (11 R191). -/
def decodeCharge (body : List Byte) : Request :=
  if body.length < 9 then .badLength 0x21#8
  else
    let count := fieldAt body 8 1
    let cards := if count = 0 ∨ 4 < count then [] else presentations body 9 count
    let req := Request.charge (field16 body 0) (field8 body 2) (field32 body 3) (field8 body 7) cards
    if count = 0 ∨ 4 < count then req else ofLayout 0x21#8 body (9 + 5 * count) req

/-- SET TARIFF: a part byte, then that part's fields (11 R192). A part byte other than 1 or 2 is
answered BAD_FIELD, as a wrong length is. -/
def decodeTariff (body : List Byte) : Request :=
  match fieldAt body 0 1 with
  | 1 =>
    ofLayout 0x81#8 body 165
      (.setTariff1
        { rates := fields16 body 1 8
          adultBase := field32 body 17
          minorBase := field32 body 21
          capStep := field32 body 25
          capFloor := field32 body 29
          capCeiling := field32 body 33
          rows := fields16 body 37 64 })
  | 2 => ofLayout 0x81#8 body 129 (.setTariff2 (fields16 body 1 64))
  | _ => .badLength 0x81#8

/-- The request of a good frame's code and body (11 R189). -/
def decodeRequest (code : Byte) (b : List Byte) : Request :=
  match code.toNat with
  | 0x01 => ofLayout code b 0 .noOp
  | 0x02 => ofLayout code b 0 .readPortStatus
  | 0x03 => ofLayout code b 4 (.setNoticeMask (field32 b 0))
  | 0x04 => ofLayout code b 4 (.readCardholder (field32 b 0))
  | 0x05 => ofLayout code b 4 (.readAccount (field32 b 0))
  | 0x06 => ofLayout code b 2 (.readCabin (field16 b 0))
  | 0x07 => ofLayout code b 2 (.readHold (field8 b 0) (field8 b 1))
  | 0x08 => ofLayout code b 4 (.readEntry (field32 b 0))
  | 0x09 => ofLayout code b 0 .readCounts
  | 0x0A => ofLayout code b 0 .readCall
  | 0x0B => ofLayout code b 0 .readTime
  | 0x0C => ofLayout code b 1 (.readLane (field8 b 0))
  | 0x0D => ofLayout code b 0 .readSettings
  | 0x0E => ofLayout code b 10 (.windowOpen (field8 b 0) (field8 b 1) (field32 b 2) (field32 b 6))
  | 0x0F => ofLayout code b 0 .windowRead
  | 0x20 => ofLayout code b 12
      (.price (field8 b 0) (field32 b 1) (field8 b 5) (field8 b 6) (field32 b 7) (field8 b 11))
  | 0x21 => decodeCharge b
  | 0x22 => ofLayout code b 16
      (.holdOpen (field32 b 0) (field8 b 4) (field16 b 5) (field8 b 7) (field32 b 8) (field32 b 12))
  | 0x23 => ofLayout code b 6 (.holdComplete (field8 b 0) (field8 b 1) (field32 b 2))
  | 0x24 => ofLayout code b 2 (.holdRelease (field8 b 0) (field8 b 1))
  | 0x25 => ofLayout code b 6 (.void (field32 b 0) (field16 b 4))
  | 0x30 => ofLayout code b 7 (.accessQuery (field32 b 0) (field8 b 4) (field16 b 5))
  | 0x31 => ofLayout code b 5 (.lockReport (field16 b 0) (field16 b 2) (field8 b 4))
  | 0x32 => ofLayout code b 2 (.privacySet (field16 b 0))
  | 0x33 => ofLayout code b 2 (.privacyClear (field16 b 0))
  | 0x40 => ofLayout code b 14
      (.enrol (field32 b 0) (field8 b 4) (field32 b 5) (field8 b 9) (field32 b 10))
  | 0x41 => ofLayout code b 4 (.reissue (field32 b 0))
  | 0x42 => ofLayout code b 4 (.suspend (field32 b 0))
  | 0x43 => ofLayout code b 4 (.resume (field32 b 0))
  | 0x44 => ofLayout code b 4 (.purge (field32 b 0))
  | 0x45 => ofLayout code b 5 (.setClassMask (field32 b 0) (field8 b 4))
  | 0x46 => ofLayout code b 8 (.setDeckMask (field32 b 0) (field32 b 4))
  | 0x47 => ofLayout code b 4 (.capUp (field32 b 0))
  | 0x48 => ofLayout code b 4 (.capDown (field32 b 0))
  | 0x49 => ofLayout code b 5 (.setCapOffset (field32 b 0) (field8 b 4))
  | 0x50 => ofLayout code b 12 (.openAccount (field32 b 0) (field32 b 4) (field32 b 8))
  | 0x51 => ofLayout code b 8 (.setLimit (field32 b 0) (field32 b 4))
  | 0x52 => ofLayout code b 8 (.setDeposit (field32 b 0) (field32 b 4))
  | 0x53 => ofLayout code b 5 (.setPackage (field32 b 0) (field8 b 4))
  | 0x54 => ofLayout code b 5 (.setMinorRelease (field32 b 0) (field8 b 4))
  | 0x55 => ofLayout code b 9 (.adjust (field32 b 0) (field8 b 4) (field32 b 5))
  | 0x56 => ofLayout code b 4 (.settleBegin (field32 b 0))
  | 0x57 => ofLayout code b 4 (.settleStep (field32 b 0))
  | 0x58 => ofLayout code b 4 (.reopen (field32 b 0))
  | 0x59 => ofLayout code b 4 (.close (field32 b 0))
  | 0x5A => ofLayout code b 0 .takeClosure
  | 0x60 => ofLayout code b 3 (.defineCabin (field16 b 0) (field8 b 2))
  | 0x61 => ofLayout code b 2 (.undefineCabin (field16 b 0))
  | 0x62 => ofLayout code b 6 (.grantCabin (field32 b 0) (field16 b 4))
  | 0x63 => ofLayout code b 6 (.revokeCabin (field32 b 0) (field16 b 4))
  | 0x64 => ofLayout code b 2 (.rekeyCabin (field16 b 0))
  | 0x65 => ofLayout code b 2 (.blockCabin (field16 b 0))
  | 0x66 => ofLayout code b 2 (.unblockCabin (field16 b 0))
  | 0x70 => ofLayout code b 5 (.setPresence (field32 b 0) (field8 b 4))
  | 0x71 => ofLayout code b 10 (.openCall (field8 b 0) (field32 b 1) (field8 b 5) (field32 b 6))
  | 0x72 => ofLayout code b 1 (.closeCall (field8 b 0))
  | 0x73 => ofLayout code b 4 (.laneMode (field8 b 0) (field8 b 1) (field8 b 2) (field8 b 3))
  | 0x74 => ofLayout code b 8
      (.injectRead (field8 b 0) (field32 b 1) (field8 b 5) (field8 b 6) (field8 b 7))
  | 0x80 => ofLayout code b 4 (.setTime (field32 b 0))
  | 0x81 => decodeTariff b
  | 0x82 => ofLayout code b 12
      (.setOptions
        { unlockDeadline := field16 b 0
          holdLifetime := field32 b 2
          voidWindow := field16 b 6
          escortWindow := field16 b 8
          threshold := field8 b 10
          rolloverHour := field8 b 11 })
  | 0x83 => ofLayout code b 0 .loadSettings
  | 0x84 => ofLayout code b 0 .saveSettings
  | 0x85 => ofLayout code b 0 .voyageClear
  | 0x86 => ofLayout code b 1 (.windowAct (field8 b 0))
  | _ => .unknown code

/-! ## The request frame (09 R165, 11 R187) -/

/-- The tag byte of the bytes received, or 0 where the transaction ended before it (09 R165). -/
def frameTag (bytes : List Byte) : Byte := field8 bytes 4

/-- A good frame: sync byte, a length of 2 to 242, as many bytes as the length gives, and the CRC over
every byte before it (09 R165). -/
def goodFrame (bytes : List Byte) : Bool :=
  fieldAt bytes 0 1 == Config.syncByte.toNat &&
    (decide (2 ≤ fieldAt bytes 1 2) && decide (fieldAt bytes 1 2 ≤ 242)) &&
    bytes.length == fieldAt bytes 1 2 + 5 &&
    bytes.drop (bytes.length - 2) == crcBytes (bytes.take (bytes.length - 2))

/-- The entry of the bytes received after a WRITE type byte: a bad frame joins as a bad-frame entry
(09 R165). -/
def decodeFrame (bytes : List Byte) : Request :=
  if goodFrame bytes then
    decodeRequest (field8 bytes 3) ((bytes.drop 5).take (bytes.length - 7))
  else .badFrame

/-! ## The encoder -/

/-- A request's code (11 R189); 0 for a bad frame, as its response carries (09 R167). -/
def Request.code : Request → Byte
  | .badFrame => 0x00#8
  | .unknown code => code
  | .badLength code => code
  | .noOp => 0x01#8
  | .readPortStatus => 0x02#8
  | .setNoticeMask _ => 0x03#8
  | .readCardholder _ => 0x04#8
  | .readAccount _ => 0x05#8
  | .readCabin _ => 0x06#8
  | .readHold _ _ => 0x07#8
  | .readEntry _ => 0x08#8
  | .readCounts => 0x09#8
  | .readCall => 0x0A#8
  | .readTime => 0x0B#8
  | .readLane _ => 0x0C#8
  | .readSettings => 0x0D#8
  | .windowOpen _ _ _ _ => 0x0E#8
  | .windowRead => 0x0F#8
  | .price _ _ _ _ _ _ => 0x20#8
  | .charge _ _ _ _ _ => 0x21#8
  | .holdOpen _ _ _ _ _ _ => 0x22#8
  | .holdComplete _ _ _ => 0x23#8
  | .holdRelease _ _ => 0x24#8
  | .void _ _ => 0x25#8
  | .accessQuery _ _ _ => 0x30#8
  | .lockReport _ _ _ => 0x31#8
  | .privacySet _ => 0x32#8
  | .privacyClear _ => 0x33#8
  | .enrol _ _ _ _ _ => 0x40#8
  | .reissue _ => 0x41#8
  | .suspend _ => 0x42#8
  | .resume _ => 0x43#8
  | .purge _ => 0x44#8
  | .setClassMask _ _ => 0x45#8
  | .setDeckMask _ _ => 0x46#8
  | .capUp _ => 0x47#8
  | .capDown _ => 0x48#8
  | .setCapOffset _ _ => 0x49#8
  | .openAccount _ _ _ => 0x50#8
  | .setLimit _ _ => 0x51#8
  | .setDeposit _ _ => 0x52#8
  | .setPackage _ _ => 0x53#8
  | .setMinorRelease _ _ => 0x54#8
  | .adjust _ _ _ => 0x55#8
  | .settleBegin _ => 0x56#8
  | .settleStep _ => 0x57#8
  | .reopen _ => 0x58#8
  | .close _ => 0x59#8
  | .takeClosure => 0x5A#8
  | .defineCabin _ _ => 0x60#8
  | .undefineCabin _ => 0x61#8
  | .grantCabin _ _ => 0x62#8
  | .revokeCabin _ _ => 0x63#8
  | .rekeyCabin _ => 0x64#8
  | .blockCabin _ => 0x65#8
  | .unblockCabin _ => 0x66#8
  | .setPresence _ _ => 0x70#8
  | .openCall _ _ _ _ => 0x71#8
  | .closeCall _ => 0x72#8
  | .laneMode _ _ _ _ => 0x73#8
  | .injectRead _ _ _ _ _ => 0x74#8
  | .setTime _ => 0x80#8
  | .setTariff1 _ => 0x81#8
  | .setTariff2 _ => 0x81#8
  | .setOptions _ => 0x82#8
  | .loadSettings => 0x83#8
  | .saveSettings => 0x84#8
  | .voyageClear => 0x85#8
  | .windowAct _ => 0x86#8

def put8 (b : Byte) : List Byte := [b]

def put16 (x : BitVec 16) : List Byte := leBytes 2 x.toNat

def put32 (x : BitVec 32) : List Byte := leBytes 4 x.toNat

def putAll16 : List (BitVec 16) → List Byte
  | [] => []
  | x :: xs => put16 x ++ putAll16 xs

def putCards : List Presentation → List Byte
  | [] => []
  | c :: cs => put32 c.card ++ put8 c.gen ++ putCards cs

/-- A request's body, its fields in the order of 11 R189 (and R192 for a tariff part). -/
def Request.body : Request → List Byte
  | .badFrame => []
  | .unknown _ => []
  | .badLength _ => []
  | .noOp => []
  | .readPortStatus => []
  | .setNoticeMask mask => put32 mask
  | .readCardholder card => put32 card
  | .readAccount folio => put32 folio
  | .readCabin cabin => put16 cabin
  | .readHold slot reuse => put8 slot ++ put8 reuse
  | .readEntry seq => put32 seq
  | .readCounts => []
  | .readCall => []
  | .readTime => []
  | .readLane lane => put8 lane
  | .readSettings => []
  | .windowOpen collection mode key start => put8 collection ++ put8 mode ++ put32 key ++ put32 start
  | .windowRead => []
  | .price cls unit qty k card package =>
    put8 cls ++ put32 unit ++ put8 qty ++ put8 k ++ put32 card ++ put8 package
  | .charge outlet cls unit qty cards =>
    put16 outlet ++ put8 cls ++ put32 unit ++ put8 qty ++ leBytes 1 cards.length ++ putCards cards
  | .holdOpen card gen outlet cls gross lifetime =>
    put32 card ++ put8 gen ++ put16 outlet ++ put8 cls ++ put32 gross ++ put32 lifetime
  | .holdComplete slot reuse gross => put8 slot ++ put8 reuse ++ put32 gross
  | .holdRelease slot reuse => put8 slot ++ put8 reuse
  | .void seq outlet => put32 seq ++ put16 outlet
  | .accessQuery card gen cabin => put32 card ++ put8 gen ++ put16 cabin
  | .lockReport cabin token outcome => put16 cabin ++ put16 token ++ put8 outcome
  | .privacySet cabin => put16 cabin
  | .privacyClear cabin => put16 cabin
  | .enrol card kind folio classMask deckMask =>
    put32 card ++ put8 kind ++ put32 folio ++ put8 classMask ++ put32 deckMask
  | .reissue card => put32 card
  | .suspend card => put32 card
  | .resume card => put32 card
  | .purge card => put32 card
  | .setClassMask card mask => put32 card ++ put8 mask
  | .setDeckMask card mask => put32 card ++ put32 mask
  | .capUp card => put32 card
  | .capDown card => put32 card
  | .setCapOffset card offset => put32 card ++ put8 offset
  | .openAccount folio limit deposit => put32 folio ++ put32 limit ++ put32 deposit
  | .setLimit folio amount => put32 folio ++ put32 amount
  | .setDeposit folio amount => put32 folio ++ put32 amount
  | .setPackage folio package => put32 folio ++ put8 package
  | .setMinorRelease folio flag => put32 folio ++ put8 flag
  | .adjust folio kind amount => put32 folio ++ put8 kind ++ put32 amount
  | .settleBegin folio => put32 folio
  | .settleStep folio => put32 folio
  | .reopen folio => put32 folio
  | .close folio => put32 folio
  | .takeClosure => []
  | .defineCabin cabin deck => put16 cabin ++ put8 deck
  | .undefineCabin cabin => put16 cabin
  | .grantCabin card cabin => put32 card ++ put16 cabin
  | .revokeCabin card cabin => put32 card ++ put16 cabin
  | .rekeyCabin cabin => put16 cabin
  | .blockCabin cabin => put16 cabin
  | .unblockCabin cabin => put16 cabin
  | .setPresence card presence => put32 card ++ put8 presence
  | .openCall kind allAboard closeMode closeTime =>
    put8 kind ++ put32 allAboard ++ put8 closeMode ++ put32 closeTime
  | .closeCall force => put8 force
  | .laneMode lane mode direction clearFaults =>
    put8 lane ++ put8 mode ++ put8 direction ++ put8 clearFaults
  | .injectRead lane card gen direction seq =>
    put8 lane ++ put32 card ++ put8 gen ++ put8 direction ++ put8 seq
  | .setTime time => put32 time
  | .setTariff1 part =>
    put8 0x01#8 ++ putAll16 part.rates ++ put32 part.adultBase ++ put32 part.minorBase ++
      put32 part.capStep ++ put32 part.capFloor ++ put32 part.capCeiling ++ putAll16 part.rows
  | .setTariff2 rows => put8 0x02#8 ++ putAll16 rows
  | .setOptions o =>
    put16 o.unlockDeadline ++ put32 o.holdLifetime ++ put16 o.voidWindow ++ put16 o.escortWindow ++
      put8 o.threshold ++ put8 o.rolloverHour
  | .loadSettings => []
  | .saveSettings => []
  | .voyageClear => []
  | .windowAct action => put8 action

/-- The request frame of a code, tag and body: sync, length, code, tag, body, CRC (11 R187). -/
def encodeFrame (code tag : Byte) (body : List Byte) : List Byte :=
  let covered := put8 Config.syncByte ++ leBytes 2 (body.length + 2) ++ put8 code ++ put8 tag ++ body
  covered ++ crcBytes covered

/-- The frame a master sends for a request. -/
def Request.frame (tag : Byte) (req : Request) : List Byte := encodeFrame req.code tag req.body

/-! ## Read messages of a lane (11 R188) -/

/-- The nine content bytes of a read message. -/
def readContent (kind : Byte) (card : BitVec 32) (gen direction seq : Byte) : List Byte :=
  put8 Config.laneStart ++ put8 kind ++ put32 card ++ put8 gen ++ put8 direction ++ put8 seq

end Sys2Proof
end

