-- ==== Sys2Proof/Machine/State.lean ====
section
/-! DEFINITION. Machine/State.lean: the state of the ZJ460 as plain data, record by record as the spec
lists it, the two reason types, and the state after reset. -/

namespace Sys2Proof.Machine

/-- A table of the record memory, sparse by slot and in one canonical form: slots strictly rising, and an
unlisted slot is a FREE (for a cabin, undefined) slot, whose fields stand at their FREE values (01 R2, R13,
R17, R29). -/
abbrev Table (α : Type) := List (Nat × α)

/-! ## Reasons a step stops -/

/-- The spec gives the block no condition that stops it: every error is an answer, a verdict, a counted
lane fault, a flag or a notice. No command faults, which is safe. -/
inductive Fault : Type
  deriving DecidableEq, Repr

/-- Raised by an arm of `exec` whose command has no meaning yet; no arm raises it (safe). -/
inductive Refusal
  | notModelled (mnemonic : String)
  deriving DecidableEq, Repr

/-! ## The roster (chapter 1) -/

/-- State of a cardholder that is not FREE (01 R3). -/
inductive CardState
  | active
  | suspended
  | closed
  deriving DecidableEq, Repr

/-- Kind of a cardholder (01 section 1.2). -/
inductive CardKind
  | adult
  | minor
  | staff
  deriving DecidableEq, Repr

/-- A guest's whereabouts (07 section 7.1). -/
inductive Presence
  | notBoarded
  | aboard
  | ashore
  | disembarked
  deriving DecidableEq, Repr

/-- Direction of a read or transit (06 section 6.1). -/
inductive Direction
  | inward
  | outward
  deriving DecidableEq, Repr

/-- One crossing of the gangway; `lane` is absent for a MANUAL transit (01 R2). -/
structure Transit where
  time : Nat
  lane : Option Lane
  dir : Direction
  deriving DecidableEq, Repr

/-- Account serial and account slot of a guest (01 R2). -/
structure AccountRef where
  serial : Nat
  slot : Nat
  deriving DecidableEq, Repr

/-- A cardholder record that is not FREE (01 R2). -/
structure Cardholder where
  state : CardState
  card : Nat
  gen : Nat
  kind : CardKind
  account : Option AccountRef
  cabins : List Nat
  deckMask : BitVec 32
  classMask : BitVec 8
  capOffset : Int
  spent : Nat
  spentDay : Nat
  held : Nat
  presence : Option Presence
  lastTransit : Option Transit
  conflicts : Nat
  deriving DecidableEq, Repr

/-- State of an account that is not FREE (01 R13). -/
inductive AccountState
  | opened
  | settling
  | settled
  deriving DecidableEq, Repr

/-- An account that is not FREE (01 R13). In SETTLING an absent `cursor` stands at the chain's end
(05 R97); in the other states it is absent. -/
structure Account where
  state : AccountState
  folio : Nat
  serial : Nat
  holders : List Nat
  limit : Nat
  deposit : Nat
  package : Nat
  minorRelease : Bool
  posted : Int
  held : Nat
  settled : Int
  first : Option Nat
  last : Option Nat
  count : Nat
  cursor : Option Nat
  deriving DecidableEq, Repr

/-- Verdict of an ACCESS QUERY (02 R33 to R36). -/
inductive AccessVerdict
  | grant
  | denyUnknown
  | denySuperseded
  | denyGenAhead
  | denySuspended
  | denyClosed
  | denyNoCabin
  | denyBlocked
  | denyNotGranted
  | denyPresence
  | denyPrivacy
  | denyBusy
  deriving DecidableEq, Repr

/-- Result of a history event; DENIED carries the verdict that is its cause (01 R17, 02 R38, R49). -/
inductive HistoryResult
  | opened
  | notOpened
  | jammed
  | unconfirmed
  | denied (cause : AccessVerdict)
  deriving DecidableEq, Repr

/-- An access event of a cabin (02 R49). -/
structure HistoryEvent where
  time : Nat
  card : Nat
  result : HistoryResult
  deriving DecidableEq, Repr

/-- Blocked field of a cabin (01 R17). -/
inductive Blocked
  | none
  | maintenance
  | lockFault
  deriving DecidableEq, Repr

/-- A defined cabin (01 R17). -/
structure Cabin where
  number : Nat
  deck : Nat
  blocked : Blocked
  privacy : Bool
  grantees : List Nat
  history : List HistoryEvent
  deriving DecidableEq, Repr

/-- An entry of the pending unlock list (02 R30); the deadline is a value of the millisecond timer. -/
structure Unlock where
  cabin : Nat
  holder : Nat
  token : Nat
  port : Port
  deadline : Nat
  deriving DecidableEq, Repr

/-! ## The charge log and the holds (chapter 4) -/

/-- Kind of a log entry, and of an adjustment (04 R70, R92). -/
inductive EntryKind
  | charge
  | credit
  deriving DecidableEq, Repr

/-- State of a log entry (04 R69). -/
inductive EntryState
  | posted
  | voided
  | settled
  deriving DecidableEq, Repr

/-- Cardholder slot, originating port and outlet of an entry (04 R70). -/
structure Origin where
  holder : Nat
  port : Port
  outlet : Nat
  deriving DecidableEq, Repr

/-- Pricing detail G, X, V of an entry (04 R70). -/
structure Detail where
  gross : Nat
  discount : Nat
  service : Nat
  deriving DecidableEq, Repr

/-- A hold's handle: the slot number with the slot's reuse tag (04 R81). -/
structure Handle where
  slot : Nat
  reuse : Nat
  deriving DecidableEq, Repr

/-- Split part of an entry (04 R70). -/
structure Split where
  first : Nat
  index : Nat
  count : Nat
  deriving DecidableEq, Repr

/-- An entry of the charge log (04 R70). -/
structure Entry where
  seq : Nat
  kind : EntryKind
  state : EntryState
  serial : Nat
  link : Option Nat
  amount : Nat
  time : Nat
  day : Nat
  origin : Option Origin
  cls : Nat
  detail : Option Detail
  hold : Option Handle
  split : Option Split
  deriving DecidableEq, Repr

/-- A LIVE hold (04 R81). -/
structure Hold where
  serial : Nat
  account : Nat
  holder : Nat
  port : Port
  outlet : Nat
  cls : Nat
  amount : Nat
  expiry : Nat
  deriving DecidableEq, Repr

/-- A slot of the hold table: its reuse tag, and its hold while LIVE (04 R81). -/
structure HoldSlot where
  reuse : Nat
  live : Option Hold
  deriving DecidableEq, Repr

/-- A closure summary (05 R108). -/
structure Summary where
  folio : Nat
  serial : Nat
  settled : Int
  deposit : Nat
  balance : Int
  count : Nat
  first : Option Nat
  last : Option Nat
  time : Nat
  cards : List Nat
  deriving DecidableEq, Repr

/-! ## Presence and the call (chapter 7) -/

/-- The four presence counters (07 R133). -/
structure Counters where
  notBoarded : Nat
  aboard : Nat
  ashore : Nat
  disembarked : Nat
  deriving DecidableEq, Repr

/-- Call state (07 R142). -/
inductive CallState
  | atSea
  | alongside
  | allAboard
  deriving DecidableEq, Repr

/-- Call kind (07 R142). -/
inductive CallKind
  | embark
  | port
  | final
  deriving DecidableEq, Repr

/-- Close mode of a call (07 R142). -/
inductive CloseMode
  | manual
  | timed
  deriving DecidableEq, Repr

/-- The call record (07 R142). -/
structure CallRecord where
  state : CallState
  kind : Option CallKind
  allAboard : Option Nat
  closeMode : CloseMode
  closeTime : Option Nat
  closeHeld : Bool
  deriving DecidableEq, Repr

/-! ## Settings (chapters 3 and 10) -/

/-- The six working options (10 R178). -/
structure Options where
  unlockDeadline : Nat
  holdLifetime : Nat
  voidWindow : Nat
  escortWindow : Nat
  threshold : Nat
  rolloverHour : Nat
  deriving DecidableEq, Repr

/-- A tariff (03 R52): 8 service rates, 128 package discounts (row of package k at places 8k to 8k+7), and
the cap fields. -/
structure Tariff where
  rates : List Nat
  discounts : List Nat
  adultBase : Nat
  minorBase : Nat
  capStep : Nat
  capFloor : Nat
  capCeiling : Nat
  deriving DecidableEq, Repr

/-- Options and tariff together, as the image and a save's snapshot hold them (10 R180, R182). -/
structure Settings where
  options : Options
  tariff : Tariff
  deriving DecidableEq, Repr

/-- Store state (10 R182). -/
inductive Store
  | idle
  | busy (port : Port) (snapshot : Settings)
  deriving DecidableEq, Repr

/-! ## Lanes (chapter 6) -/

/-- Mode of a lane (06 R116). -/
inductive LaneMode
  | normal
  | halt
  | loop
  deriving DecidableEq, Repr

/-- Direction setting of a lane (06 R116). -/
inductive DirSetting
  | both
  | inOnly
  | outOnly
  deriving DecidableEq, Repr

/-- Receiver state of a lane: IDLE, or ASSEMBLING with the bytes so far and the timer value of the last
of them (06 R116, R117). -/
inductive Receiver
  | idle
  | assembling (bytes : List Byte) (last : Nat)
  deriving DecidableEq, Repr

/-- A read as a lane holds it (06 R116). -/
structure LaneRead where
  card : Nat
  gen : Nat
  dir : Direction
  seq : Nat
  deriving DecidableEq, Repr

/-- Verdict of a lane (06 R125). -/
inductive Verdict
  | pass
  | stop
  | refer
  | resend
  deriving DecidableEq, Repr

/-- Cause of a lane verdict (06 R125, 11 R188); OVERRUN is a fault cause only (R131). -/
inductive Cause
  | aboard
  | ashore
  | disembarked
  | gangwayClosed
  | halted
  | wrongLane
  | allAboard
  | unknown
  | crew
  | purser
  | notAboard
  | escort
  | alreadyAboard
  | framing
  | crc
  | gap
  | format
  | overrun
  deriving DecidableEq, Repr

/-- A verdict message (06 R116). -/
structure VerdictMsg where
  seq : Nat
  verdict : Verdict
  cause : Cause
  deriving DecidableEq, Repr

/-- The repeat record of a lane (06 R124). -/
structure RepeatRecord where
  read : LaneRead
  verdict : Verdict
  cause : Cause
  decidedAt : Nat
  deriving DecidableEq, Repr

/-- A lane controller (06 R116). -/
structure LaneState where
  mode : LaneMode
  dirSetting : DirSetting
  receiver : Receiver
  holding : Option LaneRead
  verdicts : List VerdictMsg
  faults : Nat
  lastFault : Option Cause
  lastRead : Option RepeatRecord
  deriving DecidableEq, Repr

/-! ## Client ports (chapter 9) -/

/-- Profile of a client port (09 R164). -/
inductive Profile
  | watch
  | service
  | access
  | purser
  deriving DecidableEq, Repr

/-- Notice kinds (09 R170). -/
inductive NoticeKind
  | started
  | dayRolled
  | holdExpired
  | accessUnconfirmed
  | cabinFault
  | cardAnomaly
  | cardholderSuspended
  | logFull
  | overLimit
  | allAboard
  | allReturned
  | closeHeld
  | callClosed
  | clockFreewheel
  | clockRestored
  | settingsSaved
  | saveFailed
  deriving DecidableEq, Repr

/-- Subject of a notice (09 R170, 11 R187). -/
inductive Subject
  | card (number : Nat)
  | folio (number : Nat)
  | cabin (number : Nat)
  | handle (h : Handle)
  deriving DecidableEq, Repr

/-- A notice (09 R170). -/
structure Notice where
  kind : NoticeKind
  time : Nat
  subject : Option Subject
  value : Option Int
  deriving DecidableEq, Repr

/-- Result codes and declines (11 R190). -/
inductive Result
  | ok
  | accepted
  | badFrame
  | unknownRequest
  | notPermitted
  | badField
  | amountRange
  | notFound
  | slotState
  | tableFull
  | duplicateCard
  | accountFull
  | grantLimit
  | genLimit
  | holdsOpen
  | accountSettled
  | entryState
  | queueFull
  | empty
  | callState
  | missing
  | timeBackward
  | storeBusy
  | storeInvalid
  | notLoaded
  | notClear
  | notOwner
  | holdGone
  | overHold
  | late
  | tokenMismatch
  | cardUnknown
  | cardSuperseded
  | cardGenAhead
  | cardSuspended
  | cardClosed
  | noAccount
  | accountNotOpen
  | presenceConflict
  | classDenied
  | overCap
  | overLimit
  | logFull
  | holdsFull
  deriving DecidableEq, Repr

/-- A response (09 R167, 11 R187): code, tag, result, indicators, and the body's bytes (11 R191). -/
structure Response where
  code : Byte
  tag : Byte
  result : Result
  clamped : Bool
  saturated : Bool
  more : Bool
  ended : Bool
  overrun : Bool
  body : List Byte
  deriving DecidableEq, Repr

/-- An entry of a request buffer (09 R165). -/
structure BufEntry where
  tag : Byte
  req : Request
  deriving DecidableEq, Repr

/-- What a delivery carries (09 R168); a notice carries the notices-lost flag as it stood (R171). -/
inductive Payload
  | response (r : Response)
  | notice (n : Notice) (lost : Bool)
  | empty
  deriving DecidableEq, Repr

/-- A delivery chosen by a READ (09 R168). -/
structure Delivery where
  payload : Payload
  waits : Bool
  queued : Nat
  deriving DecidableEq, Repr

/-- A window context (09 R174, R176; 05 R110). `ending` is absent for a collection empty at opening. A
chain cursor that is absent stands past the end; `gone` marks a history window whose cabin was undefined. -/
inductive Window
  | chain (review : Bool) (folio serial : Nat) (start ending cursor : Option Nat)
  | missing (start : Nat) (ending : Option Nat) (cursor : Nat)
  | history (number slot start : Nat) (ending : Option Nat) (cursor added : Nat) (gone : Bool)
  | closures (start : Nat) (ending : Option Nat) (cursor taken : Nat)
  deriving DecidableEq, Repr

/-- A client port (09 R164), and the delivery of its READ in progress (R168). -/
structure PortState where
  profile : Profile
  buffer : List BufEntry
  slot : Option Response
  queue : List Notice
  mask : BitVec 32
  window : Option Window
  overrun : Bool
  lost : Bool
  reading : Option Delivery
  deriving DecidableEq, Repr

/-! ## Clock (chapter 8) -/

/-- Clock state; FREEWHEEL holds the next freewheel second (08 R154). -/
inductive ClockState
  | ticked
  | freewheel (next : Nat)
  deriving DecidableEq, Repr

/-- The state of the device. The first fields lie in record memory (00 section 3, 10 R184), then those the
device loses at a start-up, then the non-volatile image; `pending` is the model's queue of commands. -/
structure State where
  roster : Table Cardholder
  accounts : Table Account
  nextSerial : Nat
  cabins : Table Cabin
  unlocks : List Unlock
  nextToken : Nat
  log : List Entry
  nextSeq : Nat
  holds : Table HoldSlot
  closures : List Summary
  counters : Counters
  call : CallRecord
  missing : List Nat
  shipTime : Nat
  shipDay : Nat
  nextRollover : Nat
  options : Options
  tariff : Tariff
  pendingTariff : Option Tariff
  marker : Bool
  ports : Quad PortState
  lanes : Quad LaneState
  clock : ClockState
  lastTick : Nat
  tickSeen : Bool
  timer : Nat
  store : Store
  loaded : Bool
  image : Option Settings
  pending : List Instr
  deriving DecidableEq, Repr

/-! ## Values after a start-up -/

/-- The call record's values in AT_SEA (07 R142). -/
def CallRecord.sea : CallRecord :=
  { state := .atSea, kind := none, allAboard := none, closeMode := .manual, closeTime := none, closeHeld := false }

/-- All four presence counters 0 (07 R133). -/
def Counters.zero : Counters := { notBoarded := 0, aboard := 0, ashore := 0, disembarked := 0 }

/-- The working options after a cold start (10 R178). -/
def Options.cold : Options :=
  { unlockDeadline := 8, holdLifetime := 14400, voidWindow := 900, escortWindow := 120, threshold := 3,
    rolloverHour := 4 }

/-- The current tariff after a cold start (03 R52). -/
def Tariff.cold : Tariff :=
  { rates := [1800, 1800, 1800, 0, 0, 0, 1800, 0]
    discounts := List.replicate 128 0
    adultBase := 5000000
    minorBase := 20000
    capStep := 2500
    capFloor := 0
    capCeiling := 5000000 }

/-- A lane after every start-up (06 R116). -/
def LaneState.started : LaneState :=
  { mode := .normal, dirSetting := .both, receiver := .idle, holding := none, verdicts := [], faults := 0,
    lastFault := none, lastRead := none }

/-- A notice mask that admits every kind: one bit for each of the kinds 01h to 11h (09 R164, 11 R191). -/
def everyKind : BitVec 32 := 0x1FFFF#32

/-- A port after every start-up, with its STARTED notice: value 0 for COLD, 1 for WARM (09 R164, 11 R190). -/
def PortState.started (profile : Profile) (time : Nat) (warm : Bool) : PortState :=
  { profile := profile
    buffer := []
    slot := none
    queue := [{ kind := .started, time := time, subject := none, value := some (if warm then 1 else 0) }]
    mask := everyKind
    window := none
    overrun := false
    lost := false
    reading := none }

/-- The machine right after reset: a cold START_UP (10 R184) has just been taken.
DESIGN CHOICE (log 1): the ports are strapped PURSER, SERVICE, ACCESS and WATCH, CP0 to CP3 (unsafe).
DESIGN CHOICE (log 2): the part has never been saved, so its image is INVALID, R180 (unsafe). -/
def State.reset : State :=
  { roster := []
    accounts := []
    nextSerial := 1
    cabins := []
    unlocks := []
    nextToken := 1
    log := []
    nextSeq := 1
    holds := []
    closures := []
    counters := .zero
    call := .sea
    missing := []
    shipTime := 0
    shipDay := 0
    nextRollover := 14400
    options := .cold
    tariff := .cold
    pendingTariff := none
    marker := true
    ports :=
      { a0 := .started .purser 0 false
        a1 := .started .service 0 false
        a2 := .started .access 0 false
        a3 := .started .watch 0 false }
    lanes := .fill .started
    clock := .ticked
    lastTick := 0
    tickSeen := false
    timer := 0
    store := .idle
    loaded := false
    image := none
    pending := [] }

end Sys2Proof.Machine
end

