-- ==== Sys2Proof/Machine/Operands.lean ====
section
/-! DEFINITION. Machine/Operands.lean: the codes of 11 R188 and R190, read from a request's byte and
written into a response. A code outside its table reads as none. -/

namespace Sys2Proof.Machine

/-- Profile of a strap code (00 section 4). -/
def Profile.ofStraps (code : BitVec 2) : Profile :=
  match code.toNat with
  | 0 => .watch
  | 1 => .service
  | 2 => .access
  | _ => .purser

/-- Profile code in READ PORT STATUS. DESIGN CHOICE (log 13): the strap code of 00 section 4. -/
def Profile.code : Profile → Nat
  | .watch => 0
  | .service => 1
  | .access => 2
  | .purser => 3

def CardState.code : CardState → Nat
  | .active => 1
  | .suspended => 2
  | .closed => 3

def CardKind.code : CardKind → Nat
  | .adult => 0
  | .minor => 1
  | .staff => 2

def CardKind.ofCode (b : Byte) : Option CardKind :=
  match b.toNat with
  | 0 => some .adult
  | 1 => some .minor
  | 2 => some .staff
  | _ => none

def Presence.code : Presence → Nat
  | .notBoarded => 0
  | .aboard => 1
  | .ashore => 2
  | .disembarked => 3

def Presence.ofCode (b : Byte) : Option Presence :=
  match b.toNat with
  | 0 => some .notBoarded
  | 1 => some .aboard
  | 2 => some .ashore
  | 3 => some .disembarked
  | _ => none

def AccountState.code : AccountState → Nat
  | .opened => 1
  | .settling => 2
  | .settled => 3

def Blocked.code : Blocked → Nat
  | .none => 0
  | .maintenance => 1
  | .lockFault => 2

def EntryKind.code : EntryKind → Nat
  | .charge => 0
  | .credit => 1

def EntryKind.ofCode (b : Byte) : Option EntryKind :=
  match b.toNat with
  | 0 => some .charge
  | 1 => some .credit
  | _ => none

def EntryState.code : EntryState → Nat
  | .posted => 0
  | .voided => 1
  | .settled => 2

/-- Outcome of a LOCK REPORT as the history result it records (02 R40). -/
def lockOutcome (b : Byte) : Option HistoryResult :=
  match b.toNat with
  | 1 => some .opened
  | 2 => some .notOpened
  | 3 => some .jammed
  | _ => none

def AccessVerdict.code : AccessVerdict → Nat
  | .grant => 0x00
  | .denyUnknown => 0x01
  | .denySuperseded => 0x02
  | .denyGenAhead => 0x03
  | .denySuspended => 0x04
  | .denyClosed => 0x05
  | .denyNoCabin => 0x06
  | .denyBlocked => 0x07
  | .denyNotGranted => 0x08
  | .denyPresence => 0x09
  | .denyPrivacy => 0x0A
  | .denyBusy => 0x0B

def HistoryResult.code : HistoryResult → Nat
  | .opened => 1
  | .notOpened => 2
  | .jammed => 3
  | .unconfirmed => 4
  | .denied _ => 5

/-- The cause byte of a history event: 00h for results other than DENIED (11 R191). -/
def HistoryResult.causeCode : HistoryResult → Nat
  | .denied cause => cause.code
  | _ => 0

def CallState.code : CallState → Nat
  | .atSea => 0
  | .alongside => 1
  | .allAboard => 2

def CallKind.code : CallKind → Nat
  | .embark => 1
  | .port => 2
  | .final => 3

def CallKind.ofCode (b : Byte) : Option CallKind :=
  match b.toNat with
  | 1 => some .embark
  | 2 => some .port
  | 3 => some .final
  | _ => none

def CloseMode.code : CloseMode → Nat
  | .manual => 0
  | .timed => 1

def CloseMode.ofCode (b : Byte) : Option CloseMode :=
  match b.toNat with
  | 0 => some .manual
  | 1 => some .timed
  | _ => none

def LaneMode.code : LaneMode → Nat
  | .normal => 0
  | .halt => 1
  | .loop => 2

def LaneMode.ofCode (b : Byte) : Option LaneMode :=
  match b.toNat with
  | 0 => some .normal
  | 1 => some .halt
  | 2 => some .loop
  | _ => none

def DirSetting.code : DirSetting → Nat
  | .both => 0
  | .inOnly => 1
  | .outOnly => 2

def DirSetting.ofCode (b : Byte) : Option DirSetting :=
  match b.toNat with
  | 0 => some .both
  | 1 => some .inOnly
  | 2 => some .outOnly
  | _ => none

def Direction.code : Direction → Nat
  | .inward => 1
  | .outward => 2

def Direction.ofCode (b : Byte) : Option Direction :=
  match b.toNat with
  | 1 => some .inward
  | 2 => some .outward
  | _ => none

/-- Receiver state in READ LANE. DESIGN CHOICE (log 13): 0 IDLE, 1 ASSEMBLING. -/
def Receiver.code : Receiver → Nat
  | .idle => 0
  | .assembling _ _ => 1

def Verdict.code : Verdict → Nat
  | .pass => 1
  | .stop => 2
  | .refer => 3
  | .resend => 4

def Cause.code : Cause → Nat
  | .aboard => 0x01
  | .ashore => 0x02
  | .disembarked => 0x03
  | .gangwayClosed => 0x10
  | .halted => 0x11
  | .wrongLane => 0x12
  | .allAboard => 0x13
  | .unknown => 0x20
  | .crew => 0x21
  | .purser => 0x22
  | .notAboard => 0x23
  | .escort => 0x24
  | .alreadyAboard => 0x25
  | .framing => 0x30
  | .crc => 0x31
  | .gap => 0x32
  | .format => 0x33
  | .overrun => 0x34

/-- Clock state code. -/
def ClockState.code : ClockState → Nat
  | .ticked => 0
  | .freewheel _ => 1

/-- Store state code. -/
def Store.code : Store → Nat
  | .idle => 0
  | .busy _ _ => 1

def NoticeKind.code : NoticeKind → Nat
  | .started => 0x01
  | .dayRolled => 0x02
  | .holdExpired => 0x03
  | .accessUnconfirmed => 0x04
  | .cabinFault => 0x05
  | .cardAnomaly => 0x06
  | .cardholderSuspended => 0x07
  | .logFull => 0x08
  | .overLimit => 0x09
  | .allAboard => 0x0A
  | .allReturned => 0x0B
  | .closeHeld => 0x0C
  | .callClosed => 0x0D
  | .clockFreewheel => 0x0E
  | .clockRestored => 0x0F
  | .settingsSaved => 0x10
  | .saveFailed => 0x11

def Result.code : Result → Nat
  | .ok => 0x00
  | .accepted => 0x01
  | .badFrame => 0x02
  | .unknownRequest => 0x03
  | .notPermitted => 0x04
  | .badField => 0x05
  | .amountRange => 0x06
  | .notFound => 0x07
  | .slotState => 0x08
  | .tableFull => 0x09
  | .duplicateCard => 0x0A
  | .accountFull => 0x0B
  | .grantLimit => 0x0C
  | .genLimit => 0x0D
  | .holdsOpen => 0x0E
  | .accountSettled => 0x0F
  | .entryState => 0x10
  | .queueFull => 0x11
  | .empty => 0x12
  | .callState => 0x13
  | .missing => 0x14
  | .timeBackward => 0x15
  | .storeBusy => 0x16
  | .storeInvalid => 0x17
  | .notLoaded => 0x18
  | .notClear => 0x19
  | .notOwner => 0x1A
  | .holdGone => 0x1B
  | .overHold => 0x1C
  | .late => 0x1D
  | .tokenMismatch => 0x1E
  | .cardUnknown => 0x20
  | .cardSuperseded => 0x21
  | .cardGenAhead => 0x22
  | .cardSuspended => 0x23
  | .cardClosed => 0x24
  | .noAccount => 0x25
  | .accountNotOpen => 0x26
  | .presenceConflict => 0x27
  | .classDenied => 0x28
  | .overCap => 0x29
  | .overLimit => 0x2A
  | .logFull => 0x2B
  | .holdsFull => 0x2C

/-- A flag byte: 0 or 1; another is answered BAD_FIELD (11 R191). -/
def flagOf (b : Byte) : Option Bool :=
  match b.toNat with
  | 0 => some false
  | 1 => some true
  | _ => none

/-- A deck mask names no deck above 20 (11 R191). -/
def deckMaskOk (mask : BitVec 32) : Bool := decide (mask.toNat < 2 ^ 20)

/-- A notice mask names no kind above 11h (09 R172, 11 R191). -/
def noticeMaskOk (mask : BitVec 32) : Bool := decide (mask.toNat < 2 ^ 17)

/-- Deck `d` is in the mask, deck 1 lowest (11 R191). -/
def hasDeck (mask : BitVec 32) (d : Nat) : Bool := decide (1 ≤ d) && mask.getLsbD (d - 1)

/-- Class `c` is in the mask, class 0 lowest (11 R191). -/
def hasClass (mask : BitVec 8) (c : Nat) : Bool := mask.getLsbD c

/-- Notice kind `k` is in the mask, kind 01h lowest (11 R191). -/
def hasKind (mask : BitVec 32) (k : NoticeKind) : Bool := mask.getLsbD (k.code - 1)

end Sys2Proof.Machine
end

