-- ==== Sys2Proof/Machine/Flags.lean ====
section
/-! DEFINITION. Machine/Flags.lean: the indicator byte of a response and the output lines that follow
from the state: attention lines and lane lines. -/

namespace Sys2Proof.Machine

def bitValue (b : Bool) (i : Nat) : Nat := if b then 2 ^ i else 0

/-- The indicator byte: CLAMPED lowest, then SATURATED, MORE, END, OVERRUN (11 R187). -/
def Response.indicators (r : Response) : Nat :=
  bitValue r.clamped 0 + bitValue r.saturated 1 + bitValue r.more 2 + bitValue r.ended 3 + bitValue r.overrun 4

/-- The attention line of a port: asserted while the slot holds a response or the queue a notice (09 R169). -/
def PortState.attention (p : PortState) : Bool := p.slot.isSome || !p.queue.isEmpty

/-- The attention line of port `p`. -/
def State.attention (s : State) (p : Port) : Bool := (s.ports.get p).attention

/-- Condition of a lane's line out of the device (06 section 6.1). -/
inductive LineState
  | idle
  | sending
  | breaking
  deriving DecidableEq, Repr

/-- The oldest verdict of the buffer is the one on the line; with an empty buffer the line is idle in
NORMAL and LOOP and at break in HALT (06 R120, R127). -/
def LaneState.line (l : LaneState) : LineState :=
  match l.verdicts, l.mode with
  | _ :: _, _ => .sending
  | [], .halt => .breaking
  | [], .normal => .idle
  | [], .loop => .idle

/-- The line of lane `l`. -/
def State.laneLine (s : State) (l : Lane) : LineState := (s.lanes.get l).line

end Sys2Proof.Machine
end

