-- ==== Sys2Proof/Machine/Encode.lean ====
section
/-! DEFINITION. Machine/Encode.lean: how the contents of responses, notices, deliveries and verdict
messages are laid out as bytes (11 R187, R188, R191). -/

namespace Sys2Proof.Machine

/-! ## Elements (11 R191) -/

def u8 (x : Nat) : List Byte := leBytes 1 x

def u16 (x : Nat) : List Byte := leBytes 2 x

def u32 (x : Nat) : List Byte := leBytes 4 x

def u48 (x : Nat) : List Byte := leBytes 6 x

/-- A signed quantity of `n` bytes, in two's complement. -/
def signedBytes (n : Nat) (x : Int) : List Byte := leBytes n (x % (256 ^ n : Nat)).toNat

def i8 (x : Int) : List Byte := signedBytes 1 x

def i32 (x : Int) : List Byte := signedBytes 4 x

def i64 (x : Int) : List Byte := signedBytes 8 x

def flag (b : Bool) : List Byte := u8 (if b then 1 else 0)

/-- An optional field: a presence byte, 0 or 1, and its bytes only when it is 1. -/
def optional {α : Type} (f : α → List Byte) : Option α → List Byte
  | none => [0#8]
  | some x => 1#8 :: f x

/-- A group of fields that a rule gives under a condition. DEDUCED (log 12): one presence byte for the
group, as the chain entry item of R191 has it. -/
def optionalGroup (given : Bool) (bytes : List Byte) : List Byte :=
  optional id (if given then some bytes else none)

/-- The items of a list, without their count. -/
def itemsOf {α : Type} (f : α → List Byte) : List α → List Byte
  | [] => []
  | x :: xs => f x ++ itemsOf f xs

/-- A list of at most 255 items: a count byte, then the items in the list's order. -/
def listOf {α : Type} (f : α → List Byte) (xs : List α) : List Byte := u8 xs.length ++ itemsOf f xs

/-! ## Records inside responses -/

/-- A last transit: ship time, lane (FFh MANUAL), direction (11 R190, R191). -/
def Transit.bytes (t : Transit) : List Byte :=
  u32 t.time ++ u8 (match t.lane with | some l => l.index | none => 0xFF) ++ u8 t.dir.code

/-- A hold handle: slot, then tag. -/
def Handle.bytes (h : Handle) : List Byte := u8 h.slot ++ u8 h.reuse

/-- A history event item (11 R191). -/
def HistoryEvent.bytes (e : HistoryEvent) : List Byte :=
  u32 e.time ++ u32 e.card ++ u8 e.result.code ++ u8 e.result.causeCode

/-- A closure summary item (11 R191). -/
def Summary.bytes (x : Summary) : List Byte :=
  u32 x.folio ++ u32 x.serial ++ i32 x.settled ++ u32 x.deposit ++ i32 x.balance ++ u32 x.count ++
    optional u32 x.first ++ optional u32 x.last ++ u32 x.time ++ listOf u32 x.cards

/-- A chain entry item, with the folio and card number where they are found (04 R94, 11 R191). -/
def Entry.bytes (e : Entry) (folio card : Option Nat) : List Byte :=
  u32 e.seq ++ u8 e.kind.code ++ u8 e.state.code ++ u32 e.serial ++ optional u32 e.link ++
    u32 e.amount ++ u32 e.time ++ u32 e.day ++ u8 e.cls ++
    optional (fun o : Origin => u16 o.holder ++ u8 o.port.index ++ u16 o.outlet) e.origin ++
    optional (fun d : Detail => u32 d.gross ++ u32 d.discount ++ u32 d.service) e.detail ++
    optional Handle.bytes e.hold ++
    optional (fun x : Split => u32 x.first ++ u8 x.index ++ u8 x.count) e.split ++
    optional u32 folio ++ optional u32 card

/-- The six working options in a response (10 R178, R179). DESIGN CHOICE (log 13): R191 lists no size for an unlock
deadline, a hold lifetime, a void or escort window or a threshold; each has the size of its field in the body of SET
OPTIONS (11 R189). -/
def Options.bytes (o : Options) : List Byte :=
  u16 o.unlockDeadline ++ u32 o.holdLifetime ++ u16 o.voidWindow ++ u16 o.escortWindow ++
    u8 o.threshold ++ u8 o.rolloverHour

/-- A tariff whole: part 1 in order, then rows 8 to 15 (11 R192). -/
def Tariff.bytes (t : Tariff) : List Byte :=
  itemsOf u16 t.rates ++ u32 t.adultBase ++ u32 t.minorBase ++ u32 t.capStep ++ u32 t.capFloor ++
    u32 t.capCeiling ++ itemsOf u16 t.discounts

/-- The call record, every field (07 R149). -/
def CallRecord.bytes (c : CallRecord) : List Byte :=
  u8 c.state.code ++ optional (fun k : CallKind => u8 k.code) c.kind ++ optional u32 c.allAboard ++
    u8 c.closeMode.code ++ optional u32 c.closeTime ++ flag c.closeHeld

/-- A lane's fields as READ LANE gives them (06 R131). -/
def LaneState.bytes (l : LaneState) : List Byte :=
  u8 l.mode.code ++ u8 l.dirSetting.code ++ u8 l.receiver.code ++
    optional (fun r : LaneRead => u32 r.card ++ u8 r.dir.code) l.holding ++
    u8 l.verdicts.length ++ u8 l.faults ++ u8 (match l.lastFault with | some c => c.code | none => 0) ++
    optional (fun r : RepeatRecord =>
      u32 r.read.card ++ u8 r.read.dir.code ++ u8 r.verdict.code ++ u8 r.cause.code) l.lastRead

/-- A window context in READ PORT STATUS: collection, key, mode, start, end, cursor (09 R173).
DESIGN CHOICE (log 13): every key in 4 bytes as WINDOW OPEN carries it, 0 for MISSING and CLOSURES;
positions in 4 bytes, the end and the cursor optional; an absent start reads 0. -/
def Window.bytes : Window → List Byte
  | .chain review folio _ start ending cursor =>
    u8 1 ++ u32 folio ++ flag review ++ u32 (start.getD 0) ++ optional u32 ending ++ optional u32 cursor
  | .missing start ending cursor =>
    u8 2 ++ u32 0 ++ u8 0 ++ u32 start ++ optional u32 ending ++ optional u32 (some cursor)
  | .history number _ start ending cursor _ _ =>
    u8 3 ++ u32 number ++ u8 0 ++ u32 start ++ optional u32 ending ++ optional u32 (some cursor)
  | .closures start ending cursor _ =>
    u8 4 ++ u32 0 ++ u8 0 ++ u32 start ++ optional u32 ending ++ optional u32 (some cursor)

/-! ## Deliveries and lane messages -/

/-- The content of a response (11 R187). -/
def Response.bytes (r : Response) : List Byte :=
  [r.code, r.tag] ++ u8 r.result.code ++ u8 r.indicators ++ r.body

/-- The subject field of a notice; 4 bytes, a handle as slot then tag (11 R187). DESIGN CHOICE (log 13): the
two bytes after a handle are 0. -/
def Subject.bytes : Subject → List Byte
  | .card n => u32 n
  | .folio n => u32 n
  | .cabin n => u32 n
  | .handle h => u32 (h.slot + 256 * h.reuse)

/-- The content of a notice, 16 bytes; an absent subject or value field holds zeros (11 R187, log 13). -/
def Notice.bytes (n : Notice) (lost : Bool) : List Byte :=
  u8 n.kind.code ++ flag lost ++ u32 n.time ++
    flag n.subject.isSome ++ (match n.subject with | some x => x.bytes | none => u32 0) ++
    flag n.value.isSome ++ (match n.value with | some v => i32 v | none => u32 0)

def Payload.kindCode : Payload → Nat
  | .response _ => 0x01
  | .notice _ _ => 0x02
  | .empty => 0x03

def Payload.bytes : Payload → List Byte
  | .response r => r.bytes
  | .notice n lost => n.bytes lost
  | .empty => []

/-- The delivery frame a READ clocks out (11 R187). -/
def Delivery.frame (d : Delivery) : List Byte :=
  let content := d.payload.bytes
  let covered := [Config.syncByte] ++ u16 (content.length + 3) ++ u8 d.payload.kindCode ++ flag d.waits ++
    u8 d.queued ++ content
  covered ++ crcBytes covered

/-- The bytes of the READ in progress on port `p`, where there is one. -/
def State.deliveryFrame (s : State) (p : Port) : Option (List Byte) :=
  (s.ports.get p).reading.map Delivery.frame

/-- A verdict message on the line, 6 bytes (11 R188). -/
def VerdictMsg.frame (v : VerdictMsg) : List Byte :=
  let covered := [Config.laneStart] ++ u8 v.seq ++ u8 v.verdict.code ++ u8 v.cause.code
  covered ++ crcBytes covered

/-- The message lane `l` is sending, where it is sending one (06 R120). -/
def State.verdictFrame (s : State) (l : Lane) : Option (List Byte) :=
  (s.lanes.get l).verdicts.head?.map VerdictMsg.frame

end Sys2Proof.Machine
end

