-- ==== Sys2Proof/Machine/Ops.lean ====
section
/-! DEFINITION. Machine/Ops.lean: the named operations that every family uses: tables by slot, look-up by
key, ports and lanes, notices, windows, replies, and conflict reports. -/

namespace Sys2Proof.Machine

/-! ## Tables -/

/-- The record in a slot, where the slot is not FREE. -/
def Table.fetch {α : Type} : Table α → Nat → Option α
  | [], _ => none
  | (i, a) :: rest, k => if i = k then some a else Table.fetch rest k

/-- Write a slot, keeping slots strictly rising. -/
def Table.store {α : Type} : Table α → Nat → α → Table α
  | [], k, x => [(k, x)]
  | (i, a) :: rest, k, x =>
    if k < i then (k, x) :: (i, a) :: rest
    else if k = i then (k, x) :: rest
    else (i, a) :: Table.store rest k x

/-- Return a slot to its FREE values. -/
def Table.remove {α : Type} : Table α → Nat → Table α
  | [], _ => []
  | (i, a) :: rest, k => if i = k then rest else (i, a) :: Table.remove rest k

/-- Change the record of a slot that is not FREE. -/
def Table.modify {α : Type} : Table α → Nat → (α → α) → Table α
  | [], _, _ => []
  | (i, a) :: rest, k, f => if i = k then (i, f a) :: rest else (i, a) :: Table.modify rest k f

/-- The record that carries a key, with its slot (01 R1). -/
def Table.search {α : Type} : Table α → (α → Bool) → Option (Nat × α)
  | [], _ => none
  | (i, a) :: rest, p => if p a then some (i, a) else Table.search rest p

/-- The lowest slot number from `n` on that the table does not list. -/
def Table.lowestFrom {α : Type} : Table α → Nat → Nat
  | [], n => n
  | (i, _) :: rest, n => if i = n then Table.lowestFrom rest (n + 1) else n

/-- The lowest FREE slot of a table of so many slots (01 R1). -/
def Table.freeSlot {α : Type} (t : Table α) (slots : Nat) : Option Nat :=
  if Table.lowestFrom t 0 < slots then some (Table.lowestFrom t 0) else none

/-- Every listed slot lies at `n` or above, and slots rise strictly. -/
def Table.rising {α : Type} : Table α → Nat → Bool
  | [], _ => true
  | (i, _) :: rest, n => decide (n ≤ i) && Table.rising rest (i + 1)

/-- The canonical form of a table of so many slots. -/
def Table.wf {α : Type} (t : Table α) (slots : Nat) : Bool :=
  Table.rising t 0 && t.all (fun e => decide (e.1 < slots))

/-! ## Look-up by key (01 R1) -/

/-- The cardholder that is not FREE and carries a card number, with its slot. -/
def State.findCard (s : State) (card : Nat) : Option (Nat × Cardholder) :=
  s.roster.search (fun c => c.card == card)

/-- The account that is not FREE and carries a folio number, with its slot. -/
def State.findFolio (s : State) (folio : Nat) : Option (Nat × Account) :=
  s.accounts.search (fun a => a.folio == folio)

/-- The account that is not FREE and carries a serial, with its slot. -/
def State.findSerial (s : State) (serial : Nat) : Option (Nat × Account) :=
  s.accounts.search (fun a => a.serial == serial)

/-- The defined cabin that carries a cabin number, with its slot. -/
def State.findCabin (s : State) (number : Nat) : Option (Nat × Cabin) :=
  s.cabins.search (fun c => c.number == number)

/-- The card number of a cardholder slot that is not FREE. -/
def State.cardNumber (s : State) (slot : Nat) : Option Nat := (s.roster.fetch slot).map (·.card)

/-- The card numbers of a list of cardholder slots, in its order. -/
def State.cardNumbers (s : State) (slots : List Nat) : List Nat :=
  slots.filterMap (fun slot => s.cardNumber slot)

/-- The account of a cardholder: its account slot, while that slot carries its serial (01 R6, R26). -/
def State.accountOf (s : State) (c : Cardholder) : Option (Nat × Account) :=
  match c.account with
  | none => none
  | some ref =>
    match s.accounts.fetch ref.slot with
    | none => none
    | some a => if a.serial = ref.serial then some (ref.slot, a) else none

/-- Headroom L + D − posted − held (04 R93). -/
def Account.headroom (a : Account) : Int := a.limit + a.deposit - a.posted - a.held

/-- Spent today as R4 reads it. -/
def Cardholder.spentToday (c : Cardholder) (day : Nat) : Nat := if c.spentDay = day then c.spent else 0

/-- Restamp and add to spent today (01 R4). -/
def Cardholder.spend (c : Cardholder) (day amount : Nat) : Cardholder :=
  { c with spent := c.spentToday day + amount, spentDay := day }

/-! ## Ports, windows and lanes -/

def State.modPort (s : State) (p : Port) (f : PortState → PortState) : State :=
  { s with ports := s.ports.set p (f (s.ports.get p)) }

def State.modLane (s : State) (l : Lane) (f : LaneState → LaneState) : State :=
  { s with lanes := s.lanes.set l (f (s.lanes.get l)) }

/-- The window of port `p` becomes absent (09 R177). -/
def State.closeWindow (s : State) (p : Port) : State :=
  s.modPort p (fun port => { port with window := none })

/-- The window of port `p` becomes `w` (09 R174). -/
def State.setWindow (s : State) (p : Port) (w : Window) : State :=
  s.modPort p (fun port => { port with window := some w })

/-- Change the window of every port that has one. -/
def State.mapWindows (s : State) (f : Window → Window) : State :=
  { s with ports := s.ports.map (fun port => { port with window := port.window.map f }) }

/-! ## Notices (09 R170 to R172) -/

/-- Queue a notice on a port whose mask admits its kind; drop it at a full queue and set the
notices-lost flag (09 R171, R172). -/
def PortState.enqueue (port : PortState) (n : Notice) : PortState :=
  if hasKind port.mask n.kind then
    if port.queue.length < Config.queuePlaces then { port with queue := port.queue ++ [n] }
    else { port with lost := true }
  else port

/-- Raise a notice to every port whose profile receives it. -/
def State.raise (s : State) (receives : Profile → Bool) (kind : NoticeKind) (subject : Option Subject)
    (value : Option Int) : State :=
  { s with ports := s.ports.map (fun port =>
      if receives port.profile then
        port.enqueue { kind := kind, time := s.shipTime, subject := subject, value := value }
      else port) }

/-- Raise a notice to one named port, whatever its profile (09 R170). -/
def State.raiseTo (s : State) (p : Port) (kind : NoticeKind) (subject : Option Subject)
    (value : Option Int) : State :=
  s.modPort p (fun port =>
    port.enqueue { kind := kind, time := s.shipTime, subject := subject, value := value })

def everyPort (_ : Profile) : Bool := true

def purserPorts : Profile → Bool
  | .purser => true
  | _ => false

def purserAndWatch : Profile → Bool
  | .purser => true
  | .watch => true
  | _ => false

def purserAndService : Profile → Bool
  | .purser => true
  | .service => true
  | _ => false

def accessAndPurser : Profile → Bool
  | .access => true
  | .purser => true
  | _ => false

/-! ## Replies -/

/-- What a request's rule answers: result, indicators and body; OVERRUN is the port's (09 R167). -/
structure Reply where
  result : Result
  clamped : Bool
  saturated : Bool
  more : Bool
  ended : Bool
  body : List Byte
  deriving DecidableEq, Repr

/-- A reply with no indicator. -/
def Reply.of (result : Result) (body : List Byte) : Reply :=
  { result := result, clamped := false, saturated := false, more := false, ended := false, body := body }

/-- OK with its contents. -/
def Reply.ok (body : List Byte) : Reply := Reply.of .ok body

/-- A refusal with an empty body (11 R191). -/
def Reply.refuse (result : Result) : Reply := Reply.of result []

/-- A WINDOW ACT answered END: result OK with the END indicator (05 R112, 11 R191). DESIGN CHOICE (log 14): its body
is empty. -/
def Reply.finished : Reply := { Reply.ok [] with ended := true }

/-- A WINDOW READ answered END: result OK with the END indicator and no items, its body the item count 0
(09 R175, 11 R191). -/
def Reply.noItems : Reply := { Reply.ok (u8 0) with ended := true }

/-- A request's outcome: the state after its step, and its reply. -/
abbrev Served := State × Reply

/-- The response fills the port's slot, with OVERRUN when the overrun flag was set, which it clears
(09 R166, R167). -/
def State.respond (s : State) (p : Port) (code tag : Byte) (r : Reply) : State :=
  s.modPort p (fun port =>
    { port with
      slot := some
        { code := code, tag := tag, result := r.result, clamped := r.clamped, saturated := r.saturated,
          more := r.more, ended := r.ended, overrun := port.overrun, body := r.body }
      overrun := false })

/-! ## Conflicts and automatic suspension (01 R11, R12) -/

/-- The conflict count after a report: it rises by 1 and stays at 15 (01 R11). -/
def conflictsAfter (n : Nat) : Nat := min 15 (n + 1)

/-- A report that leaves the count at or above a threshold that is not 0 suspends an ACTIVE cardholder
(01 R12). -/
def suspends (threshold : Nat) (c : Cardholder) : Bool :=
  threshold != 0 && decide (threshold ≤ conflictsAfter c.conflicts) && c.state == .active

/-- A conflict report for a cardholder slot, as one step: the count, CARD_ANOMALY, and the automatic
suspension with its notice after it (01 R11, R12). -/
def State.reportConflict (s : State) (slot : Nat) : State :=
  match s.roster.fetch slot with
  | none => s
  | some c =>
    let n := conflictsAfter c.conflicts
    let state := if suspends s.options.threshold c then .suspended else c.state
    let counted := { s with roster := s.roster.store slot { c with conflicts := n, state := state } }
    let told := counted.raise purserAndWatch .cardAnomaly (some (.card c.card)) (some (n : Int))
    if suspends s.options.threshold c then
      told.raise purserAndWatch .cardholderSuspended (some (.card c.card)) (some (n : Int))
    else told

/-- OVER_LIMIT to PURSER ports when posted + held exceeds L + D: the excess (01 R15, 05 R103). -/
def State.noteOverLimit (s : State) (a : Account) : State :=
  if a.headroom < 0 then s.raise purserPorts .overLimit (some (.folio a.folio)) (some (-a.headroom)) else s

end Sys2Proof.Machine
end

