-- ==== Sys2Proof/Machine/Pricing.lean ====
section
/-! DEFINITION. Machine/Pricing.lean: the Pricing Unit (chapter 3): the four stages, the effective daily
cap, the cap offset requests and PRICE. -/

namespace Sys2Proof.Machine

/-! ## The four stages (03 R54 to R58) -/

/-- A pricing result (03 R58): class, package, G, d, X, N, S, V, T, k and the shares in listed order. -/
structure Priced where
  cls : Nat
  package : Nat
  gross : Nat
  discountRate : Nat
  discount : Nat
  net : Nat
  serviceRate : Nat
  service : Nat
  total : Nat
  k : Nat
  shares : List Nat
  deriving DecidableEq, Repr

/-- A rate in basis points applied to an amount, rounded half up (03 R55, R56). -/
def atRate (amount rate : Nat) : Nat := (amount * rate + 5000) / 10000

/-- Package discount of a package code and class: row of the code, column of the class (03 R52). -/
def Tariff.discountOf (t : Tariff) (package cls : Nat) : Nat := t.discounts.getD (8 * package + cls) 0

/-- Service rate of a class (03 R52). -/
def Tariff.rateOf (t : Tariff) (cls : Nat) : Nat := t.rates.getD cls 0

/-- The k shares of a total: the first r are b + 1, the others b (03 R57). -/
def splitShares (total k : Nat) : List Nat :=
  (List.range k).map (fun i => if i < total % k then total / k + 1 else total / k)

/-- Price a gross in a class with a package, divided among k (03 R54 to R57). -/
def Tariff.price (t : Tariff) (cls package gross k : Nat) : Priced :=
  let d := t.discountOf package cls
  let x := atRate gross d
  let n := gross - x
  let r := t.rateOf cls
  let v := atRate n r
  { cls := cls, package := package, gross := gross, discountRate := d, discount := x, net := n,
    serviceRate := r, service := v, total := n + v, k := k, shares := splitShares (n + v) k }

/-- The pricing block of a response (11 R191). -/
def Priced.bytes (x : Priced) : List Byte :=
  u8 x.cls ++ u8 x.package ++ u32 x.gross ++ u16 x.discountRate ++ u32 x.discount ++ u32 x.net ++
    u16 x.serviceRate ++ u32 x.service ++ u32 x.total ++ u8 x.k ++ itemsOf u32 x.shares

/-! ## The effective daily cap (03 R61) -/

/-- The tariff's base cap for a cardholder's kind (03 R61). -/
def Tariff.baseCap (t : Tariff) (kind : CardKind) : Nat :=
  match kind with
  | .minor => t.minorBase
  | .adult => t.adultBase
  | .staff => t.adultBase

/-- A value brought between the tariff's floor and ceiling (03 R61). -/
def Tariff.clampCap (t : Tariff) (raw : Int) : Int :=
  if raw < t.capFloor then t.capFloor else if (t.capCeiling : Int) < raw then t.capCeiling else raw

/-- The effective daily cap of a guest: base + offset × step, clamped (03 R61). -/
def effectiveCap (t : Tariff) (c : Cardholder) : Int :=
  t.clampCap (t.baseCap c.kind + c.capOffset * t.capStep)

/-! ## Cap offset requests (03 R63, R64) -/

/-- A signed value brought into the offset's range (03 R64). -/
def clampOffset (x : Int) : Int := if x < -32 then -32 else if 31 < x then 31 else x

/-- The cap offset of a guest becomes `offset`; the reply carries it and the cap formed with it. -/
def writeOffset (slot : Nat) (c : Cardholder) (offset : Int) (s : State) : Served :=
  let c' := { c with capOffset := offset }
  ({ s with roster := s.roster.store slot c' }, Reply.ok (i8 offset ++ i32 (effectiveCap s.tariff c')))

/-- CAP UP (03 R63). -/
def serveCapUp (card : BitVec 32) (s : State) : Served :=
  match s.findCard card.toNat with
  | none => (s, Reply.refuse .notFound)
  | some (slot, c) =>
    if c.kind = .staff ∨ c.state = .closed then (s, Reply.refuse .slotState)
    else if 31 ≤ c.capOffset then
      (s, { Reply.ok (i8 c.capOffset ++ i32 (effectiveCap s.tariff c)) with saturated := true })
    else writeOffset slot c (c.capOffset + 1) s

/-- CAP DOWN (03 R63). -/
def serveCapDown (card : BitVec 32) (s : State) : Served :=
  match s.findCard card.toNat with
  | none => (s, Reply.refuse .notFound)
  | some (slot, c) =>
    if c.kind = .staff ∨ c.state = .closed then (s, Reply.refuse .slotState)
    else if c.capOffset ≤ -32 then
      (s, { Reply.ok (i8 c.capOffset ++ i32 (effectiveCap s.tariff c)) with saturated := true })
    else writeOffset slot c (c.capOffset - 1) s

/-- SET CAP OFFSET: the signed byte, clamped to −32 to +31 with CLAMPED (03 R64). -/
def serveSetCapOffset (card : BitVec 32) (offset : Byte) (s : State) : Served :=
  match s.findCard card.toNat with
  | none => (s, Reply.refuse .notFound)
  | some (slot, c) =>
    if c.kind = .staff ∨ c.state = .closed then (s, Reply.refuse .slotState)
    else
      let written := writeOffset slot c (clampOffset offset.toInt) s
      (written.1, { written.2 with clamped := clampOffset offset.toInt != offset.toInt })

/-! ## PRICE (03 R66, R67) -/

/-- A unit price and quantity out of range (03 R54). -/
def priceOutOfRange (unit qty : Nat) : Bool :=
  decide (Config.priceMax < unit) || decide (qty = 0) || decide (Config.quantityMax < qty)

/-- Cap, spent today, held sum and cap room of a named card (03 R67). -/
def quoteRoom (s : State) (c : Cardholder) : List Byte :=
  let cap := effectiveCap s.tariff c
  i32 cap ++ u32 (c.spentToday s.shipDay) ++ u32 c.held ++ i32 (cap - c.spentToday s.shipDay - c.held)

/-- PRICE (03 R66, R67): a quote, which changes no record. -/
def servePrice (cls : Byte) (unit : BitVec 32) (qty k : Byte) (card : BitVec 32) (package : Byte)
    (s : State) : Served :=
  if 7 < cls.toNat ∨ k.toNat = 0 ∨ 4 < k.toNat then (s, Reply.refuse .badField)
  else if priceOutOfRange unit.toNat qty.toNat then (s, Reply.refuse .amountRange)
  else if card.toNat = 0 then
    if 15 < package.toNat then (s, Reply.refuse .badField)
    else
      (s, Reply.ok ((s.tariff.price cls.toNat package.toNat (unit.toNat * qty.toNat) k.toNat).bytes ++
        optionalGroup false []))
  else
    match s.findCard card.toNat with
    | none => (s, Reply.refuse .notFound)
    | some (_, c) =>
      if c.kind = .staff then (s, Reply.refuse .slotState)
      else
        match s.accountOf c with
        | none => (s, Reply.refuse .slotState)
        | some (_, a) =>
          (s, Reply.ok ((s.tariff.price cls.toNat a.package (unit.toNat * qty.toNat) k.toNat).bytes ++
            optionalGroup true (quoteRoom s c)))

end Sys2Proof.Machine
end

