-- ==== Sys2Proof/Machine/Roster.lean ====
section
/-! DEFINITION. Machine/Roster.lean: cardholders (chapter 1): enrolment, card life, masks, purge, and
READ CARDHOLDER. -/

namespace Sys2Proof.Machine

/-! ## Presence counters (07 R133) -/

/-- The counter of a presence. -/
def Counters.of (c : Counters) : Presence → Nat
  | .notBoarded => c.notBoarded
  | .aboard => c.aboard
  | .ashore => c.ashore
  | .disembarked => c.disembarked

/-- The counter of a presence rises by 1. -/
def Counters.up (c : Counters) : Presence → Counters
  | .notBoarded => { c with notBoarded := c.notBoarded + 1 }
  | .aboard => { c with aboard := c.aboard + 1 }
  | .ashore => { c with ashore := c.ashore + 1 }
  | .disembarked => { c with disembarked := c.disembarked + 1 }

/-- The counter of a presence falls by 1. -/
def Counters.down (c : Counters) : Presence → Counters
  | .notBoarded => { c with notBoarded := c.notBoarded - 1 }
  | .aboard => { c with aboard := c.aboard - 1 }
  | .ashore => { c with ashore := c.ashore - 1 }
  | .disembarked => { c with disembarked := c.disembarked - 1 }

/-- The counter of a presence that may be absent (STAFF) falls by 1. -/
def Counters.downIf (c : Counters) : Option Presence → Counters
  | none => c
  | some p => c.down p

/-! ## Enrolment (01 R5, R6) -/

/-- The record of a newly enrolled guest (01 R6). -/
def newGuest (kind : CardKind) (card serial account : Nat) (classMask : BitVec 8) (day : Nat) : Cardholder :=
  { state := .active, card := card, gen := 0, kind := kind,
    account := some { serial := serial, slot := account }, cabins := [], deckMask := 0,
    classMask := classMask, capOffset := 0, spent := 0, spentDay := day, held := 0,
    presence := some .notBoarded, lastTransit := none, conflicts := 0 }

/-- The record of a newly enrolled member of staff (01 R6). -/
def newStaff (card : Nat) (deckMask : BitVec 32) : Cardholder :=
  { state := .active, card := card, gen := 0, kind := .staff, account := none, cabins := [],
    deckMask := deckMask, classMask := 0, capOffset := 0, spent := 0, spentDay := 0, held := 0,
    presence := none, lastTransit := none, conflicts := 0 }

/-- Checks 3 to 6 of R5 for a guest, and R6. -/
def enrolGuest (kind : CardKind) (card folio : Nat) (classMask : BitVec 8) (s : State) : Served :=
  match s.findFolio folio with
  | none => (s, Reply.refuse .notFound)
  | some (aslot, a) =>
    if a.state ≠ .opened then (s, Reply.refuse .slotState)
    else if Config.holdersPerAccount ≤ a.holders.length then (s, Reply.refuse .accountFull)
    else
      match s.roster.freeSlot Config.cardholderSlots with
      | none => (s, Reply.refuse .tableFull)
      | some slot =>
        ({ s with
            roster := s.roster.store slot (newGuest kind card a.serial aslot classMask s.shipDay)
            accounts := s.accounts.store aslot { a with holders := a.holders ++ [slot] }
            counters := s.counters.up .notBoarded },
          Reply.ok (u16 slot ++ optionalGroup true (u16 aslot ++ u8 (a.holders.length + 1))))

/-- Check 6 of R5 for STAFF, and R6. -/
def enrolStaff (card : Nat) (deckMask : BitVec 32) (s : State) : Served :=
  match s.roster.freeSlot Config.cardholderSlots with
  | none => (s, Reply.refuse .tableFull)
  | some slot =>
    ({ s with roster := s.roster.store slot (newStaff card deckMask) },
      Reply.ok (u16 slot ++ optionalGroup false []))

/-- ENROL CARDHOLDER (01 R5, R6). -/
def serveEnrol (card : BitVec 32) (kind : Byte) (folio : BitVec 32) (classMask : Byte)
    (deckMask : BitVec 32) (s : State) : Served :=
  match CardKind.ofCode kind with
  | none => (s, Reply.refuse .badField)
  | some k =>
    if card.toNat = 0 ∨ (k = .staff ∧ deckMaskOk deckMask = false) then (s, Reply.refuse .badField)
    else if (s.findCard card.toNat).isSome then (s, Reply.refuse .duplicateCard)
    else
      match k with
      | .staff => enrolStaff card.toNat deckMask s
      | .adult => enrolGuest .adult card.toNat folio.toNat classMask s
      | .minor => enrolGuest .minor card.toNat folio.toNat classMask s

/-! ## Card life (01 R7 to R10) -/

/-- REISSUE CARD (01 R7); its refusals in the order of the table there (log 16). -/
def serveReissue (card : BitVec 32) (s : State) : Served :=
  match s.findCard card.toNat with
  | none => (s, Reply.refuse .notFound)
  | some (slot, c) =>
    if c.state = .closed then (s, Reply.refuse .slotState)
    else if 255 ≤ c.gen then (s, Reply.of .genLimit (u8 c.gen))
    else
      ({ s with roster := s.roster.store slot { c with gen := c.gen + 1 } }, Reply.ok (u8 (c.gen + 1)))

/-- SUSPEND (01 R8); it raises no notice. -/
def serveSuspend (card : BitVec 32) (s : State) : Served :=
  match s.findCard card.toNat with
  | none => (s, Reply.refuse .notFound)
  | some (slot, c) =>
    match c.state with
    | .closed => (s, Reply.refuse .slotState)
    | .suspended => (s, Reply.ok (u8 CardState.suspended.code ++ u8 c.conflicts))
    | .active =>
      ({ s with roster := s.roster.store slot { c with state := .suspended } },
        Reply.ok (u8 CardState.suspended.code ++ u8 c.conflicts))

/-- RESUME (01 R8): ACTIVE, with the conflict count 0. -/
def serveResume (card : BitVec 32) (s : State) : Served :=
  match s.findCard card.toNat with
  | none => (s, Reply.refuse .notFound)
  | some (slot, c) =>
    if c.state = .closed then (s, Reply.refuse .slotState)
    else
      ({ s with roster := s.roster.store slot { c with state := .active, conflicts := 0 } },
        Reply.ok (u8 CardState.active.code ++ u8 0))

/-- SET CLASS MASK (01 R9). -/
def serveSetClassMask (card : BitVec 32) (mask : Byte) (s : State) : Served :=
  match s.findCard card.toNat with
  | none => (s, Reply.refuse .notFound)
  | some (slot, c) =>
    if c.state = .closed ∨ c.kind = .staff then (s, Reply.refuse .slotState)
    else ({ s with roster := s.roster.store slot { c with classMask := mask } }, Reply.ok [])

/-- SET DECK MASK (01 R9). DESIGN CHOICE (log 16): the refusals in the order R9 lists them. -/
def serveSetDeckMask (card : BitVec 32) (mask : BitVec 32) (s : State) : Served :=
  match s.findCard card.toNat with
  | none => (s, Reply.refuse .notFound)
  | some (slot, c) =>
    if c.state = .closed ∨ c.kind ≠ .staff then (s, Reply.refuse .slotState)
    else if deckMaskOk mask = false then (s, Reply.refuse .badField)
    else ({ s with roster := s.roster.store slot { c with deckMask := mask } }, Reply.ok [])

/-- A record PURGE CARDHOLDER may free (01 R10, check 2). -/
def Cardholder.purgeable (c : Cardholder) : Bool :=
  match c.kind with
  | .staff => c.state == .suspended
  | .adult => c.state == .closed && (c.presence == some .notBoarded || c.presence == some .disembarked)
  | .minor => c.state == .closed && (c.presence == some .notBoarded || c.presence == some .disembarked)

/-- PURGE CARDHOLDER (01 R10). -/
def servePurge (card : BitVec 32) (s : State) : Served :=
  match s.findCard card.toNat with
  | none => (s, Reply.refuse .notFound)
  | some (slot, c) =>
    if c.purgeable = false then (s, Reply.refuse .slotState)
    else if s.unlocks.any (fun u => u.holder == slot) then (s, Reply.refuse .slotState)
    else
      ({ s with roster := s.roster.remove slot, counters := s.counters.downIf c.presence },
        Reply.ok (u16 slot))

/-! ## READ CARDHOLDER (01 R26) -/

/-- The fields READ CARDHOLDER gives for a guest. -/
def guestFields (s : State) (c : Cardholder) : List Byte :=
  u32 (match c.account with | some ref => ref.serial | none => 0) ++
    u16 (match c.account with | some ref => ref.slot | none => 0) ++
    optional u32 ((s.accountOf c).map (fun e => e.2.folio)) ++
    u32 (c.spentToday s.shipDay) ++ u32 c.held ++ i32 (effectiveCap s.tariff c) ++
    u8 (match c.presence with | some p => p.code | none => 0) ++
    optional Transit.bytes c.lastTransit

/-- The numbers of a list of cabin slots, in its order. -/
def State.cabinNumbers (s : State) (slots : List Nat) : List Nat :=
  slots.filterMap (fun k => (s.cabins.fetch k).map (·.number))

/-- READ CARDHOLDER (01 R26). -/
def serveReadCardholder (card : BitVec 32) (s : State) : Served :=
  match s.findCard card.toNat with
  | none => (s, Reply.refuse .notFound)
  | some (slot, c) =>
    (s, Reply.ok (u16 slot ++ u8 c.state.code ++ u32 c.card ++ u8 c.gen ++ u8 c.kind.code ++
      u8 c.conflicts ++ u8 c.classMask.toNat ++ u32 c.deckMask.toNat ++ i8 c.capOffset ++
      listOf u16 (s.cabinNumbers c.cabins) ++
      optionalGroup (c.kind != .staff) (guestFields s c)))

end Sys2Proof.Machine
end

