-- ==== Sys2Proof/Machine/Accounts.lean ====
section
/-! DEFINITION. Machine/Accounts.lean: the account record's own requests (01 R14 to R16, R27). -/

namespace Sys2Proof.Machine

/-- OPEN ACCOUNT (01 R14). -/
def serveOpenAccount (folio limit deposit : BitVec 32) (s : State) : Served :=
  if folio.toNat = 0 then (s, Reply.refuse .badField)
  else if Config.capMax < limit.toNat ∨ Config.depositMax < deposit.toNat then (s, Reply.refuse .amountRange)
  else if (s.findFolio folio.toNat).isSome then (s, Reply.refuse .badField)
  else if Config.exhausted ≤ s.nextSerial then (s, Reply.refuse .tableFull)
  else
    match s.accounts.freeSlot Config.accountSlots with
    | none => (s, Reply.refuse .tableFull)
    | some slot =>
      ({ s with
          accounts := s.accounts.store slot
            { state := .opened, folio := folio.toNat, serial := s.nextSerial, holders := [],
              limit := limit.toNat, deposit := deposit.toNat, package := 0, minorRelease := false,
              posted := 0, held := 0, settled := 0, first := none, last := none, count := 0,
              cursor := none }
          nextSerial := s.nextSerial + 1 },
        Reply.ok (u16 slot ++ u32 s.nextSerial))

/-- SET LIMIT (01 R15); its refusals in the order listed there (log 16). -/
def serveSetLimit (folio amount : BitVec 32) (s : State) : Served :=
  match s.findFolio folio.toNat with
  | none => (s, Reply.refuse .notFound)
  | some (slot, a) =>
    if Config.capMax < amount.toNat then (s, Reply.refuse .amountRange)
    else
      let a' := { a with limit := amount.toNat }
      (({ s with accounts := s.accounts.store slot a' } : State).noteOverLimit a', Reply.ok (i64 a'.headroom))

/-- SET DEPOSIT (01 R15); its refusals in the order listed there (log 16). -/
def serveSetDeposit (folio amount : BitVec 32) (s : State) : Served :=
  match s.findFolio folio.toNat with
  | none => (s, Reply.refuse .notFound)
  | some (slot, a) =>
    if Config.depositMax < amount.toNat then (s, Reply.refuse .amountRange)
    else
      let a' := { a with deposit := amount.toNat }
      (({ s with accounts := s.accounts.store slot a' } : State).noteOverLimit a', Reply.ok (i64 a'.headroom))

/-- SET PACKAGE (01 R16). DESIGN CHOICE (log 16): a code above 15 is refused BAD_FIELD before the folio
number is looked for. -/
def serveSetPackage (folio : BitVec 32) (package : Byte) (s : State) : Served :=
  if 15 < package.toNat then (s, Reply.refuse .badField)
  else
    match s.findFolio folio.toNat with
    | none => (s, Reply.refuse .notFound)
    | some (slot, a) =>
      ({ s with accounts := s.accounts.store slot { a with package := package.toNat } }, Reply.ok [])

/-- SET MINOR RELEASE (01 R16); a flag byte other than 0 or 1 is BAD_FIELD at decoding (11 R191, log 16). -/
def serveSetMinorRelease (folio : BitVec 32) (value : Byte) (s : State) : Served :=
  match flagOf value with
  | none => (s, Reply.refuse .badField)
  | some b =>
    match s.findFolio folio.toNat with
    | none => (s, Reply.refuse .notFound)
    | some (slot, a) =>
      ({ s with accounts := s.accounts.store slot { a with minorRelease := b } }, Reply.ok [])

/-- The number of LIVE holds that carry a serial (01 R27, 05 R97). -/
def State.liveHolds (s : State) (serial : Nat) : Nat :=
  s.holds.countP (fun e => match e.2.live with | some h => h.serial == serial | none => false)

/-- READ ACCOUNT (01 R27). -/
def serveReadAccount (folio : BitVec 32) (s : State) : Served :=
  match s.findFolio folio.toNat with
  | none => (s, Reply.refuse .notFound)
  | some (slot, a) =>
    (s, Reply.ok (u16 slot ++ u8 a.state.code ++ u32 a.folio ++ u32 a.serial ++
      listOf u32 (s.cardNumbers a.holders) ++ u32 a.limit ++ u32 a.deposit ++ u8 a.package ++
      flag a.minorRelease ++ i32 a.posted ++ u32 a.held ++ i32 a.settled ++ i64 a.headroom ++
      u16 (s.liveHolds a.serial) ++ optional u32 a.first ++ optional u32 a.last ++ u32 a.count ++
      optional u32 a.cursor))

end Sys2Proof.Machine
end

