-- ==== Sys2Proof/Machine/Cabins.lean ====
section
/-! DEFINITION. Machine/Cabins.lean: cabins and the grant relation (01 R18 to R25, R28). -/

namespace Sys2Proof.Machine

/-- DEFINE CABIN (01 R18). -/
def serveDefineCabin (cabin : BitVec 16) (deck : Byte) (s : State) : Served :=
  if cabin.toNat = 0 ∨ deck.toNat = 0 ∨ 20 < deck.toNat then (s, Reply.refuse .badField)
  else if (s.findCabin cabin.toNat).isSome then (s, Reply.refuse .badField)
  else
    match s.cabins.freeSlot Config.cabinSlots with
    | none => (s, Reply.refuse .tableFull)
    | some slot =>
      ({ s with
          cabins := s.cabins.store slot
            { number := cabin.toNat, deck := deck.toNat, blocked := .none, privacy := false,
              grantees := [], history := [] } },
        Reply.ok (u16 slot))

/-- The pending unlock of a cabin slot (02 R30). -/
def State.unlockOf (s : State) (cabin : Nat) : Option Unlock :=
  s.unlocks.find? (fun u => u.cabin == cabin)

/-- No item remains in a history window of an undefined cabin (09 R176). -/
def Window.cabinGone (slot : Nat) (w : Window) : Window :=
  match w with
  | .history number k start ending cursor added gone =>
    .history number k start ending cursor added (gone || k == slot)
  | .chain _ _ _ _ _ _ => w
  | .missing _ _ _ => w
  | .closures _ _ _ _ => w

/-- UNDEFINE CABIN (01 R19, 09 R176). -/
def serveUndefineCabin (cabin : BitVec 16) (s : State) : Served :=
  match s.findCabin cabin.toNat with
  | none => (s, Reply.refuse .notFound)
  | some (slot, k) =>
    if k.grantees ≠ [] ∨ (s.unlockOf slot).isSome then (s, Reply.refuse .slotState)
    else
      (({ s with cabins := s.cabins.remove slot } : State).mapWindows (Window.cabinGone slot), Reply.ok [])

/-- BLOCK CABIN (01 R20). -/
def serveBlockCabin (cabin : BitVec 16) (s : State) : Served :=
  match s.findCabin cabin.toNat with
  | none => (s, Reply.refuse .notFound)
  | some (slot, k) =>
    let b := match k.blocked with
      | .none => Blocked.maintenance
      | .maintenance => Blocked.maintenance
      | .lockFault => Blocked.lockFault
    ({ s with cabins := s.cabins.store slot { k with blocked := b } }, Reply.ok (u8 b.code))

/-- UNBLOCK CABIN (01 R20). -/
def serveUnblockCabin (cabin : BitVec 16) (s : State) : Served :=
  match s.findCabin cabin.toNat with
  | none => (s, Reply.refuse .notFound)
  | some (slot, k) =>
    ({ s with cabins := s.cabins.store slot { k with blocked := .none } },
      Reply.ok (u8 Blocked.none.code))

/-! ## The grant relation (01 R21 to R25) -/

/-- A cabin without a grantee; the step that empties its list clears its privacy flag (01 R21). -/
def Cabin.dropGrantee (k : Cabin) (holder : Nat) : Cabin :=
  let left := k.grantees.filter (fun h => h != holder)
  { k with grantees := left, privacy := if left = [] then false else k.privacy }

/-- A pair leaves both sides of the relation (01 R21). -/
def State.unpair (s : State) (holder cabin : Nat) : State :=
  { s with
    roster := s.roster.modify holder (fun c => { c with cabins := c.cabins.filter (fun k => k != cabin) })
    cabins := s.cabins.modify cabin (fun k => k.dropGrantee holder) }

/-- GRANT CABIN (01 R22). -/
def serveGrantCabin (card : BitVec 32) (cabin : BitVec 16) (s : State) : Served :=
  match s.findCard card.toNat, s.findCabin cabin.toNat with
  | some (slot, c), some (kslot, k) =>
    if c.kind = .staff ∨ c.state = .closed then (s, Reply.refuse .slotState)
    else if kslot ∈ c.cabins then (s, Reply.ok (u8 c.cabins.length ++ u8 k.grantees.length))
    else if Config.cabinsPerCardholder ≤ c.cabins.length ∨ Config.granteesPerCabin ≤ k.grantees.length then
      (s, Reply.refuse .grantLimit)
    else
      ({ s with
          roster := s.roster.store slot { c with cabins := c.cabins ++ [kslot] }
          cabins := s.cabins.store kslot { k with grantees := k.grantees ++ [slot] } },
        Reply.ok (u8 (c.cabins.length + 1) ++ u8 (k.grantees.length + 1)))
  | some _, none => (s, Reply.refuse .notFound)
  | none, some _ => (s, Reply.refuse .notFound)
  | none, none => (s, Reply.refuse .notFound)

/-- REVOKE CABIN (01 R23). -/
def serveRevokeCabin (card : BitVec 32) (cabin : BitVec 16) (s : State) : Served :=
  match s.findCard card.toNat, s.findCabin cabin.toNat with
  | some (slot, c), some (kslot, k) =>
    if kslot ∈ c.cabins then
      (s.unpair slot kslot,
        Reply.ok (u8 (c.cabins.filter (fun x => x != kslot)).length ++ u8 (k.dropGrantee slot).grantees.length))
    else (s, Reply.ok (u8 c.cabins.length ++ u8 k.grantees.length))
  | some _, none => (s, Reply.refuse .notFound)
  | none, some _ => (s, Reply.refuse .notFound)
  | none, none => (s, Reply.refuse .notFound)

/-- REKEY CABIN (01 R24): every grantee leaves, and the privacy flag with the last. -/
def serveRekeyCabin (cabin : BitVec 16) (s : State) : Served :=
  match s.findCabin cabin.toNat with
  | none => (s, Reply.refuse .notFound)
  | some (kslot, k) =>
    (k.grantees.foldl (fun t holder => t.unpair holder kslot) s, Reply.ok (u8 k.grantees.length))

/-- At CLOSE a listed cardholder loses its grants on both sides and becomes CLOSED (01 R25). -/
def State.closeHolder (s : State) (holder : Nat) : State :=
  match s.roster.fetch holder with
  | none => s
  | some c =>
    let bare := c.cabins.foldl (fun t kslot => t.unpair holder kslot) s
    { bare with roster := bare.roster.modify holder (fun x => { x with state := .closed }) }

/-- READ CABIN (01 R28); a deadline already reached shows 0 ms remaining (log 5). -/
def serveReadCabin (cabin : BitVec 16) (s : State) : Served :=
  match s.findCabin cabin.toNat with
  | none => (s, Reply.refuse .notFound)
  | some (slot, k) =>
    (s, Reply.ok (u16 slot ++ u16 k.number ++ u8 k.deck ++ u8 k.blocked.code ++ flag k.privacy ++
      listOf u32 (s.cardNumbers k.grantees) ++
      optional (fun u : Unlock => u32 ((s.cardNumber u.holder).getD 0) ++ u16 (u.deadline - s.timer))
        (s.unlockOf slot) ++
      u8 k.history.length))

end Sys2Proof.Machine
end

