-- ==== Sys2Proof/Machine/Access.lean ====
section
/-! DEFINITION. Machine/Access.lean: the Access Decision Unit (chapter 2): the decision of a
presentation, lock reports, unlock deadlines, privacy and the cabin history. -/

namespace Sys2Proof.Machine

/-! ## History (02 R49) -/

/-- An event joins at the newest end; at 8 events the oldest is dropped (02 R49). -/
def pushEvent (h : List HistoryEvent) (e : HistoryEvent) : List HistoryEvent :=
  if h.length < Config.historyPlaces then h ++ [e] else h.drop 1 ++ [e]

/-- A window on the history counts each event added since its opening (09 R176). -/
def Window.eventAdded (slot : Nat) (w : Window) : Window :=
  match w with
  | .history number k start ending cursor added gone =>
    .history number k start ending cursor (if k = slot then added + 1 else added) gone
  | .chain _ _ _ _ _ _ => w
  | .missing _ _ _ => w
  | .closures _ _ _ _ => w

/-- Add an event of the present ship time to a cabin's history (02 R49). -/
def State.addEvent (s : State) (slot card : Nat) (result : HistoryResult) : State :=
  ({ s with cabins := s.cabins.modify slot (fun k =>
      { k with history := pushEvent k.history { time := s.shipTime, card := card, result := result } }) } :
    State).mapWindows (Window.eventAdded slot)

/-! ## The decision (02 R33 to R36) -/

/-- The guest checks of R34 before the pending unlock check. -/
def guestRefusal (c : Cardholder) (slot : Nat) (k : Cabin) : Option AccessVerdict :=
  if k.blocked ≠ .none then some .denyBlocked
  else if slot ∉ c.cabins then some .denyNotGranted
  else if c.presence ≠ some .aboard then some .denyPresence
  else none

/-- The staff checks of R35 before the pending unlock check. -/
def staffRefusal (c : Cardholder) (k : Cabin) : Option AccessVerdict :=
  if hasDeck c.deckMask k.deck = false then some .denyNotGranted
  else if k.privacy then some .denyPrivacy
  else none

/-- The checks of a cardholder's kind (02 R34, R35). -/
def kindRefusal (c : Cardholder) (slot : Nat) (k : Cabin) : Option AccessVerdict :=
  match c.kind with
  | .staff => staffRefusal c k
  | .adult => guestRefusal c slot k
  | .minor => guestRefusal c slot k

/-- The pending unlock check (02 R36). -/
def State.pendingCheck (s : State) (holder cabin : Nat) : AccessVerdict :=
  match s.unlockOf cabin with
  | some u => if u.holder = holder then .grant else .denyBusy
  | none => if s.unlocks.length < Config.unlockPlaces then .grant else .denyBusy

/-- The verdict on a cardholder found, for a cabin number: checks 2 to 5 of R33, then R34 to R36. -/
def State.accessVerdict (s : State) (slot : Nat) (c : Cardholder) (gen cabin : Nat) : AccessVerdict :=
  if gen < c.gen then .denySuperseded
  else if c.gen < gen then .denyGenAhead
  else
    match c.state with
    | .suspended => .denySuspended
    | .closed => .denyClosed
    | .active =>
      match s.findCabin cabin with
      | none => .denyNoCabin
      | some (kslot, k) =>
        match kindRefusal c kslot k with
        | some v => v
        | none => s.pendingCheck slot kslot

/-! ## Effects of the decision (02 R31, R36 to R38) -/

/-- The counter after a token is given: from 65,535 it passes to 1 (02 R31). -/
def tokenAfter (t : Nat) : Nat := if t = 65535 then 1 else t + 1

/-- The deadline of a grant: the decision instant plus the unlock deadline option (02 R45). -/
def State.unlockBy (s : State) : Nat := s.timer + s.options.unlockDeadline * Config.secondMs

/-- A regrant: the entry keeps its token and place, and takes a new deadline and port (02 R36). -/
def State.regrant (s : State) (p : Port) (cabin : Nat) : State :=
  { s with unlocks := s.unlocks.map (fun u =>
      if u.cabin = cabin then { u with port := p, deadline := s.unlockBy } else u) }

/-- A new entry at the end of the list, with the counter's token (02 R31, R36). -/
def State.newUnlock (s : State) (p : Port) (holder cabin : Nat) : State :=
  { s with
    unlocks := s.unlocks ++
      [{ cabin := cabin, holder := holder, token := s.nextToken, port := p, deadline := s.unlockBy }]
    nextToken := tokenAfter s.nextToken }

/-- The side report of a denial (02 R37). -/
def State.sideReport (s : State) (slot : Nat) (c : Cardholder) (v : AccessVerdict) : State :=
  match v with
  | .denyGenAhead => s.raise purserAndWatch .cardAnomaly (some (.card c.card)) none
  | .denyPresence => s.reportConflict slot
  | _ => s

/-- A denial's history event, where the cabin is defined and the verdict is one of R38. -/
def State.denialEvent (s : State) (card cabin : Nat) (v : AccessVerdict) : State :=
  match v with
  | .grant => s
  | .denyUnknown => s
  | .denyNoCabin => s
  | _ =>
    match s.findCabin cabin with
    | none => s
    | some (kslot, _) => s.addEvent kslot card (.denied v)

/-- The response of a verdict: for GRANT token, deadline in ms and regrant indicator; for every verdict
on a cardholder found, its kind and state as found (02 R32). -/
def accessReply (v : AccessVerdict) (granted : Option (List Byte)) (c : Option Cardholder) : Reply :=
  Reply.ok (u8 v.code ++ optional id granted ++
    optional (fun x : Cardholder => u8 x.kind.code ++ u8 x.state.code) c)

/-- The fields of a GRANT in the response (02 R32). -/
def State.grantFields (s : State) (token : Nat) (again : Bool) : List Byte :=
  u16 token ++ u16 (s.options.unlockDeadline * Config.secondMs) ++ flag again

/-- ACCESS QUERY, as one step (02 R32 to R38). -/
def serveAccessQuery (p : Port) (card : BitVec 32) (gen : Byte) (cabin : BitVec 16) (s : State) : Served :=
  match s.findCard card.toNat with
  | none => (s, accessReply .denyUnknown none none)
  | some (slot, c) =>
    let v := s.accessVerdict slot c gen.toNat cabin.toNat
    if v = .grant then
      match s.findCabin cabin.toNat with
      | none => (s, accessReply v none (some c))
      | some (kslot, _) =>
        match s.unlockOf kslot with
        | some u => (s.regrant p kslot, accessReply v (some (s.grantFields u.token true)) (some c))
        | none => (s.newUnlock p slot kslot, accessReply v (some (s.grantFields s.nextToken false)) (some c))
    else
      ((s.denialEvent card.toNat cabin.toNat v).sideReport slot c v, accessReply v none (some c))

/-! ## LOCK REPORT (02 R40 to R42) -/

/-- A JAMMED outcome on a defined cabin: LOCK_FAULT and CABIN_FAULT (02 R42). -/
def State.jam (s : State) (slot number token : Nat) : State :=
  ({ s with cabins := s.cabins.modify slot (fun k => { k with blocked := .lockFault }) } : State).raise
    accessAndPurser .cabinFault (some (.cabin number)) (some (token : Int))

/-- The entry of a cabin leaves the list, closing its gap (02 R30). -/
def State.dropUnlock (s : State) (cabin : Nat) : State :=
  { s with unlocks := s.unlocks.filter (fun u => u.cabin != cabin) }

/-- The effects of R42 where the outcome is JAMMED. -/
def State.jamIf (s : State) (outcome : HistoryResult) (slot number token : Nat) : State :=
  if outcome = .jammed then s.jam slot number token else s

/-- The blocked value a LOCK REPORT leaves (02 R40, R42). -/
def blockedAfter (outcome : HistoryResult) (k : Cabin) : Blocked :=
  if outcome = .jammed then .lockFault else k.blocked

/-- LOCK REPORT (02 R40, R41). -/
def serveLockReport (cabin token : BitVec 16) (outcome : Byte) (s : State) : Served :=
  match lockOutcome outcome with
  | none => (s, Reply.refuse .badField)
  | some result =>
    match s.findCabin cabin.toNat with
    | none => (s, Reply.refuse .notFound)
    | some (slot, k) =>
      let body := u8 (blockedAfter result k).code
      match s.unlockOf slot with
      | none => (s.jamIf result slot k.number token.toNat, Reply.of .late body)
      | some u =>
        if u.token = token.toNat then
          (((s.dropUnlock slot).addEvent slot ((s.cardNumber u.holder).getD 0) result).jamIf result slot
            k.number token.toNat, Reply.ok body)
        else (s.jamIf result slot k.number token.toNat, Reply.of .tokenMismatch body)

/-! ## The unlock deadline (02 R43) -/

/-- The timer has reached an instant: it stands there, or later. DESIGN CHOICE (log 4). -/
def State.reach (s : State) (instant : Nat) : State := { s with timer := max s.timer instant }

/-- The end of a pending entry at its deadline (02 R43); nothing where the cabin has no entry. -/
def State.expireUnlock (s : State) (cabin : Nat) : State :=
  match s.unlockOf cabin with
  | none => s
  | some u =>
    (((s.reach u.deadline).dropUnlock cabin).addEvent cabin ((s.cardNumber u.holder).getD 0) .unconfirmed).raiseTo
      u.port .accessUnconfirmed (some (.cabin (((s.cabins.fetch cabin).map (·.number)).getD 0)))
      (some (u.token : Int))

/-! ## Privacy (02 R46, R47) -/

/-- PRIVACY SET (02 R46). -/
def servePrivacySet (cabin : BitVec 16) (s : State) : Served :=
  match s.findCabin cabin.toNat with
  | none => (s, Reply.refuse .notFound)
  | some (slot, k) =>
    if k.grantees = [] then (s, Reply.refuse .slotState)
    else ({ s with cabins := s.cabins.store slot { k with privacy := true } }, Reply.ok (flag true))

/-- PRIVACY CLEAR (02 R47). -/
def servePrivacyClear (cabin : BitVec 16) (s : State) : Served :=
  match s.findCabin cabin.toNat with
  | none => (s, Reply.refuse .notFound)
  | some (slot, k) =>
    ({ s with cabins := s.cabins.store slot { k with privacy := false } }, Reply.ok (flag false))

end Sys2Proof.Machine
end

