-- ==== Sys2Proof/Machine/Log.lean ====
section
/-! DEFINITION. Machine/Log.lean: the charge log as a ring of entries, chains, reclaim and LOG_FULL
(04 R69 to R74), ADJUST (R92), READ ENTRY (R94), and the void of a group (R89 to R91). -/

namespace Sys2Proof.Machine

/-! ## Places (04 R73, R74) -/

/-- The entry with a sequence, where the log holds one. -/
def State.findEntry (s : State) (seq : Nat) : Option Entry := s.log.find? (fun e => e.seq == seq)

/-- An entry that is VOIDED or SETTLED and whose serial no account carries (04 R73). -/
def State.reclaimable (s : State) (e : Entry) : Bool :=
  e.state != .posted && (s.findSerial e.serial).isNone

/-- The free places plus the reclaimable run at the oldest end (04 R73). -/
def State.places (s : State) : Nat :=
  (Config.logPlaces - s.log.length) + (s.log.takeWhile s.reclaimable).length

/-- The folio number of the account that stops reclaim (04 R74). -/
def State.reclaimStop (s : State) : Option Subject :=
  match (s.log.dropWhile s.reclaimable).head? with
  | none => none
  | some e => (s.findSerial e.serial).map (fun x => Subject.folio x.2.folio)

/-- Why a request of `k` entries is refused LOG_FULL, as the subject and value of its notice: the sequence
counter is exhausted, or the places are too few (04 R71, R74). DESIGN CHOICE (log 17): a request with places
enough whose sequences would pass the counter's last is refused as at an exhausted counter, and an exhausted
counter is named before the places. -/
def State.logRefusal (s : State) (k : Nat) : Option (Option Subject × Nat) :=
  if Config.exhausted ≤ s.nextSeq then some (none, 0)
  else if s.places < k then some (s.reclaimStop, s.places)
  else if Config.exhausted < s.nextSeq + k then some (none, 0)
  else none

/-- The LOG_FULL notice of a refusal (04 R74). -/
def State.noteLogFull (s : State) (why : Option Subject × Nat) : State :=
  s.raise purserAndService .logFull why.1 (some (why.2 : Int))

/-! ## Appending (04 R69 to R73, 05 R98) -/

/-- The amount with the sign its kind gives it in a total (04 R70). -/
def Entry.signed (e : Entry) : Int :=
  match e.kind with
  | .charge => e.amount
  | .credit => -(e.amount : Int)

/-- The log with a place for one more entry: a full log loses its oldest (04 R73). -/
def makePlace (log : List Entry) : List Entry :=
  if Config.logPlaces ≤ log.length then log.drop 1 else log

/-- Write `seq` as the link of the entry at `last` (04 R72). -/
def linkFrom (log : List Entry) (last : Option Nat) (seq : Nat) : List Entry :=
  match last with
  | none => log
  | some q => log.map (fun e => if e.seq = q then { e with link := some seq } else e)

/-- The account after an entry of signed amount `x` joins its chain at `seq`: totals and chain move
together (04 R72), and a settle cursor at the chain's end takes the entry (05 R98). -/
def Account.joined (a : Account) (seq : Nat) (x : Int) : Account :=
  { a with
    posted := a.posted + x
    first := some (a.first.getD seq)
    last := some seq
    count := a.count + 1
    cursor := if a.state = .settling ∧ a.cursor = none then some seq else a.cursor }

/-- Append one POSTED entry to an account: the next sequence, the present ship time and day, the link of
the chain's last entry, and the account's chain and posted total (04 R69 to R73). -/
def State.post (s : State) (account : Nat) (e : Entry) : State :=
  match s.accounts.fetch account with
  | none => s
  | some a =>
    let e' := { e with
      seq := s.nextSeq, state := .posted, serial := a.serial, link := none, time := s.shipTime,
      day := s.shipDay }
    { s with
      log := linkFrom (makePlace s.log) a.last s.nextSeq ++ [e']
      nextSeq := s.nextSeq + 1
      accounts := s.accounts.store account (a.joined s.nextSeq e.signed) }

/-- An entry before its append: what its origin gives it (04 R70). -/
def Entry.draft (kind : EntryKind) (amount cls : Nat) (origin : Option Origin) (detail : Option Detail)
    (hold : Option Handle) (split : Option Split) : Entry :=
  { seq := 0, kind := kind, state := .posted, serial := 0, link := none, amount := amount, time := 0, day := 0,
    origin := origin, cls := cls, detail := detail, hold := hold, split := split }

/-- Headroom of an account slot. -/
def State.headroomAt (s : State) (account : Nat) : Int :=
  match s.accounts.fetch account with
  | some a => a.headroom
  | none => 0

/-! ## ADJUST (04 R92) -/

/-- Check 5 of ADJUST: the posted total would leave its range (04 R92, R93). -/
def adjustOutOfRange (a : Account) (kind : EntryKind) (amount : Nat) : Bool :=
  match kind with
  | .charge => decide (Config.totalMax < a.posted + a.held + amount)
  | .credit => decide (a.posted - amount < Config.totalMin)

/-- ADJUST (04 R92). -/
def serveAdjust (folio : BitVec 32) (kind : Byte) (amount : BitVec 32) (s : State) : Served :=
  match EntryKind.ofCode kind with
  | none => (s, Reply.refuse .badField)
  | some k =>
    if amount.toNat = 0 ∨ Config.adjustMax < amount.toNat then (s, Reply.refuse .amountRange)
    else
      match s.findFolio folio.toNat with
      | none => (s, Reply.refuse .notFound)
      | some (slot, a) =>
        if a.state = .settled then (s, Reply.refuse .accountSettled)
        else if adjustOutOfRange a k amount.toNat then (s, Reply.refuse .amountRange)
        else
          match s.logRefusal 1 with
          | some why => (s.noteLogFull why, Reply.refuse .logFull)
          | none =>
            let e := Entry.draft k amount.toNat 7 none none none none
            (s.post slot e,
              Reply.ok (u32 s.nextSeq ++ i32 (a.posted + e.signed) ++ i64 (a.headroom - e.signed)))

/-! ## READ ENTRY (04 R94) -/

/-- An entry item with the folio number and card number that still answer to it (04 R94). -/
def State.entryItem (s : State) (e : Entry) : List Byte :=
  e.bytes ((s.findSerial e.serial).map (fun x => x.2.folio))
    (match e.origin with
     | none => none
     | some o => s.cardNumber o.holder)

/-- READ ENTRY (04 R94). -/
def serveReadEntry (seq : BitVec 32) (s : State) : Served :=
  match s.findEntry seq.toNat with
  | none => (s, Reply.refuse .notFound)
  | some e => (s, Reply.ok (s.entryItem e))

/-! ## Voiding a group (04 R89 checks 6 to 8, R90; 05 R113 checks 4 to 6) -/

/-- The sequences of an entry's group (04 R89, check 6). -/
def Entry.groupSeqs (e : Entry) : List Nat :=
  match e.split with
  | none => [e.seq]
  | some x => (List.range x.count).map (fun i => x.first + i)

/-- The entries of a list of sequences, where each is in the log and POSTED. -/
def State.gatherPosted (s : State) : List Nat → Option (List Entry)
  | [] => some []
  | q :: qs =>
    match s.findEntry q with
    | none => none
    | some e => if e.state = .posted then (s.gatherPosted qs).map (fun g => e :: g) else none

/-- An entry's account is OPEN. -/
def State.accountOpen (s : State) (e : Entry) : Bool :=
  match s.findSerial e.serial with
  | none => false
  | some (_, a) => a.state == .opened

/-- What a group takes from the account of a serial. -/
def groupAmount (g : List Entry) (serial : Nat) : Nat :=
  ((g.filter (fun e => e.serial == serial)).map (·.amount)).sum

/-- The posted total of an entry's account would fall below its range with the group voided (04 R89). -/
def State.voidTooLow (s : State) (g : List Entry) (e : Entry) : Bool :=
  match s.findSerial e.serial with
  | none => false
  | some (_, a) => decide (a.posted - groupAmount g e.serial < Config.totalMin)

/-- The group of an entry, where it may be voided; else the refusal. -/
def State.voidGroup (s : State) (e : Entry) : Except Result (List Entry) :=
  match s.gatherPosted e.groupSeqs with
  | none => .error .entryState
  | some g =>
    if g.all s.accountOpen = false then .error .accountNotOpen
    else if g.any (s.voidTooLow g) then .error .amountRange
    else .ok g

/-- A cardholder's stored spent today after a void of an entry of the current ship day (04 R90). -/
def Cardholder.unspend (c : Cardholder) (amount : Nat) : Cardholder := { c with spent := c.spent - amount }

/-- One entry becomes VOIDED, with its account's posted total and its cardholder's spent today (04 R90). -/
def State.voidEntry (s : State) (e : Entry) : State :=
  { s with
    log := s.log.map (fun x => if x.seq = e.seq then { x with state := .voided } else x)
    accounts :=
      match s.findSerial e.serial with
      | none => s.accounts
      | some (slot, _) => s.accounts.modify slot (fun a => { a with posted := a.posted - e.amount })
    roster :=
      match e.origin with
      | none => s.roster
      | some o => if e.day = s.shipDay then s.roster.modify o.holder (fun c => c.unspend e.amount) else s.roster }

/-- Every entry of a group is voided, in share order (04 R90). -/
def State.voidAll (s : State) (g : List Entry) : State := g.foldl State.voidEntry s

/-- The first sequence and count of a group, and for each entry its sequence, amount and its account's
posted total after the step (04 R90). -/
def voidFields (after : State) (g : List Entry) : List Byte :=
  u32 ((g.head?.map (·.seq)).getD 0) ++
    listOf (fun e : Entry =>
      u32 e.seq ++ u32 e.amount ++ i32 (((after.findSerial e.serial).map (fun x => x.2.posted)).getD 0)) g

/-- VOID (04 R89, R90). -/
def serveVoid (p : Port) (seq : BitVec 32) (outlet : BitVec 16) (s : State) : Served :=
  if Config.outletMax < outlet.toNat then (s, Reply.refuse .badField)
  else
    match s.findEntry seq.toNat with
    | none => (s, Reply.refuse .notFound)
    | some e =>
      if e.state ≠ .posted then (s, Reply.refuse .entryState)
      else
        match e.origin with
        | none => (s, Reply.refuse .notOwner)
        | some o =>
          if o.port ≠ p ∨ o.outlet ≠ outlet.toNat then (s, Reply.refuse .notOwner)
          else if s.options.voidWindow < s.shipTime - e.time then (s, Reply.refuse .late)
          else
            match s.voidGroup e with
            | .error r => (s, Reply.refuse r)
            | .ok g => (s.voidAll g, Reply.ok (voidFields (s.voidAll g) g))

end Sys2Proof.Machine
end

