-- ==== Sys2Proof/Machine/Charge.lean ====
section
/-! DEFINITION. Machine/Charge.lean: authorization of shares and CHARGE (04 R75 to R80). -/

namespace Sys2Proof.Machine

/-! ## Authorization (04 R76, R77) -/

/-- A card that has passed checks 2 to 8: its slot and record, its account's slot and record. -/
structure Payer where
  holder : Nat
  card : Cardholder
  account : Nat
  folio : Account
  deriving DecidableEq, Repr

/-- Checks 2 to 8 of a presentation (04 R76). -/
def State.checkCard (s : State) (card gen : Nat) : Except Result Payer :=
  match s.findCard card with
  | none => .error .cardUnknown
  | some (slot, c) =>
    if gen < c.gen then .error .cardSuperseded
    else if c.gen < gen then .error .cardGenAhead
    else
      match c.state with
      | .suspended => .error .cardSuspended
      | .closed => .error .cardClosed
      | .active =>
        if c.kind = .staff then .error .noAccount
        else
          match s.accountOf c with
          | none => .error .accountNotOpen
          | some (aslot, a) =>
            if a.state = .opened then .ok { holder := slot, card := c, account := aslot, folio := a }
            else .error .accountNotOpen

/-- The class is not in the mask, or a minor's class is ALCOHOL or GAMING (04 R77, check 10). -/
def classDenied (c : Cardholder) (cls : Nat) : Bool :=
  !hasClass c.classMask cls || (c.kind == .minor && (cls == 2 || cls == 5))

/-- Checks 9 to 12 of a share, with what the charge has already passed on the same account (04 R77). -/
def State.checkShare (s : State) (x : Payer) (cls share already : Nat) : Option Result :=
  if x.card.presence ≠ some .aboard then some .presenceConflict
  else if classDenied x.card cls then some .classDenied
  else if effectiveCap s.tariff x.card < (x.card.spentToday s.shipDay + x.card.held + share : Nat) then
    some .overCap
  else if x.folio.headroom < (already + share : Nat) then some .overLimit
  else none

/-- The side effect of a decline: the notice of check 4, the conflict report of check 9 (04 R76, R77). -/
def State.declineEffect (s : State) (card : Nat) (r : Result) : State :=
  match r with
  | .cardGenAhead => s.raise purserAndWatch .cardAnomaly (some (.card card)) none
  | .presenceConflict =>
    match s.findCard card with
    | none => s
    | some (slot, _) => s.reportConflict slot
  | _ => s

/-! ## CHARGE -/

/-- A share that has passed its checks. -/
structure Share where
  holder : Nat
  account : Nat
  amount : Nat
  deriving DecidableEq, Repr

/-- The outcome of authorizing the listed shares. -/
inductive Authorized
  | declined (index : Nat) (card : Nat) (result : Result) (priced : Option Priced)
  | passed (shares : List Share) (priced : Option Priced)
  deriving DecidableEq, Repr

/-- What the shares already passed take from an account (04 R77, check 12). -/
def passedOn (shares : List Share) (account : Nat) : Nat :=
  ((shares.filter (fun x => x.account == account)).map (·.amount)).sum

/-- Checks 2 to 12 for each presentation in listed order; the first share's account prices the charge
(04 R76 to R78, 03 R59). -/
def State.authorize (s : State) (cls gross k : Nat) :
    List Presentation → Nat → List Share → Option Priced → Authorized
  | [], _, done, priced => .passed done priced
  | x :: rest, i, done, priced =>
    match s.checkCard x.card.toNat x.gen.toNat with
    | .error r => .declined i x.card.toNat r priced
    | .ok payer =>
      let pr := priced.getD (s.tariff.price cls payer.folio.package gross k)
      let amount := pr.shares.getD (i - 1) 0
      match s.checkShare payer cls amount (passedOn done payer.account) with
      | some r => .declined i x.card.toNat r (some pr)
      | none =>
        s.authorize cls gross k rest (i + 1)
          (done ++ [{ holder := payer.holder, account := payer.account, amount := amount }]) (some pr)

/-- The body of a declined CHARGE, HOLD OPEN or HOLD COMPLETE: share index, and the pricing block when the
decline came after pricing (11 R191, log 15). -/
def declineBody (index : Nat) (priced : Option Priced) : List Byte :=
  u8 index ++ optional Priced.bytes priced

/-- Check 1 of CHARGE on the request alone, BAD_FIELD (04 R75). -/
def chargeBadField (outlet cls : Nat) (cards : List Presentation) : Bool :=
  decide (Config.outletMax < outlet) || decide (7 < cls) || decide (cards.length = 0) ||
    decide (4 < cards.length) || !decide ((cards.map (·.card)).Nodup)

/-- The entry of a share of a charge (04 R79). -/
def shareEntry (p : Port) (outlet cls : Nat) (pr : Priced) (first i : Nat) (x : Share) : Entry :=
  Entry.draft .charge x.amount cls (some { holder := x.holder, port := p, outlet := outlet })
    (if i = 1 then some { gross := pr.gross, discount := pr.discount, service := pr.service } else none)
    none (if 2 ≤ pr.k then some { first := first, index := i, count := pr.k } else none)

/-- The cardholder of a slot spends an amount on the present ship day (01 R4). -/
def State.spendAt (s : State) (holder amount : Nat) : State :=
  { s with roster := s.roster.modify holder (fun c => c.spend s.shipDay amount) }

/-- Post the shares in share order; with the state, the response fields of each share (04 R79). -/
def State.postShares (s : State) (p : Port) (outlet cls : Nat) (pr : Priced) (first : Nat) :
    List Share → Nat → State × List Byte
  | [], _ => (s, [])
  | x :: rest, i =>
    let s' := (s.post x.account (shareEntry p outlet cls pr first i x)).spendAt x.holder x.amount
    let tail := s'.postShares p outlet cls pr first rest (i + 1)
    (tail.1, u32 s.nextSeq ++ u32 x.amount ++ i64 (s'.headroomAt x.account) ++ tail.2)

/-- CHARGE, as one step (04 R75 to R79). DESIGN CHOICE (log 16): a request that fails both parts of check 1
is answered BAD_FIELD, not AMOUNT_RANGE. -/
def serveCharge (p : Port) (outlet : BitVec 16) (cls : Byte) (unit : BitVec 32) (qty : Byte)
    (cards : List Presentation) (s : State) : Served :=
  if chargeBadField outlet.toNat cls.toNat cards then (s, Reply.of .badField (declineBody 0 none))
  else if priceOutOfRange unit.toNat qty.toNat then (s, Reply.of .amountRange (declineBody 0 none))
  else
    match s.authorize cls.toNat (unit.toNat * qty.toNat) cards.length cards 1 [] none with
    | .declined i card r priced => (s.declineEffect card r, Reply.of r (declineBody i priced))
    | .passed shares priced =>
      match priced with
      | none => (s, Reply.of .badField (declineBody 0 none))
      | some pr =>
        match s.logRefusal cards.length with
        | some why => (s.noteLogFull why, Reply.of .logFull (declineBody 0 (some pr)))
        | none =>
          let done := s.postShares p outlet.toNat cls.toNat pr s.nextSeq shares 1
          (done.1, Reply.ok (pr.bytes ++ done.2))

end Sys2Proof.Machine
end

