-- ==== Sys2Proof/Machine/Holds.lean ====
section
/-! DEFINITION. Machine/Holds.lean: the hold table and its requests (04 R81 to R88, R95). -/

namespace Sys2Proof.Machine

/-- A FREE slot with tag 0: what an unlisted slot of the hold table holds (04 R81). -/
def HoldSlot.blank : HoldSlot := { reuse := 0, live := none }

/-- A slot of the hold table. -/
def State.holdSlot (s : State) (slot : Nat) : HoldSlot := (s.holds.fetch slot).getD .blank

/-- Write a slot of the hold table in canonical form. -/
def putHold (t : Table HoldSlot) (slot : Nat) (x : HoldSlot) : Table HoldSlot :=
  if x = .blank then t.remove slot else t.store slot x

/-- The LIVE hold a handle names (04 R81). -/
def State.liveHold (s : State) (slot reuse : Nat) : Option Hold :=
  if (s.holdSlot slot).reuse = reuse then (s.holdSlot slot).live else none

/-- The lowest FREE hold slot (04 R83). -/
def State.freeHold (s : State) : Option Nat :=
  (List.range Config.holdSlots).find? (fun i => (s.holdSlot i).live.isNone)

/-- A slot's tag at its next HOLD OPEN: from 255 to 0 (04 R81). -/
def tagAfter (t : Nat) : Nat := (t + 1) % 256

/-- Held total and held sum move together (04 R81). -/
def State.moveHeld (s : State) (h : Hold) (f : Nat → Nat) : State :=
  { s with
    accounts := s.accounts.modify h.account (fun a => { a with held := f a.held })
    roster := s.roster.modify h.holder (fun c => { c with held := f c.held }) }

/-- A hold ends: its slot becomes FREE with its tag, and both figures fall (04 R85 to R87). -/
def State.endHold (s : State) (slot : Nat) (h : Hold) : State :=
  ({ s with holds := putHold s.holds slot { s.holdSlot slot with live := none } } : State).moveHeld h
    (fun x => x - h.amount)

/-! ## HOLD OPEN (04 R82, R83) -/

/-- The expiry of a hold opened now: the lifetime, or the default for 0, capped at the largest ship time
(04 R83). -/
def State.expiryOf (s : State) (lifetime : Nat) : Nat :=
  min Config.maxWord (s.shipTime + (if lifetime = 0 then s.options.holdLifetime else lifetime))

/-- A lifetime is 0 or 60 to 86,400 s (04 R82). -/
def lifetimeOk (lifetime : Nat) : Bool :=
  decide (lifetime = 0) || (decide (60 ≤ lifetime) && decide (lifetime ≤ 86400))

/-- The hold a HOLD OPEN writes (04 R83). -/
def State.newHold (s : State) (p : Port) (x : Payer) (outlet cls amount lifetime : Nat) : Hold :=
  { serial := x.folio.serial, account := x.account, holder := x.holder, port := p, outlet := outlet,
    cls := cls, amount := amount, expiry := s.expiryOf lifetime }

/-- Check 13 and R83: the hold takes the lowest FREE slot. -/
def State.placeHold (s : State) (p : Port) (x : Payer) (outlet cls lifetime : Nat) (pr : Priced) : Served :=
  match s.freeHold with
  | none => (s, Reply.of .holdsFull (declineBody 0 (some pr)))
  | some slot =>
    let h := s.newHold p x outlet cls pr.total lifetime
    let reuse := tagAfter (s.holdSlot slot).reuse
    let s' := ({ s with holds := putHold s.holds slot { reuse := reuse, live := some h } } : State).moveHeld h
      (fun v => v + pr.total)
    (s', Reply.ok (Handle.bytes { slot := slot, reuse := reuse } ++ pr.bytes ++ u32 h.expiry ++
      i64 (s'.headroomAt x.account)))

/-- HOLD OPEN, as one step (04 R82). DESIGN CHOICE (log 16): a request that fails both parts of check 1 is
answered BAD_FIELD, not AMOUNT_RANGE. -/
def serveHoldOpen (p : Port) (card : BitVec 32) (gen : Byte) (outlet : BitVec 16) (cls : Byte)
    (gross lifetime : BitVec 32) (s : State) : Served :=
  if Config.outletMax < outlet.toNat ∨ 7 < cls.toNat ∨ lifetimeOk lifetime.toNat = false then
    (s, Reply.of .badField (declineBody 0 none))
  else if Config.grossMax < gross.toNat then (s, Reply.of .amountRange (declineBody 0 none))
  else
    match s.checkCard card.toNat gen.toNat with
    | .error r => (s.declineEffect card.toNat r, Reply.of r (declineBody 1 none))
    | .ok x =>
      let pr := s.tariff.price cls.toNat x.folio.package gross.toNat 1
      match s.checkShare x cls.toNat pr.total 0 with
      | some r => (s.declineEffect card.toNat r, Reply.of r (declineBody 1 (some pr)))
      | none => s.placeHold p x outlet.toNat cls.toNat lifetime.toNat pr

/-! ## HOLD COMPLETE and HOLD RELEASE (04 R84 to R86) -/

/-- The price of a completion: the hold's class, its account's package as it stands (04 R84, 03 R60). -/
def State.finalPrice (s : State) (h : Hold) (gross : Nat) : Priced :=
  s.tariff.price h.cls (((s.accounts.fetch h.account).map (·.package)).getD 0) gross 1

/-- The entry of a completion (04 R85). -/
def completionEntry (h : Hold) (handle : Handle) (pr : Priced) : Entry :=
  Entry.draft .charge pr.total h.cls (some { holder := h.holder, port := h.port, outlet := h.outlet })
    (some { gross := pr.gross, discount := pr.discount, service := pr.service }) (some handle) none

/-- HOLD COMPLETE, as one step (04 R84, R85). -/
def serveHoldComplete (p : Port) (slot reuse : Byte) (gross : BitVec 32) (s : State) : Served :=
  if Config.grossMax < gross.toNat then (s, Reply.of .amountRange (declineBody 0 none))
  else
    match s.liveHold slot.toNat reuse.toNat with
    | none => (s, Reply.of .holdGone (declineBody 0 none))
    | some h =>
      if h.port ≠ p then (s, Reply.of .notOwner (declineBody 0 none))
      else
        let pr := s.finalPrice h gross.toNat
        if h.amount < pr.total then (s, Reply.of .overHold (declineBody 0 (some pr)))
        else
          match s.logRefusal 1 with
          | some why => (s.noteLogFull why, Reply.of .logFull (declineBody 0 (some pr)))
          | none =>
            let handle : Handle := { slot := slot.toNat, reuse := reuse.toNat }
            let s' := ((s.endHold slot.toNat h).post h.account (completionEntry h handle pr)).spendAt h.holder
              pr.total
            (s', Reply.ok (u32 s.nextSeq ++ u32 pr.total ++ u32 h.amount ++ i64 (s'.headroomAt h.account)))

/-- HOLD RELEASE, as one step (04 R86). -/
def serveHoldRelease (p : Port) (slot reuse : Byte) (s : State) : Served :=
  match s.liveHold slot.toNat reuse.toNat with
  | none => (s, Reply.refuse .holdGone)
  | some h =>
    if h.port ≠ p then (s, Reply.refuse .notOwner)
    else (s.endHold slot.toNat h, Reply.ok (u32 h.amount))

/-! ## Expiry and READ HOLD (04 R87, R95) -/

/-- The expiry of a LIVE hold that ship time has reached; nothing where it has not, or the slot is FREE
(04 R87, 08 R162). -/
def State.expireHold (s : State) (slot : Nat) : State :=
  match (s.holdSlot slot).live with
  | none => s
  | some h =>
    if h.expiry ≤ s.shipTime then
      (s.endHold slot h).raiseTo h.port .holdExpired
        (some (.handle { slot := slot, reuse := (s.holdSlot slot).reuse })) (some (h.amount : Int))
    else s

/-- READ HOLD (04 R95); an expiry already reached shows 0 s (08 R162). DESIGN CHOICE (log 36): "every field
of the hold" is the table of R81, without the handle, its tag and the state. -/
def serveReadHold (slot reuse : Byte) (s : State) : Served :=
  match s.liveHold slot.toNat reuse.toNat with
  | none => (s, Reply.refuse .notFound)
  | some h =>
    (s, Reply.ok (u32 h.serial ++ u16 h.account ++ u16 h.holder ++ u8 h.port.index ++ u16 h.outlet ++
      u8 h.cls ++ u32 h.amount ++ u32 h.expiry ++
      u32 (((s.accounts.fetch h.account).map (·.folio)).getD 0) ++ u32 ((s.cardNumber h.holder).getD 0) ++
      u32 (h.expiry - s.shipTime)))

end Sys2Proof.Machine
end

