-- ==== Sys2Proof/Machine/Settle.lean ====
section
/-! DEFINITION. Machine/Settle.lean: settlement, reopening, closing and the closure queue (05 R97 to
R109). Review windows stand in Windows.lean. -/

namespace Sys2Proof.Machine

/-! ## SETTLE BEGIN (05 R97) -/

/-- The reply of SETTLE BEGIN: totals, chain count, and the cursor or the END indicator (log 14). -/
def settleBegun (a : Account) : Reply :=
  { Reply.ok (i32 a.posted ++ i32 a.settled ++ u32 a.count ++ optional u32 a.first) with
    ended := a.first.isNone }

/-- SETTLE BEGIN (05 R97). -/
def serveSettleBegin (folio : BitVec 32) (s : State) : Served :=
  match s.findFolio folio.toNat with
  | none => (s, Reply.refuse .notFound)
  | some (slot, a) =>
    if a.state ≠ .opened then (s, Reply.refuse .slotState)
    else if s.liveHolds a.serial ≠ 0 then (s, Reply.of .holdsOpen (u16 (s.liveHolds a.serial)))
    else
      ({ s with accounts := s.accounts.store slot { a with state := .settling, cursor := a.first } },
        settleBegun a)

/-! ## SETTLE STEP (05 R100 to R102) -/

/-- A total lies in the range of R93. -/
def inRange (x : Int) : Bool := decide (Config.totalMin ≤ x) && decide (x ≤ Config.totalMax)

/-- What a walk leaves: the log, the account with its cursor, the entries passed, and whether it stopped
at an entry whose settling would leave the range (05 R100). -/
structure Walk where
  log : List Entry
  account : Account
  passed : Nat
  stopped : Bool
  deriving DecidableEq, Repr

/-- The log with the entry of a sequence SETTLED. -/
def settleIn (log : List Entry) (seq : Nat) : List Entry :=
  log.map (fun e => if e.seq = seq then { e with state := .settled } else e)

/-- An account after an entry of its chain was settled: the amount moves between the totals (05 R100). -/
def Account.settling (a : Account) (e : Entry) : Account :=
  { a with posted := a.posted - e.signed, settled := a.settled + e.signed }

/-- Walk from the cursor, passing at most `fuel` entries (05 R100). A cursor at the chain's end, or at no
entry (log 27), ends the walk. -/
def walk (log : List Entry) (a : Account) (passed : Nat) : Nat → Walk
  | 0 => { log := log, account := a, passed := passed, stopped := false }
  | fuel + 1 =>
    match a.cursor.bind (fun q => log.find? (fun e => e.seq == q)) with
    | none => { log := log, account := { a with cursor := none }, passed := passed, stopped := false }
    | some e =>
      if e.state ≠ .posted then walk log { a with cursor := e.link } (passed + 1) fuel
      else if inRange (a.posted - e.signed) && inRange (a.settled + e.signed) then
        walk (settleIn log e.seq) { a.settling e with cursor := e.link } (passed + 1) fuel
      else { log := log, account := a, passed := passed, stopped := true }

/-- The state with what a walk of an account slot left. -/
def State.walked (s : State) (slot : Nat) (w : Walk) (a : Account) : State :=
  { s with log := w.log, accounts := s.accounts.store slot a }

/-- The reply of a step that settles an account, or finds it settled (05 R101, R102; log 14). -/
def settleDone (passed : Nat) (a : Account) : Reply :=
  Reply.ok (u8 passed ++ u8 AccountState.settled.code ++ i32 a.posted ++ i32 a.settled)

/-- The reply of a step with entries left (05 R101; log 14). -/
def settleMore (passed cursor : Nat) (a : Account) : Reply :=
  { Reply.ok (u8 passed ++ u32 cursor ++ i32 a.posted ++ i32 a.settled) with more := true }

/-- SETTLE STEP (05 R100 to R102). -/
def serveSettleStep (folio : BitVec 32) (s : State) : Served :=
  match s.findFolio folio.toNat with
  | none => (s, Reply.refuse .notFound)
  | some (slot, a) =>
    match a.state with
    | .opened => (s, Reply.refuse .slotState)
    | .settled => (s, settleDone 0 a)
    | .settling =>
      let w := walk s.log a 0 Config.settleStride
      match w.stopped, w.account.cursor with
      | true, cursor =>
        (s.walked slot w w.account,
          { Reply.of .amountRange (u8 w.passed ++ u32 (cursor.getD 0)) with more := true })
      | false, some cursor => (s.walked slot w w.account, settleMore w.passed cursor w.account)
      | false, none =>
        (s.walked slot w { w.account with state := .settled }, settleDone w.passed w.account)

/-! ## REOPEN (05 R103) -/

/-- The account REOPEN leaves: OPEN, with no cursor. -/
def Account.reopened (a : Account) : Account := { a with state := .opened, cursor := none }

/-- REOPEN (05 R103). -/
def serveReopen (folio : BitVec 32) (s : State) : Served :=
  match s.findFolio folio.toNat with
  | none => (s, Reply.refuse .notFound)
  | some (slot, a) =>
    if a.state = .opened then (s, Reply.refuse .slotState)
    else
      (({ s with accounts := s.accounts.store slot a.reopened } : State).noteOverLimit a,
        Reply.ok (i32 a.posted ++ i32 a.settled ++ i64 a.headroom))

/-! ## CLOSE and TAKE CLOSURE (05 R105 to R109) -/

/-- The closure summary of an account as it stands (05 R108). -/
def State.summaryOf (s : State) (a : Account) : Summary :=
  { folio := a.folio, serial := a.serial, settled := a.settled, deposit := a.deposit,
    balance := a.settled - a.deposit, count := a.count, first := a.first, last := a.last,
    time := s.shipTime, cards := s.cardNumbers a.holders }

/-- Every listed cardholder is closed (05 R106, item 2). -/
def State.closeHolders (s : State) (holders : List Nat) : State := holders.foldl State.closeHolder s

/-- A CLOSE that passes (05 R106). -/
def State.closeAccount (s : State) (slot : Nat) (a : Account) : State :=
  let bare := s.closeHolders a.holders
  { bare with
    accounts := bare.accounts.remove slot
    closures := bare.closures ++ [s.summaryOf a] }

/-- CLOSE (05 R105, R106). -/
def serveClose (folio : BitVec 32) (s : State) : Served :=
  match s.findFolio folio.toNat with
  | none => (s, Reply.refuse .notFound)
  | some (slot, a) =>
    if a.state ≠ .settled then (s, Reply.refuse .slotState)
    else if Config.closurePlaces ≤ s.closures.length then (s, Reply.refuse .queueFull)
    else
      (s.closeAccount slot a,
        Reply.ok (u8 (s.closures.length + 1) ++ u32 a.folio ++ u32 a.serial ++ i32 a.settled ++
          i32 (a.settled - a.deposit)))

/-- A window on the closure queue counts each summary taken since its opening (05 R109, 09 R176). -/
def Window.closureTaken : Window → Window
  | .closures start ending cursor taken => .closures start ending cursor (taken + 1)
  | .chain review folio serial start ending cursor => .chain review folio serial start ending cursor
  | .missing start ending cursor => .missing start ending cursor
  | .history number k start ending cursor added gone => .history number k start ending cursor added gone

/-- TAKE CLOSURE (05 R109). -/
def serveTakeClosure (s : State) : Served :=
  match s.closures with
  | [] => (s, Reply.refuse .empty)
  | x :: rest =>
    (({ s with closures := rest } : State).mapWindows Window.closureTaken,
      Reply.ok (x.bytes ++ u8 rest.length))

end Sys2Proof.Machine
end

