-- ==== Sys2Proof/Machine/Presence.lean ====
section
/-! DEFINITION. Machine/Presence.lean: the Presence Unit (chapter 7): the decision of a read, the
counters, the missing list, the call record and its deadlines. -/

namespace Sys2Proof.Machine

/-! ## The call and the missing list (07 R142 to R146) -/

/-- The call closes: AT_SEA values, the list emptied, CALL_CLOSED with the left-behind count; its
deadlines go with its state (07 R142, R145, R146). -/
def State.closeCall (s : State) (leftBehind : Nat) : State :=
  ({ s with call := .sea, missing := [] } : State).raise purserAndWatch .callClosed none
    (some (leftBehind : Int))

/-- The effects of the list becoming empty: ALL_RETURNED, then a held close is released (07 R144, R145). -/
def State.allReturned (s : State) : State :=
  let told := s.raise purserAndWatch .allReturned none (some 0)
  if s.call.closeHeld then told.closeCall 0 else told

/-- A guest's slot leaves the missing list, with the effects of R144 when that empties it. -/
def State.leaveMissing (s : State) (slot : Nat) : State :=
  if slot ∈ s.missing then
    let left := s.missing.filter (fun x => x != slot)
    let s' := { s with missing := left }
    if left = [] then s'.allReturned else s'
  else s

/-- A slot at its place in an ascending list without duplicates (07 R144). -/
def insertSlot (slot : Nat) : List Nat → List Nat
  | [] => [slot]
  | x :: xs => if slot < x then slot :: x :: xs else if slot = x then x :: xs else x :: insertSlot slot xs

/-- A guest's slot joins the missing list at its place (07 R141, R144). -/
def State.joinMissing (s : State) (slot : Nat) : State := { s with missing := insertSlot slot s.missing }

/-- The slots of the guests recorded ASHORE, ascending as the table is (07 R143). -/
def State.ashoreSlots (s : State) : List Nat :=
  (s.roster.filter (fun e => e.2.presence == some .ashore)).map (·.1)

/-- A guest moves from presence `p` to `q`: its record, its last transit and the counters (07 R133). -/
def State.movePresence (s : State) (slot : Nat) (p q : Presence) (transit : Option Transit) : State :=
  { s with
    roster := s.roster.modify slot (fun c => { c with presence := some q, lastTransit := transit })
    counters := (s.counters.down p).up q }

/-! ## Deciding a read (07 R134 to R139) -/

/-- What a decided read applies: nothing, a conflict report, an OUT PASS to a presence, or an IN PASS from
one. -/
inductive ReadEffect
  | nothing
  | conflict (slot : Nat)
  | leaves (slot : Nat) (goal : Presence)
  | boards (slot : Nat) (former : Presence)
  deriving DecidableEq, Repr

/-- A decision of the Presence Unit. -/
structure Decision where
  verdict : Verdict
  cause : Cause
  effect : ReadEffect
  deriving DecidableEq, Repr

/-- A decision that applies nothing. -/
def Decision.plain (verdict : Verdict) (cause : Cause) : Decision :=
  { verdict := verdict, cause := cause, effect := .nothing }

/-- An adult that escorts a minor of an account serial (07 R136). -/
def State.escorts (s : State) (serial : Nat) (c : Cardholder) : Bool :=
  c.kind == .adult && c.account.map (·.serial) == some serial &&
    match c.lastTransit with
    | none => false
    | some t => t.dir == .outward && decide (s.shipTime - t.time ≤ s.options.escortWindow)

/-- The escort condition for a minor (07 R136). -/
def State.escorted (s : State) (c : Cardholder) : Bool :=
  (match s.accountOf c with
    | some (_, a) => a.minorRelease
    | none => false) ||
  (match c.account with
    | some ref => s.roster.any (fun e => s.escorts ref.serial e.2)
    | none => false)

/-- An ACTIVE guest whose account is not SETTLED (07 R135, step 4). -/
def State.unsettled (s : State) (c : Cardholder) : Bool :=
  c.state == .active &&
    match s.accountOf c with
    | some (_, a) => a.state != .settled
    | none => true

/-- The presence an OUT PASS leaves (07 R137). -/
def State.outPresence (s : State) (c : Cardholder) : Presence :=
  if c.state = .closed ∨ s.call.kind = some .final then .disembarked else .ashore

/-- The cause of a PASS that leaves a presence (07 R137, R139). -/
def passCause : Presence → Cause
  | .disembarked => .disembarked
  | .ashore => .ashore
  | .aboard => .aboard
  | .notBoarded => .aboard

/-- The OUT rules (07 R135). -/
def State.decideOut (s : State) (slot : Nat) (c : Cardholder) : Decision :=
  if c.presence ≠ some .aboard then
    { verdict := .refer, cause := .notAboard, effect := .conflict slot }
  else if s.call.state = .allAboard then .plain .stop .allAboard
  else if c.kind = .minor ∧ s.escorted c = false then .plain .refer .escort
  else if s.call.kind = some .final ∧ s.unsettled c = true then .plain .refer .purser
  else
    { verdict := .pass, cause := passCause (s.outPresence c), effect := .leaves slot (s.outPresence c) }

/-- The IN rules (07 R138). -/
def State.decideIn (s : State) (slot : Nat) (c : Cardholder) : Decision :=
  if c.state = .closed then .plain .refer .purser
  else
    match c.presence with
    | some .aboard => { verdict := .refer, cause := .alreadyAboard, effect := .conflict slot }
    | some .ashore =>
      if s.call.kind = some .final then .plain .refer .purser
      else { verdict := .pass, cause := .aboard, effect := .boards slot .ashore }
    | some .notBoarded =>
      if s.call.kind = some .final then .plain .refer .purser
      else { verdict := .pass, cause := .aboard, effect := .boards slot .notBoarded }
    | some .disembarked => .plain .refer .purser
    | none => .plain .refer .purser

/-- The gates of R134, then the rules of the read's direction. -/
def State.decideRead (s : State) (card gen : Nat) (dir : Direction) : Decision :=
  if s.call.state = .atSea then .plain .stop .gangwayClosed
  else
    match s.findCard card with
    | none => .plain .refer .unknown
    | some (slot, c) =>
      if c.gen ≠ gen then .plain .refer .unknown
      else if c.kind = .staff then .plain .refer .crew
      else if c.state = .suspended then .plain .refer .purser
      else
        match dir with
        | .outward => s.decideOut slot c
        | .inward => s.decideIn slot c

/-- A transit of the present ship time (07 R137, R139, R141). -/
def State.transitNow (s : State) (lane : Option Lane) (dir : Direction) : Option Transit :=
  some { time := s.shipTime, lane := lane, dir := dir }

/-- A decision applied, in the step of the decision (07 R135 to R139). An IN PASS from ASHORE leaves the
missing list, which holds the slot in ALL_ABOARD only (R144). -/
def State.applyRead (s : State) (lane : Lane) (e : ReadEffect) : State :=
  match e with
  | .nothing => s
  | .conflict slot => s.reportConflict slot
  | .leaves slot goal => s.movePresence slot .aboard goal (s.transitNow (some lane) .outward)
  | .boards slot former =>
    (s.movePresence slot former .aboard (s.transitNow (some lane) .inward)).leaveMissing slot

/-! ## SET PRESENCE (07 R141) -/

/-- The last transit a SET PRESENCE writes (07 R141). -/
def State.manualTransit (s : State) : Presence → Option Transit
  | .aboard => s.transitNow none .inward
  | .ashore => s.transitNow none .outward
  | .disembarked => s.transitNow none .outward
  | .notBoarded => none

/-- The missing list follows a new presence, in ALL_ABOARD only (07 R141). -/
def State.followPresence (s : State) (slot : Nat) (q : Presence) : State :=
  if s.call.state ≠ .allAboard then s
  else
    match q with
    | .ashore => s.joinMissing slot
    | .aboard => s.leaveMissing slot
    | .disembarked => s.leaveMissing slot
    | .notBoarded => s.leaveMissing slot

/-- The effect of a SET PRESENCE from `p` to `q`; none where they are equal (07 R141). -/
def State.setPresence (s : State) (slot : Nat) (p q : Presence) : State :=
  if p = q then s else (s.movePresence slot p q (s.manualTransit q)).followPresence slot q

/-- SET PRESENCE (07 R141). -/
def serveSetPresence (card : BitVec 32) (presence : Byte) (s : State) : Served :=
  match Presence.ofCode presence with
  | none => (s, Reply.refuse .badField)
  | some q =>
    match s.findCard card.toNat with
    | none => (s, Reply.refuse .notFound)
    | some (slot, c) =>
      match c.presence with
      | none => (s, Reply.refuse .slotState)
      | some p =>
        (s.setPresence slot p q,
          Reply.ok (u8 p.code ++ u8 q.code ++ u16 (s.setPresence slot p q).missing.length))

/-! ## OPEN CALL and CLOSE CALL (07 R142, R146) -/

/-- The record of a FINAL call: its other fields are not read (07 R142). -/
def finalCall : CallRecord :=
  { state := .alongside, kind := some .final, allAboard := none, closeMode := .manual, closeTime := none,
    closeHeld := false }

/-- The record of an EMBARK or PORT call (07 R142). -/
def timedCall (kind : CallKind) (allAboard : Nat) (mode : CloseMode) (closeTime : Nat) : CallRecord :=
  { state := .alongside, kind := some kind, allAboard := some allAboard, closeMode := mode,
    closeTime := if mode = .timed then some closeTime else none, closeHeld := false }

/-- The call record a request would write, where its fields pass checks 2 to 4 (07 R142). A FINAL call's
close mode is not read, so not checked: DEDUCED (log 34). -/
def openedCall (kind : Byte) (allAboard : Nat) (mode : Byte) (closeTime now : Nat) : Option CallRecord :=
  match CallKind.ofCode kind, CloseMode.ofCode mode with
  | none, _ => none
  | some .final, _ => some finalCall
  | some _, none => none
  | some k, some m =>
    if allAboard ≤ now ∨ (m = .timed ∧ closeTime < allAboard) then none
    else some (timedCall k allAboard m closeTime)

/-- OPEN CALL (07 R142). -/
def serveOpenCall (kind : Byte) (allAboard : BitVec 32) (mode : Byte) (closeTime : BitVec 32)
    (s : State) : Served :=
  if s.call.state ≠ .atSea then (s, Reply.refuse .callState)
  else
    match openedCall kind allAboard.toNat mode closeTime.toNat s.shipTime with
    | none => (s, Reply.refuse .badField)
    | some record => ({ s with call := record }, Reply.ok record.bytes)

/-- The guests a close of the call would leave behind: the list's size in ALL_ABOARD, else the ASHORE
counter (07 R146). -/
def State.leftBehind (s : State) : Nat :=
  match s.call.state with
  | .allAboard => s.missing.length
  | .alongside => s.counters.ashore
  | .atSea => 0

/-- A close that would leave guests behind is refused MISSING unless forced, but at a FINAL call in
ALONGSIDE (07 R146). -/
def State.closeRefused (s : State) (force : Bool) : Bool :=
  !force && s.leftBehind != 0 && !(s.call.state == .alongside && s.call.kind == some .final)

/-- CLOSE CALL (07 R146); a FORCE byte other than 0 or 1 is BAD_FIELD at decoding (log 16). -/
def serveCloseCall (force : Byte) (s : State) : Served :=
  match flagOf force with
  | none => (s, Reply.refuse .badField)
  | some f =>
    if s.call.state = .atSea then (s, Reply.refuse .callState)
    else if s.closeRefused f then (s, Reply.of .missing (u16 s.leftBehind))
    else (s.closeCall s.leftBehind, Reply.ok (u16 s.leftBehind))

/-! ## Deadlines of the call (07 R143, R145) -/

/-- The all-aboard deadline is registered and ship time has reached it (07 R142, R143). -/
def State.allAboardDue (s : State) : Bool :=
  s.call.state == .alongside &&
    match s.call.allAboard with
    | some t => decide (t ≤ s.shipTime)
    | none => false

/-- The all-aboard deadline (07 R143); it changes nothing where it is not due (log 6). -/
def State.takeAllAboard (s : State) : State :=
  if s.allAboardDue then
    ({ s with call := { s.call with state := .allAboard }, missing := s.ashoreSlots } : State).raise
      purserAndWatch .allAboard none (some (s.ashoreSlots.length : Int))
  else s

/-- The close deadline is registered: ALL_ABOARD under TIMED close with the flag clear (07 R142, R149). -/
def State.closeRegistered (s : State) : Bool :=
  s.call.state == .allAboard && s.call.closeMode == .timed && !s.call.closeHeld

/-- The close deadline is registered and ship time has reached it (07 R145). -/
def State.closeDue (s : State) : Bool :=
  s.closeRegistered &&
    match s.call.closeTime with
    | some t => decide (t ≤ s.shipTime)
    | none => false

/-- The close deadline (07 R145); it changes nothing where it is not due (log 6). -/
def State.takeClose (s : State) : State :=
  if s.closeDue then
    if s.missing = [] then s.closeCall 0
    else
      ({ s with call := { s.call with closeHeld := true } } : State).raise purserAndWatch .closeHeld none
        (some (s.missing.length : Int))
  else s

/-! ## READ COUNTS and READ CALL (07 R148, R149) -/

/-- READ COUNTS (07 R148). -/
def serveReadCounts (s : State) : Served :=
  (s, Reply.ok (u16 s.counters.notBoarded ++ u16 s.counters.aboard ++ u16 s.counters.ashore ++
    u16 s.counters.disembarked ++ u8 s.call.state.code ++
    optional (fun k : CallKind => u8 k.code) s.call.kind ++ u16 s.missing.length))

/-- Seconds to a ship time, 0 where it has been reached (07 R149, 08 R162). -/
def State.secondsTo (s : State) (t : Nat) : Nat := t - s.shipTime

/-- READ CALL (07 R149). -/
def serveReadCall (s : State) : Served :=
  (s, Reply.ok (s.call.bytes ++ u16 s.missing.length ++ u16 s.counters.ashore ++
    optional (fun t => u32 (s.secondsTo t)) (if s.call.state = .alongside then s.call.allAboard else none) ++
    optional (fun t => u32 (s.secondsTo t)) (if s.closeRegistered then s.call.closeTime else none)))

end Sys2Proof.Machine
end

