-- ==== Sys2Proof/Machine/Lanes.lean ====
section
/-! DEFINITION. Machine/Lanes.lean: the lane controllers (chapter 6): the receiver, faults, taking a
read, the verdict buffer, modes, dry runs and READ LANE. -/

namespace Sys2Proof.Machine

/-! ## Faults (06 R119) -/

/-- The fault count rises by 1 and stays at 255; the last fault cause becomes the cause (06 R119). -/
def LaneState.countFault (l : LaneState) (cause : Cause) : LaneState :=
  { l with faults := min 255 (l.faults + 1), lastFault := some cause }

/-- A verdict message joins the newest end of the buffer (06 R120). -/
def LaneState.join (l : LaneState) (v : VerdictMsg) : LaneState := { l with verdicts := l.verdicts ++ [v] }

/-- A FRAMING, GAP, CRC or FORMAT fault: counted, with a RESEND where the buffer has a place; the receiver
becomes IDLE (06 R117, R119). -/
def LaneState.fault (l : LaneState) (cause : Cause) : LaneState :=
  let counted := { l.countFault cause with receiver := .idle }
  if l.verdicts.length < Config.verdictPlaces then
    counted.join { seq := 0, verdict := .resend, cause := cause }
  else counted

/-! ## Taking a read (06 R123, R124) -/

/-- A read matches the repeat record (06 R124). -/
def LaneState.repeats (l : LaneState) (r : LaneRead) (timer : Nat) : Option RepeatRecord :=
  match l.lastRead with
  | none => none
  | some x =>
    if r.seq ≠ 0 ∧ x.read = r ∧ timer < x.decidedAt + Config.repeatMs then some x else none

/-- The direction setting refuses a direction (06 R123, step 3). -/
def DirSetting.refuses : DirSetting → Direction → Bool
  | .both, _ => false
  | .inOnly, .outward => true
  | .inOnly, .inward => false
  | .outOnly, .inward => true
  | .outOnly, .outward => false

/-- Steps 3 and 4 of R123, shared by a read taken and a dry run (06 R129). -/
def State.judge (s : State) (l : Lane) (r : LaneRead) : Decision :=
  if (s.lanes.get l).dirSetting.refuses r.dir then .plain .stop .wrongLane
  else s.decideRead r.card r.gen r.dir

/-- The lane after a read judged afresh: the repeat record, and the verdict in the buffer (06 R123). -/
def LaneState.judged (l : LaneState) (r : LaneRead) (d : Decision) (timer : Nat) : LaneState :=
  { l.join { seq := r.seq, verdict := d.verdict, cause := d.cause } with
    lastRead := some { read := r, verdict := d.verdict, cause := d.cause, decidedAt := timer } }

/-- Take a read, as one step (06 R123). -/
def State.takeRead (s : State) (l : Lane) (r : LaneRead) : State :=
  if (s.lanes.get l).mode = .halt then
    s.modLane l (fun x => x.join { seq := r.seq, verdict := .stop, cause := .halted })
  else
    match (s.lanes.get l).repeats r s.timer with
    | some x => s.modLane l (fun y => y.join { seq := r.seq, verdict := x.verdict, cause := x.cause })
    | none => (s.applyRead l (s.judge l r).effect).modLane l (fun x => x.judged r (s.judge l r) s.timer)

/-! ## A complete message (06 R118, R121) -/

/-- A valid read completes: taken, held, or discarded as an OVERRUN (06 R121). -/
def State.validRead (s : State) (l : Lane) (r : LaneRead) : State :=
  if (s.lanes.get l).verdicts.length < Config.verdictPlaces then s.takeRead l r
  else
    match (s.lanes.get l).holding with
    | none => s.modLane l (fun x => { x with holding := some r })
    | some _ => s.modLane l (fun x => x.countFault .overrun)

/-- A complete message: the receiver becomes IDLE, and the message is checked, the CRC first (06 R117,
R118). -/
def State.completeMessage (s : State) (l : Lane) (kind : Byte) (card : BitVec 32) (gen direction seq : Byte)
    (crc : BitVec 16) : State :=
  if crc ≠ crc16 (readContent kind card gen direction seq) then s.modLane l (fun x => x.fault .crc)
  else
    match Direction.ofCode direction with
    | none => s.modLane l (fun x => x.fault .format)
    | some dir =>
      if kind ≠ 1#8 then s.modLane l (fun x => x.fault .format)
      else
        (s.modLane l (fun x => { x with receiver := .idle })).validRead l
          { card := card.toNat, gen := gen.toNat, dir := dir, seq := seq.toNat }

/-- A complete read message on a lane's line. In LOOP the receiver takes no bytes (06 R117, R128).
DESIGN CHOICE (log 11): the operands are the whole message, whatever the receiver held. -/
def State.readMessage (s : State) (l : Lane) (kind : Byte) (card : BitVec 32) (gen direction seq : Byte)
    (crc : BitVec 16) : State :=
  if (s.lanes.get l).mode = .loop then s else s.completeMessage l kind card gen direction seq crc

/-- The eleven bytes of a message, read by the layout of R188. -/
def State.completeBytes (s : State) (l : Lane) (bytes : List Byte) : State :=
  s.completeMessage l (field8 bytes 1) (field32 bytes 2) (field8 bytes 6) (field8 bytes 7) (field8 bytes 8)
    (field16 bytes 9)

/-! ## Bytes on the line (06 R117) -/

/-- A byte with its stop bit reaches a receiver that takes bytes (06 R117). -/
def State.takeByte (s : State) (l : Lane) (b : Byte) : State :=
  match (s.lanes.get l).receiver with
  | .idle =>
    if b = Config.laneStart then s.modLane l (fun x => { x with receiver := .assembling [b] s.timer }) else s
  | .assembling bytes _ =>
    if bytes.length < 10 then
      s.modLane l (fun x => { x with receiver := .assembling (bytes ++ [b]) s.timer })
    else s.completeBytes l (bytes ++ [b])

/-- A byte with its stop bit on a lane's line; in LOOP it is not taken (06 R117, R128). -/
def State.laneByte (s : State) (l : Lane) (b : Byte) : State :=
  if (s.lanes.get l).mode = .loop then s else s.takeByte l b

/-- A byte without its stop bit: a fault while ASSEMBLING, else discarded (06 R117). -/
def State.framingFault (s : State) (l : Lane) : State :=
  if (s.lanes.get l).mode = .loop then s
  else
    match (s.lanes.get l).receiver with
    | .idle => s
    | .assembling _ _ => s.modLane l (fun x => x.fault .framing)

/-- The 20 ms after the last byte of an incomplete message have passed (06 R117); log 4 for the timer. -/
def State.gapFault (s : State) (l : Lane) : State :=
  if (s.lanes.get l).mode = .loop then s
  else
    match (s.lanes.get l).receiver with
    | .idle => s
    | .assembling _ last => (s.reach (last + Config.gapMs)).modLane l (fun x => x.fault .gap)

/-! ## End of transmission (06 R120, R122) -/

/-- The oldest verdict has been sent; a held read is then taken (06 R120, R122). -/
def State.endOfTransmission (s : State) (l : Lane) : State :=
  match (s.lanes.get l).verdicts with
  | [] => s
  | _ :: rest =>
    match (s.lanes.get l).holding with
    | none => s.modLane l (fun x => { x with verdicts := rest })
    | some r => (s.modLane l (fun x => { x with verdicts := rest, holding := none })).takeRead l r

/-- The repeat record has stood its 5,000 ms: it stays present and matches no longer (06 R124); log 4 for
the timer. -/
def State.repeatExpiry (s : State) (l : Lane) : State :=
  match (s.lanes.get l).lastRead with
  | none => s
  | some x => s.reach (x.decidedAt + Config.repeatMs)

/-! ## LANE MODE, INJECT READ and READ LANE (06 R126 to R131) -/

/-- The lane a request's byte names (06 R126). -/
def laneOf (b : Byte) : Option Lane := Four.ofIndex b.toNat

/-- The entry effects of a mode: LOOP discards the message and the held read (06 R127, R128). -/
def LaneState.enter (l : LaneState) (mode : LaneMode) : LaneState :=
  match mode with
  | .loop => { l with mode := mode, lastRead := none, receiver := .idle, holding := none }
  | .normal => { l with mode := mode, lastRead := none }
  | .halt => { l with mode := mode, lastRead := none }

/-- A lane after a LANE MODE (06 R126). -/
def LaneState.setMode (l : LaneState) (mode : LaneMode) (dir : DirSetting) (clear : Bool) : LaneState :=
  let turned := { l with dirSetting := dir }
  let moved := if l.mode = mode then turned else turned.enter mode
  if clear then { moved with faults := 0, lastFault := none } else moved

/-- LANE MODE (06 R126); a clear-faults byte other than 0 or 1 is BAD_FIELD too (11 R191). -/
def serveLaneMode (lane mode direction clearFaults : Byte) (s : State) : Served :=
  match laneOf lane, LaneMode.ofCode mode, DirSetting.ofCode direction, flagOf clearFaults with
  | some l, some m, some d, some c =>
    (s.modLane l (fun x => x.setMode m d c), Reply.ok ((s.lanes.get l).setMode m d c).bytes)
  | _, _, _, _ => (s, Reply.refuse .badField)

/-- INJECT READ, a dry run that changes nothing (06 R129). -/
def serveInjectRead (lane : Byte) (card : BitVec 32) (gen direction seq : Byte) (s : State) : Served :=
  match laneOf lane, Direction.ofCode direction with
  | some l, some dir =>
    if (s.lanes.get l).mode ≠ .loop then (s, Reply.refuse .slotState)
    else
      let d := s.judge l { card := card.toNat, gen := gen.toNat, dir := dir, seq := seq.toNat }
      (s, Reply.ok (u8 d.verdict.code ++ u8 d.cause.code))
  | _, _ => (s, Reply.refuse .badField)

/-- READ LANE (06 R131). -/
def serveReadLane (lane : Byte) (s : State) : Served :=
  match laneOf lane with
  | none => (s, Reply.refuse .badField)
  | some l => (s, Reply.ok (s.lanes.get l).bytes)

end Sys2Proof.Machine
end

