-- ==== Sys2Proof/Machine/Clock.lean ====
section
/-! DEFINITION. Machine/Clock.lean: the Ship Clock (chapter 8): ship time, rollovers, ticks, freewheel,
SET TIME and READ TIME. -/

namespace Sys2Proof.Machine

/-! ## Rollovers (08 R159, R160) -/

/-- The first instant of the form k × 86,400 + H × 3,600 strictly after a ship time (08 R159). -/
def nextRolloverAfter (time hour : Nat) : Nat :=
  if time < hour * 3600 then hour * 3600
  else ((time - hour * 3600) / Config.daySeconds + 1) * Config.daySeconds + hour * 3600

/-- The rollovers a ship time reaches, from the next rollover time on (08 R159). -/
def rolloversBy (time next : Nat) : Nat :=
  if time < next then 0 else (time - next) / Config.daySeconds + 1

/-- A rollover of so many days: D, the next rollover time, the pending tariff once, one DAY_ROLLED
(08 R159, R160). -/
def State.rollover (s : State) (days : Nat) : State :=
  ({ s with
      shipDay := s.shipDay + days
      nextRollover := s.nextRollover + days * Config.daySeconds
      tariff := s.pendingTariff.getD s.tariff
      pendingTariff := none } : State).raise everyPort .dayRolled none (some ((s.shipDay + days : Nat) : Int))

/-- Ship time advances to a value, with every rollover it reaches (08 R151, R159). -/
def State.advanceTo (s : State) (time : Nat) : State :=
  let moved := { s with shipTime := time }
  if rolloversBy time s.nextRollover = 0 then moved else moved.rollover (rolloversBy time s.nextRollover)

/-- Ship time rises by 1, and does not pass its largest value (08 R151). -/
def State.advance (s : State) : State :=
  if s.shipTime < Config.maxWord then s.advanceTo (s.shipTime + 1) else s

/-- One millisecond of the device's own oscillator (08 R152): what a step on an empty queue takes. DESIGN
CHOICE (log 3). -/
def State.millisecond (s : State) : State := { s with timer := s.timer + 1 }

/-! ## Ticks and freewheel (08 R153 to R156) -/

/-- A tick in either clock state (08 R153, R156); DAY_ROLLED comes before CLOCK_RESTORED (log 26). -/
def State.takeTick (s : State) : State :=
  let ticked := { s.advance with tickSeen := true, lastTick := s.timer, clock := .ticked }
  match s.clock with
  | .ticked => ticked
  | .freewheel _ => ticked.raise purserAndWatch .clockRestored none none

/-- The loss of the tick line (08 R154); nothing in FREEWHEEL. Log 4 for the timer, log 26 for the order
of notices. -/
def State.loseTick (s : State) : State :=
  match s.clock with
  | .freewheel _ => s
  | .ticked =>
    let at' := s.reach (s.lastTick + Config.tickLossMs)
    ({ at'.advance with clock := .freewheel (at'.timer + Config.secondMs) } : State).raise purserAndWatch
      .clockFreewheel none none

/-- A freewheel second (08 R155); nothing in TICKED. Log 4 for the timer. -/
def State.takeSecond (s : State) : State :=
  match s.clock with
  | .ticked => s
  | .freewheel next =>
    { (s.reach next).advance with clock := .freewheel (next + Config.secondMs) }

/-! ## SET TIME and READ TIME (08 R157, R158) -/

/-- SET TIME (08 R158). -/
def serveSetTime (time : BitVec 32) (s : State) : Served :=
  if time.toNat < s.shipTime then (s, Reply.refuse .timeBackward)
  else if time.toNat = s.shipTime then (s, Reply.ok (u32 s.shipTime ++ u32 s.shipDay))
  else
    (s.advanceTo time.toNat,
      Reply.ok (u32 (s.advanceTo time.toNat).shipTime ++ u32 (s.advanceTo time.toNat).shipDay))

/-- READ TIME (08 R157). DESIGN CHOICE (log 13): the indicator that no rollover lies within the range of ship time is
the presence byte 0 in place of the next rollover. -/
def serveReadTime (s : State) : Served :=
  ({ s with tickSeen := false },
    Reply.ok (u32 s.shipTime ++ u8 s.clock.code ++ flag s.tickSeen ++ u32 s.shipDay ++
      optional u32 (if s.nextRollover ≤ Config.maxWord then some s.nextRollover else none) ++
      u8 s.options.rolloverHour ++ flag s.pendingTariff.isSome ++ u48 s.timer))

end Sys2Proof.Machine
end

