-- ==== Sys2Proof/Machine/Settings.lean ====
section
/-! DEFINITION. Machine/Settings.lean: the Settings Store, start-up and voyage clear (chapter 10, 11 R192). -/

namespace Sys2Proof.Machine

/-! ## SET OPTIONS (10 R178) -/

/-- An unsigned value brought into a range (10 R178). -/
def bring (low high x : Nat) : Nat := if x < low then low else if high < x then high else x

/-- The options as written: each value in its range (10 R178). -/
def optionsOf (f : OptionFields) : Options :=
  { unlockDeadline := bring 2 30 f.unlockDeadline.toNat
    holdLifetime := bring 60 86400 f.holdLifetime.toNat
    voidWindow := bring 0 3600 f.voidWindow.toNat
    escortWindow := bring 0 900 f.escortWindow.toNat
    threshold := bring 0 15 f.threshold.toNat
    rolloverHour := bring 0 23 f.rolloverHour.toNat }

/-- The options as sent. -/
def optionsSent (f : OptionFields) : Options :=
  { unlockDeadline := f.unlockDeadline.toNat
    holdLifetime := f.holdLifetime.toNat
    voidWindow := f.voidWindow.toNat
    escortWindow := f.escortWindow.toNat
    threshold := f.threshold.toNat
    rolloverHour := f.rolloverHour.toNat }

/-- The working options become `o`, and the next rollover time is recomputed from the present ship time
(08 R161); the value H already holds recomputes to the same instant. -/
def State.putOptions (s : State) (o : Options) : State :=
  { s with options := o, nextRollover := nextRolloverAfter s.shipTime o.rolloverHour }

/-- SET OPTIONS (10 R178). -/
def serveSetOptions (f : OptionFields) (s : State) : Served :=
  (s.putOptions (optionsOf f),
    { Reply.ok (optionsOf f).bytes with clamped := optionsOf f != optionsSent f })

/-! ## SET TARIFF (10 R179, 11 R192) -/

/-- A rate of 2 bytes brought to its top. -/
def rateTo (top : Nat) (x : BitVec 16) : Nat := min top x.toNat

/-- A rate of 2 bytes was above its top. -/
def rateOver (top : Nat) (x : BitVec 16) : Bool := decide (top < x.toNat)

/-- A cap field brought into 0 to its top; it is an amount, signed (10 R179, 11 R191; log 28). -/
def capTo (top : Nat) (x : BitVec 32) : Nat := min top x.toInt.toNat

/-- A cap field was outside 0 to its top. -/
def capOff (top : Nat) (x : BitVec 32) : Bool := decide (x.toInt < 0) || decide ((top : Int) < x.toInt)

/-- The tariff a part 1 makes, its rows 8 to 15 those of the current tariff (10 R179). -/
def tariffOf (part : TariffPart1) (current : Tariff) : Tariff :=
  { rates := part.rates.map (rateTo 2500)
    discounts := part.rows.map (rateTo 10000) ++ current.discounts.drop 64
    adultBase := capTo Config.capMax part.adultBase
    minorBase := capTo Config.capMax part.minorBase
    capStep := capTo 1000000 part.capStep
    capFloor := capTo Config.capMax part.capFloor
    capCeiling := capTo Config.capMax part.capCeiling }

/-- A field of part 1 was brought into its range (10 R179). -/
def partClamped (part : TariffPart1) : Bool :=
  part.rates.any (rateOver 2500) || part.rows.any (rateOver 10000) || capOff Config.capMax part.adultBase ||
    capOff Config.capMax part.minorBase || capOff 1000000 part.capStep || capOff Config.capMax part.capFloor ||
    capOff Config.capMax part.capCeiling

/-- SET TARIFF part 1 (10 R179, 11 R192). Lists that are not whole are a body of the wrong length (11
R191). CLAMPED is given with the refusal too: DESIGN CHOICE (log 21). -/
def serveSetTariff1 (part : TariffPart1) (s : State) : Served :=
  if part.wf = false then (s, Reply.refuse .badField)
  else
    let t := tariffOf part s.tariff
    if t.capCeiling < t.capFloor then (s, { Reply.refuse .badField with clamped := partClamped part })
    else ({ s with pendingTariff := some t }, { Reply.ok t.bytes with clamped := partClamped part })

/-- The pending tariff with its rows 8 to 15 written (11 R192). -/
def Tariff.withRows (t : Tariff) (rows : List (BitVec 16)) : Tariff :=
  { t with discounts := t.discounts.take 64 ++ rows.map (rateTo 10000) }

/-- SET TARIFF part 2 (11 R192). -/
def serveSetTariff2 (rows : List (BitVec 16)) (s : State) : Served :=
  if rows.length ≠ 64 then (s, Reply.refuse .badField)
  else
    match s.pendingTariff with
    | none => (s, Reply.refuse .slotState)
    | some t =>
      ({ s with pendingTariff := some (t.withRows rows) },
        { Reply.ok [] with clamped := rows.any (rateOver 10000) })

/-- READ SETTINGS (10 R179). -/
def serveReadSettings (s : State) : Served :=
  (s, Reply.ok (s.options.bytes ++ s.tariff.bytes ++ optional Tariff.bytes s.pendingTariff ++
    flag s.image.isSome ++ u8 s.store.code ++ flag s.loaded))

/-! ## The settings image (10 R181 to R183) -/

/-- LOAD SETTINGS (10 R181). -/
def serveLoadSettings (s : State) : Served :=
  match s.store, s.image with
  | .busy _ _, _ => (s, Reply.refuse .storeBusy)
  | .idle, none => (s, Reply.refuse .storeInvalid)
  | .idle, some x =>
    ({ s.putOptions x.options with tariff := x.tariff, pendingTariff := none, loaded := true }, Reply.ok [])

/-- The snapshot of a save: the pending tariff when one is pending (10 R182). -/
def State.snapshot (s : State) : Settings :=
  { options := s.options, tariff := s.pendingTariff.getD s.tariff }

/-- SAVE SETTINGS (10 R182). -/
def serveSaveSettings (p : Port) (s : State) : Served :=
  match s.store with
  | .busy _ _ => (s, Reply.refuse .storeBusy)
  | .idle =>
    if s.image.isSome = true ∧ s.loaded = false then (s, Reply.refuse .notLoaded)
    else ({ s with store := .busy p s.snapshot, image := none }, Reply.of .accepted [])

/-- A save completes (10 R183); nothing where no save is in progress (log 7). -/
def State.completeSave (s : State) : State :=
  match s.store with
  | .idle => s
  | .busy p x =>
    ({ s with image := some x, loaded := true, store := .idle } : State).raiseTo p .settingsSaved none none

/-- A save fails (10 R183); nothing where no save is in progress (log 7). -/
def State.failSave (s : State) : State :=
  match s.store with
  | .idle => s
  | .busy p _ => ({ s with store := .idle } : State).raiseTo p .saveFailed none none

/-! ## Record memory initialized (10 R184, R185) -/

/-- The tables, counters, queues and call of record memory at their cold-start values, ship time and D 0
(10 R184; 01 R29, 02 R50, 04 R96, 05 R115, 07 R150, 08 R163). -/
def State.clearRecords (s : State) : State :=
  { s with
    roster := []
    accounts := []
    nextSerial := 1
    cabins := []
    unlocks := []
    nextToken := 1
    log := []
    nextSeq := 1
    holds := []
    closures := []
    counters := .zero
    call := .sea
    missing := []
    shipTime := 0
    shipDay := 0 }

/-- VOYAGE CLEAR (10 R185). -/
def serveVoyageClear (s : State) : Served :=
  if s.call.state ≠ .atSea ∨ s.accounts ≠ [] then (s, Reply.refuse .notClear)
  else
    let bare := s.clearRecords
    ({ bare with
        nextRollover := nextRolloverAfter 0 s.options.rolloverHour
        ports := s.ports.map (fun port => { port with window := none })
        lanes := s.lanes.map (fun l => { l with lastRead := none }) },
      Reply.ok [])

/-! ## START_UP (10 R184) -/

/-- Record memory after a cold start; the marker is written (10 R184). -/
def State.coldRecords (s : State) : State :=
  { s.clearRecords with
    nextRollover := nextRolloverAfter 0 Options.cold.rolloverHour
    options := .cold
    tariff := .cold
    pendingTariff := none
    marker := true }

/-- The device's own state after a start-up of either kind (10 R184; 02 R50, 06 R132, 08 R163, 09 R164). -/
def State.restart (s : State) (straps : Quad (BitVec 2)) (warm : Bool) : State :=
  { s with
    unlocks := []
    ports := straps.map (fun code => PortState.started (Profile.ofStraps code) s.shipTime warm)
    lanes := .fill .started
    clock := if warm then .freewheel Config.secondMs else .ticked
    lastTick := 0
    tickSeen := false
    timer := 0
    store := .idle
    loaded := false }

/-- START_UP, as one step: WARM where the marker is present and record memory was kept (10 R184; log 23).
DESIGN CHOICE (log 19): the last-tick instant is 0 after a warm start too, where no rule reads it before
the tick that writes it. -/
def State.startUp (s : State) (straps : Quad (BitVec 2)) (memoryLost : Bool) : State :=
  if s.marker && !memoryLost then s.restart straps true else s.coldRecords.restart straps false

end Sys2Proof.Machine
end

