-- ==== Sys2Proof/Machine/Windows.lean ====
section
/-! DEFINITION. Machine/Windows.lean: windows in READ and REVIEW mode (09 R174 to R177, 05 R110 to R114)
and READ PORT STATUS (09 R173). -/

namespace Sys2Proof.Machine

/-! ## Items (09 R175, R176) -/

/-- The entries from a cursor along the links to an end entry (09 R176); `fuel` bounds the walk by the log's
length. -/
def chainFrom (log : List Entry) (ending : Nat) : Nat → Option Nat → List Entry
  | 0, _ => []
  | fuel + 1, cursor =>
    match cursor.bind (fun q => log.find? (fun e => e.seq == q)) with
    | none => []
    | some e => e :: (if e.seq = ending then [] else chainFrom log ending fuel e.link)

/-- The entries of a chain from a cursor to an end; none where the window has no end. -/
def State.chainItems (s : State) (cursor ending : Option Nat) : List Entry :=
  match ending with
  | none => []
  | some e => chainFrom s.log e s.log.length cursor

/-- The cursor past an entry: its link, or past the end after the end entry (05 R110, 09 R176). -/
def cursorPast (ending : Option Nat) (e : Entry) : Option Nat :=
  if some e.seq = ending then none else e.link

/-- The members of the missing list from a cursor to an end (09 R176). -/
def State.missingItems (s : State) (cursor : Nat) (ending : Option Nat) : List Nat :=
  match ending with
  | none => []
  | some e => s.missing.filter (fun x => decide (cursor ≤ x) && decide (x ≤ e))

/-- A missing-list member (11 R191). -/
def State.missingItem (s : State) (slot : Nat) : List Byte :=
  match s.roster.fetch slot with
  | none => u16 slot ++ u32 0 ++ u8 0 ++ u8 0 ++ optional Transit.bytes none
  | some c => u16 slot ++ u32 c.card ++ u8 c.kind.code ++ u8 c.state.code ++ optional Transit.bytes c.lastTransit

/-- Items with their opening positions: those from the cursor, or the first position not gone, to the end
(09 R176). The oldest item present stands at opening position `gone + 1`. -/
def positioned {α : Type} (items : List α) (gone cursor : Nat) (ending : Option Nat) : List (Nat × α) :=
  match ending with
  | none => []
  | some e =>
    let first := max cursor (gone + 1)
    List.zip (List.range' first (e + 1 - first)) (items.drop (first - 1 - gone))

/-- The events dropped from a history since a window's opening (09 R176). -/
def historyGone (added : Nat) (ending : Option Nat) : Nat := added - (Config.historyPlaces - ending.getD 0)

/-- The history of a cabin slot; empty where the cabin is undefined. -/
def State.historyOf (s : State) (slot : Nat) : List HistoryEvent :=
  match s.cabins.fetch slot with
  | none => []
  | some k => k.history

/-- The items that remain in a window, each with its bytes and the window once it is passed (09 R176). -/
def State.remaining (s : State) (w : Window) : List (List Byte × Window) :=
  match w with
  | .chain review folio serial start ending cursor =>
    if (s.findSerial serial).isNone then []
    else
      (s.chainItems cursor ending).map (fun e =>
        (s.entryItem e, Window.chain review folio serial start ending (cursorPast ending e)))
  | .missing start ending cursor =>
    (s.missingItems cursor ending).map (fun x => (s.missingItem x, Window.missing start ending (x + 1)))
  | .history number slot start ending cursor added gone =>
    if gone then []
    else
      (positioned (s.historyOf slot) (historyGone added ending) cursor ending).map (fun x =>
        (x.2.bytes, Window.history number slot start ending (x.1 + 1) added gone))
  | .closures start ending cursor taken =>
    (positioned s.closures taken cursor ending).map (fun x =>
      (x.2.bytes, Window.closures start ending (x.1 + 1) taken))

/-! ## WINDOW OPEN (09 R174, 05 R110) -/

/-- Collections of a window (11 R190). -/
inductive Collection
  | chain
  | missing
  | history
  | closures
  deriving DecidableEq, Repr

def Collection.ofCode (b : Byte) : Option Collection :=
  match b.toNat with
  | 1 => some .chain
  | 2 => some .missing
  | 3 => some .history
  | 4 => some .closures
  | _ => none

/-- A start sequence is 0 or that of an entry of an account's chain (05 R110, 09 R174). -/
def State.chainStartOk (s : State) (a : Account) (start : Nat) : Bool :=
  decide (start = 0) ||
    match s.findEntry start with
    | none => false
    | some e => e.serial == a.serial

/-- A window on an account's chain, opened at a start sequence (05 R110, 09 R174). -/
def chainWindow (review : Bool) (a : Account) (start : Nat) : Window :=
  let first := if start = 0 then a.first else some start
  .chain review a.folio a.serial first a.last first

/-- The end of a collection of so many items, counted in positions: absent where it is empty. -/
def lastPosition (n : Nat) : Option Nat := if n = 0 then none else some n

/-- The window a WINDOW OPEN in READ mode makes, or its refusal (09 R174, checks 2 and 3). -/
def State.openRead (s : State) (c : Collection) (key start : Nat) : Except Result Window :=
  match c with
  | .chain =>
    match s.findFolio key with
    | none => .error .notFound
    | some (_, a) => if s.chainStartOk a start then .ok (chainWindow false a start) else .error .badField
  | .missing =>
    if Config.cardholderSlots ≤ start then .error .badField
    else .ok (.missing start s.missing.getLast? start)
  | .history =>
    match s.findCabin key with
    | none => .error .notFound
    | some (slot, k) =>
      if k.history.length < start then .error .badField
      else .ok (.history k.number slot (max 1 start) (lastPosition k.history.length) (max 1 start) 0 false)
  | .closures =>
    if s.closures.length < start then .error .badField
    else .ok (.closures (max 1 start) (lastPosition s.closures.length) (max 1 start) 0)

/-- The window a WINDOW OPEN in REVIEW mode makes, or its refusal (05 R110). -/
def State.openReview (s : State) (p : Port) (collection : Byte) (key start : Nat) : Except Result Window :=
  if (s.ports.get p).profile ≠ .purser then .error .notPermitted
  else if collection ≠ 1#8 then .error .badField
  else
    match s.findFolio key with
    | none => .error .notFound
    | some (_, a) =>
      if a.state ≠ .opened then .error .slotState
      else if s.chainStartOk a start then .ok (chainWindow true a start)
      else .error .badField

/-- The window a WINDOW OPEN makes, or its refusal (09 R174, check 1; 05 R110). -/
def State.openWindow (s : State) (p : Port) (collection mode : Byte) (key start : Nat) :
    Except Result Window :=
  if mode = 1#8 then s.openReview p collection key start
  else if mode ≠ 0#8 then .error .badField
  else
    match Collection.ofCode collection with
    | none => .error .badField
    | some c => s.openRead c key start

/-- Start and end of a window, as WINDOW OPEN answers them. DESIGN CHOICE (log 13): the start of a window
opened on an empty chain is answered 0. -/
def Window.bounds : Window → Nat × Option Nat
  | .chain _ _ _ start ending _ => (start.getD 0, ending)
  | .missing start ending _ => (start, ending)
  | .history _ _ start ending _ _ _ => (start, ending)
  | .closures start ending _ _ => (start, ending)

/-- WINDOW OPEN (09 R174, 05 R110); a refused one closes the port's window. The layout is DESIGN CHOICE
(log 13). -/
def serveWindowOpen (p : Port) (collection mode : Byte) (key start : BitVec 32) (s : State) : Served :=
  match s.openWindow p collection mode key.toNat start.toNat with
  | .error r => (s.closeWindow p, Reply.refuse r)
  | .ok w =>
    (s.setWindow p w,
      Reply.ok (u32 w.bounds.1 ++ optional u32 w.bounds.2 ++ u32 (s.remaining w).length))

/-! ## WINDOW READ (09 R175, 05 R111) -/

/-- A review window's answer: the entry at the cursor and its position, or END (05 R111). -/
def State.reviewRead (s : State) (serial : Nat) (start cursor : Option Nat) : Reply :=
  match s.findSerial serial, cursor.bind (fun q => s.findEntry q) with
  | some _, some e =>
    Reply.ok (u8 1 ++ s.entryItem e ++ u32 (s.chainItems start cursor).length)
  | some _, none => Reply.noItems
  | none, _ => Reply.noItems

/-- A READ window's answer: up to 8 of the items that remain, and the window past them (09 R175). -/
def State.readItems (s : State) (p : Port) (w : Window) : Served :=
  let items := s.remaining w
  match (items.take Config.windowStride).getLast? with
  | none => (s, Reply.noItems)
  | some last =>
    (s.setWindow p last.2,
      { Reply.ok (listOf (fun x : List Byte × Window => x.1) (items.take Config.windowStride)) with
        more := decide (Config.windowStride < items.length) })

/-- WINDOW READ (09 R175, 05 R111). -/
def serveWindowRead (p : Port) (s : State) : Served :=
  match (s.ports.get p).window with
  | none => (s, Reply.refuse .slotState)
  | some (.chain true _ serial start _ cursor) => (s, s.reviewRead serial start cursor)
  | some w => s.readItems p w

/-! ## WINDOW ACT (05 R112, R113) -/

/-- Actions of WINDOW ACT (11 R190). -/
inductive Action
  | keep
  | void
  deriving DecidableEq, Repr

def Action.ofCode (b : Byte) : Option Action :=
  match b.toNat with
  | 0 => some .keep
  | 1 => some .void
  | _ => none

/-- The entry a review window's action finds, with the window's account; none is answered END (05 R112). -/
def State.reviewed (s : State) (serial : Nat) (cursor : Option Nat) : Option (Account × Entry) :=
  match s.findSerial serial, cursor.bind (fun q => s.findEntry q) with
  | some (_, a), some e => some (a, e)
  | some _, none => none
  | none, _ => none

/-- The reply of KEEP: the sequence the cursor now names, or END (05 R112). -/
def keepReply : Option Nat → Reply
  | none => Reply.finished
  | some q => Reply.ok (u32 q)

/-- The refusals of R113, or the group to void. DEDUCED (log 37): an entry that a SETTLE STEP settled is
refused ACCOUNT_NOT_OPEN until the account is reopened, then ENTRY_STATE (05 R113 against R114). -/
def State.reviewGroup (s : State) (a : Account) (e : Entry) : Except Result (List Entry) :=
  if a.state ≠ .opened then .error .accountNotOpen
  else if e.state ≠ .posted then .error .entryState
  else if e.origin = none then .error .entryState
  else s.voidGroup e

/-- WINDOW ACT on a review window whose cursor names an entry. -/
def State.act (s : State) (p : Port) (action : Action) (moved : Window) (next : Option Nat) (a : Account)
    (e : Entry) : Served :=
  match action with
  | .keep => (s.setWindow p moved, keepReply next)
  | .void =>
    match s.reviewGroup a e with
    | .error r => (s, Reply.refuse r)
    | .ok g =>
      ((s.voidAll g).setWindow p moved,
        { Reply.ok (voidFields (s.voidAll g) g ++ optional u32 next) with ended := next.isNone })

/-- WINDOW ACT (05 R112, R113). DESIGN CHOICE: END with the VOID fields (log 14), and SLOT_STATE before
BAD_FIELD before END, the order of the table of R112 (log 16). -/
def serveWindowAct (p : Port) (action : Byte) (s : State) : Served :=
  match (s.ports.get p).window with
  | some (.chain true folio serial start ending cursor) =>
    match Action.ofCode action with
    | none => (s, Reply.refuse .badField)
    | some act =>
      match s.reviewed serial cursor with
      | none => (s, Reply.finished)
      | some (a, e) =>
        s.act p act (.chain true folio serial start ending (cursorPast ending e)) (cursorPast ending e) a e
  | _ => (s, Reply.refuse .slotState)

/-! ## READ PORT STATUS (09 R173) -/

/-- READ PORT STATUS; the profile codes are DESIGN CHOICE (log 13). -/
def serveReadPortStatus (p : Port) (s : State) : Served :=
  let port := s.ports.get p
  (s, Reply.ok (u8 p.index ++ u8 port.profile.code ++ u8 s.ports.a0.profile.code ++
    u8 s.ports.a1.profile.code ++ u8 s.ports.a2.profile.code ++ u8 s.ports.a3.profile.code ++
    u8 port.buffer.length ++ u8 port.queue.length ++ u32 port.mask.toNat ++ flag port.lost ++
    optional Window.bytes port.window))

/-- SET NOTICE MASK (09 R172). -/
def serveSetNoticeMask (p : Port) (mask : BitVec 32) (s : State) : Served :=
  if noticeMaskOk mask = false then (s, Reply.refuse .badField)
  else (s.modPort p (fun port => { port with mask := mask }), Reply.ok (u32 mask.toNat))

end Sys2Proof.Machine
end

