-- ==== Sys2Proof/Machine/Requests.lean ====
section
/-! DEFINITION. Machine/Requests.lean: the Client Port Controllers (chapter 9): who may issue a request,
its execution and response, the request buffer, and the deliveries of a READ. -/

namespace Sys2Proof.Machine

/-! ## Execution (09 R167, R177) -/

/-- The profile a request code is kept for; none for the shared list (09 R167). -/
def ownerOf (code : Nat) : Option Profile :=
  if code < 0x20 then none
  else if code < 0x30 then some .service
  else if code < 0x40 then some .access
  else some .purser

/-- A port of a profile may issue a request (09 R167). -/
def mayIssue (profile : Profile) (req : Request) : Bool :=
  match ownerOf req.code.toNat with
  | none => true
  | some owner => profile == owner

/-- The rule of a request that its port may issue (09 R167, item 4). A body of the wrong length is BAD_FIELD
before any other check. -/
def serve (p : Port) (req : Request) (s : State) : Served :=
  match req with
  | .badFrame => (s, Reply.refuse .badFrame)
  | .unknown _ => (s, Reply.refuse .unknownRequest)
  | .badLength _ => (s, Reply.refuse .badField)
  | .noOp => (s, Reply.ok [])
  | .readPortStatus => serveReadPortStatus p s
  | .setNoticeMask mask => serveSetNoticeMask p mask s
  | .readCardholder card => serveReadCardholder card s
  | .readAccount folio => serveReadAccount folio s
  | .readCabin cabin => serveReadCabin cabin s
  | .readHold slot reuse => serveReadHold slot reuse s
  | .readEntry seq => serveReadEntry seq s
  | .readCounts => serveReadCounts s
  | .readCall => serveReadCall s
  | .readTime => serveReadTime s
  | .readLane lane => serveReadLane lane s
  | .readSettings => serveReadSettings s
  | .windowOpen collection mode key start => serveWindowOpen p collection mode key start s
  | .windowRead => serveWindowRead p s
  | .price cls unit qty k card package => servePrice cls unit qty k card package s
  | .charge outlet cls unit qty cards => serveCharge p outlet cls unit qty cards s
  | .holdOpen card gen outlet cls gross lifetime => serveHoldOpen p card gen outlet cls gross lifetime s
  | .holdComplete slot reuse gross => serveHoldComplete p slot reuse gross s
  | .holdRelease slot reuse => serveHoldRelease p slot reuse s
  | .void seq outlet => serveVoid p seq outlet s
  | .accessQuery card gen cabin => serveAccessQuery p card gen cabin s
  | .lockReport cabin token outcome => serveLockReport cabin token outcome s
  | .privacySet cabin => servePrivacySet cabin s
  | .privacyClear cabin => servePrivacyClear cabin s
  | .enrol card kind folio classMask deckMask => serveEnrol card kind folio classMask deckMask s
  | .reissue card => serveReissue card s
  | .suspend card => serveSuspend card s
  | .resume card => serveResume card s
  | .purge card => servePurge card s
  | .setClassMask card mask => serveSetClassMask card mask s
  | .setDeckMask card mask => serveSetDeckMask card mask s
  | .capUp card => serveCapUp card s
  | .capDown card => serveCapDown card s
  | .setCapOffset card offset => serveSetCapOffset card offset s
  | .openAccount folio limit deposit => serveOpenAccount folio limit deposit s
  | .setLimit folio amount => serveSetLimit folio amount s
  | .setDeposit folio amount => serveSetDeposit folio amount s
  | .setPackage folio package => serveSetPackage folio package s
  | .setMinorRelease folio value => serveSetMinorRelease folio value s
  | .adjust folio kind amount => serveAdjust folio kind amount s
  | .settleBegin folio => serveSettleBegin folio s
  | .settleStep folio => serveSettleStep folio s
  | .reopen folio => serveReopen folio s
  | .close folio => serveClose folio s
  | .takeClosure => serveTakeClosure s
  | .defineCabin cabin deck => serveDefineCabin cabin deck s
  | .undefineCabin cabin => serveUndefineCabin cabin s
  | .grantCabin card cabin => serveGrantCabin card cabin s
  | .revokeCabin card cabin => serveRevokeCabin card cabin s
  | .rekeyCabin cabin => serveRekeyCabin cabin s
  | .blockCabin cabin => serveBlockCabin cabin s
  | .unblockCabin cabin => serveUnblockCabin cabin s
  | .setPresence card presence => serveSetPresence card presence s
  | .openCall kind allAboard mode closeTime => serveOpenCall kind allAboard mode closeTime s
  | .closeCall force => serveCloseCall force s
  | .laneMode lane mode direction clearFaults => serveLaneMode lane mode direction clearFaults s
  | .injectRead lane card gen direction seq => serveInjectRead lane card gen direction seq s
  | .setTime time => serveSetTime time s
  | .setTariff1 part => serveSetTariff1 part s
  | .setTariff2 rows => serveSetTariff2 rows s
  | .setOptions fields => serveSetOptions fields s
  | .loadSettings => serveLoadSettings s
  | .saveSettings => serveSaveSettings p s
  | .voyageClear => serveVoyageClear s
  | .windowAct action => serveWindowAct p action s

/-- A request in the order of R167: bad frame, unknown code, profile, then its own rule. -/
def State.answer (s : State) (p : Port) (req : Request) : Served :=
  match req with
  | .badFrame => (s, Reply.refuse .badFrame)
  | .unknown _ => (s, Reply.refuse .unknownRequest)
  | _ =>
    if mayIssue (s.ports.get p).profile req then serve p req s else (s, Reply.refuse .notPermitted)

/-- An entry whose execution leaves the window as its rule left it: WINDOW READ, WINDOW ACT, a bad frame
(09 R177), and a WINDOW OPEN, which closes or opens it itself. A WINDOW READ or ACT of the wrong length is
refused and leaves it too (log 33). -/
def keepsWindow (req : Request) : Bool :=
  match req with
  | .badFrame => true
  | .unknown _ => false
  | .badLength code => code == 0x0F#8 || code == 0x86#8
  | .windowOpen _ _ _ _ => true
  | .windowRead => true
  | .windowAct _ => true
  | _ => false

/-- What an entry's execution leaves, its response apart: its effect, and the window closed (09 R177). -/
def State.effect (s : State) (p : Port) (req : Request) : State :=
  if keepsWindow req then (s.answer p req).1 else (s.answer p req).1.closeWindow p

/-- An entry is answered or executed as one step, and its response fills the slot (09 R167). -/
def State.execute (s : State) (p : Port) (e : BufEntry) : State :=
  (s.effect p e.req).respond p e.req.code e.tag (s.answer p e.req).2

/-- A port executes the oldest entry of its buffer when the slot is empty (09 R167; log 8). -/
def State.pump (s : State) (p : Port) : State :=
  match (s.ports.get p).slot, (s.ports.get p).buffer with
  | none, e :: rest => (s.modPort p (fun port => { port with buffer := rest })).execute p e
  | none, [] => s
  | some _, _ => s

/-! ## Writing (09 R165, R166) -/

/-- An entry is offered to the request buffer, and executed when R167 says (09 R166, R167). -/
def State.submit (s : State) (p : Port) (tag : Byte) (req : Request) : State :=
  if (s.ports.get p).buffer.length < Config.bufferPlaces then
    (s.modPort p (fun port => { port with buffer := port.buffer ++ [{ tag := tag, req := req }] })).pump p
  else s.modPort p (fun port => { port with overrun := true })

/-- The bytes received after a WRITE type byte, checked as one frame (09 R165). -/
def State.writeFrame (s : State) (p : Port) (bytes : List Byte) : State :=
  s.submit p (frameTag bytes) (decodeFrame bytes)

/-! ## Reading (09 R168, R171) -/

/-- The delivery a READ chooses, counted as though it completes (09 R168). -/
def PortState.choose (port : PortState) : Delivery :=
  match port.slot, port.queue with
  | some r, queue =>
    { payload := .response r, waits := !port.buffer.isEmpty, queued := queue.length }
  | none, n :: rest => { payload := .notice n port.lost, waits := false, queued := rest.length }
  | none, [] => { payload := .empty, waits := false, queued := 0 }

/-- A delivery that carries a notice. -/
def Delivery.isNotice (d : Delivery) : Bool :=
  match d.payload with
  | .notice _ _ => true
  | .response _ => false
  | .empty => false

/-- A delivery that carries the notices-lost flag set (09 R171). -/
def Delivery.carriesLost (d : Delivery) : Bool :=
  match d.payload with
  | .notice _ lost => lost
  | .response _ => false
  | .empty => false

/-- An abandoned READ: the flag its delivery carried is set again (09 R168, R171). -/
def PortState.abandon (port : PortState) : PortState :=
  match port.reading with
  | none => port
  | some d => { port with reading := none, lost := port.lost || d.carriesLost }

/-- A READ takes its type byte: the choice, and the notices-lost flag cleared with a notice (09 R168,
R171). -/
def PortState.startRead (port : PortState) : PortState :=
  { port with reading := some port.choose, lost := if port.choose.isNotice then false else port.lost }

/-- READ; a READ in progress is abandoned first (log 10). -/
def State.beginRead (s : State) (p : Port) : State :=
  s.modPort p (fun port => port.abandon.startRead)

/-- The delivery in progress completes (09 R168); nothing where none is in progress (log 7). -/
def State.completeRead (s : State) (p : Port) : State :=
  match (s.ports.get p).reading with
  | none => s
  | some d =>
    match d.payload with
    | .response _ => (s.modPort p (fun port => { port with reading := none, slot := none })).pump p
    | .notice _ _ => s.modPort p (fun port => { port with reading := none, queue := port.queue.drop 1 })
    | .empty => s.modPort p (fun port => { port with reading := none })

/-- The READ in progress is abandoned (09 R168). -/
def State.abandonRead (s : State) (p : Port) : State := s.modPort p PortState.abandon

/-! ## Transactions (09 section 9.2, R165, R168; 11 R187) -/

/-- What a transaction does at its port, by its type byte: 3Ch is a WRITE of the bytes that follow, C3h a
READ, whose further bytes are ignored, and any other is ignored (11 R187, 09 R165). -/
def State.transaction (s : State) (p : Port) (kind : Byte) (bytes : List Byte) : State :=
  if kind = Config.writeType then s.writeFrame p bytes
  else if kind = Config.readType then s.beginRead p
  else s

/-- What the device shifts out while the master shifts `n` bytes after the type byte: fill in a WRITE, the
delivery chosen in a READ (11 R187). DESIGN CHOICE (log 38): no byte is given past a delivery's end, nor in
an ignored transaction. -/
def State.shiftedOut (s : State) (p : Port) (kind : Byte) (n : Nat) : List Byte :=
  if kind = Config.writeType then List.replicate n Config.fillByte
  else if kind = Config.readType then (((s.beginRead p).deliveryFrame p).getD []).take n
  else []

end Sys2Proof.Machine
end

