-- ==== Sys2Proof/Machine/Commands.lean ====
section
/-! DEFINITION. Machine/Commands.lean: the meaning of each command, one definition for each constructor of
`Instr`. A request command is the WRITE of its frame in decoded form: it is offered to the port's buffer
and executed when 09 R167 says (logs 8 and 9). -/

namespace Sys2Proof.Machine

/-- START_UP (10 R184). -/
def execStartUp (straps : Quad (BitVec 2)) (memoryLost : Bool) (s : State) :
    Host.Outcome State Fault Refusal :=
  .next (s.startUp straps memoryLost)

/-- WRITE: a transaction of type byte 3Ch (09 R165, 11 R187). -/
def execWrite (p : Port) (bytes : List Byte) (s : State) : Host.Outcome State Fault Refusal :=
  .next (s.transaction p Config.writeType bytes)

/-- IGNORED_TRANSACTION: what `State.transaction` does for any other type byte (09 R165). -/
def execIgnoredTransaction (_p : Port) (_kind : Byte) (s : State) : Host.Outcome State Fault Refusal :=
  .next s

/-- READ: a transaction of type byte C3h (09 R168, 11 R187). -/
def execRead (p : Port) (s : State) : Host.Outcome State Fault Refusal :=
  .next (s.transaction p Config.readType [])

/-- DELIVERY_COMPLETE (09 R168). -/
def execDeliveryComplete (p : Port) (s : State) : Host.Outcome State Fault Refusal :=
  .next (s.completeRead p)

/-- READ_ABANDONED (09 R168). -/
def execReadAbandoned (p : Port) (s : State) : Host.Outcome State Fault Refusal :=
  .next (s.abandonRead p)

/-- BAD_FRAME (09 R165). -/
def execBadFrame (p : Port) (tag : Byte) (s : State) : Host.Outcome State Fault Refusal :=
  .next (s.submit p tag .badFrame)

/-- UNKNOWN_REQUEST (09 R167). -/
def execUnknownRequest (p : Port) (tag code : Byte) (s : State) : Host.Outcome State Fault Refusal :=
  .next (s.submit p tag (.unknown code))

/-- NO_OP (09 R173). -/
def execNoOp (p : Port) (tag : Byte) (s : State) : Host.Outcome State Fault Refusal :=
  .next (s.submit p tag .noOp)

/-- READ_PORT_STATUS (09 R173). -/
def execReadPortStatus (p : Port) (tag : Byte) (s : State) : Host.Outcome State Fault Refusal :=
  .next (s.submit p tag .readPortStatus)

/-- SET_NOTICE_MASK (09 R172). -/
def execSetNoticeMask (p : Port) (tag : Byte) (mask : BitVec 32) (s : State) :
    Host.Outcome State Fault Refusal :=
  .next (s.submit p tag (.setNoticeMask mask))

/-- READ_CARDHOLDER (01 R26). -/
def execReadCardholder (p : Port) (tag : Byte) (card : BitVec 32) (s : State) :
    Host.Outcome State Fault Refusal :=
  .next (s.submit p tag (.readCardholder card))

/-- READ_ACCOUNT (01 R27). -/
def execReadAccount (p : Port) (tag : Byte) (folio : BitVec 32) (s : State) :
    Host.Outcome State Fault Refusal :=
  .next (s.submit p tag (.readAccount folio))

/-- READ_CABIN (01 R28). -/
def execReadCabin (p : Port) (tag : Byte) (cabin : BitVec 16) (s : State) :
    Host.Outcome State Fault Refusal :=
  .next (s.submit p tag (.readCabin cabin))

/-- READ_HOLD (04 R95). -/
def execReadHold (p : Port) (tag slot reuse : Byte) (s : State) : Host.Outcome State Fault Refusal :=
  .next (s.submit p tag (.readHold slot reuse))

/-- READ_ENTRY (04 R94). -/
def execReadEntry (p : Port) (tag : Byte) (seq : BitVec 32) (s : State) : Host.Outcome State Fault Refusal :=
  .next (s.submit p tag (.readEntry seq))

/-- READ_COUNTS (07 R148). -/
def execReadCounts (p : Port) (tag : Byte) (s : State) : Host.Outcome State Fault Refusal :=
  .next (s.submit p tag .readCounts)

/-- READ_CALL (07 R149). -/
def execReadCall (p : Port) (tag : Byte) (s : State) : Host.Outcome State Fault Refusal :=
  .next (s.submit p tag .readCall)

/-- READ_TIME (08 R157). -/
def execReadTime (p : Port) (tag : Byte) (s : State) : Host.Outcome State Fault Refusal :=
  .next (s.submit p tag .readTime)

/-- READ_LANE (06 R131). -/
def execReadLane (p : Port) (tag lane : Byte) (s : State) : Host.Outcome State Fault Refusal :=
  .next (s.submit p tag (.readLane lane))

/-- READ_SETTINGS (10 R179). -/
def execReadSettings (p : Port) (tag : Byte) (s : State) : Host.Outcome State Fault Refusal :=
  .next (s.submit p tag .readSettings)

/-- WINDOW_OPEN (09 R174). -/
def execWindowOpen (p : Port) (tag collection mode : Byte) (key start : BitVec 32) (s : State) :
    Host.Outcome State Fault Refusal :=
  .next (s.submit p tag (.windowOpen collection mode key start))

/-- WINDOW_OPEN_REVIEW (05 R110). -/
def execWindowOpenReview (p : Port) (tag collection : Byte) (key start : BitVec 32) (s : State) :
    Host.Outcome State Fault Refusal :=
  .next (s.submit p tag (.windowOpen collection 1#8 key start))

/-- WINDOW_READ (09 R175). -/
def execWindowRead (p : Port) (tag : Byte) (s : State) : Host.Outcome State Fault Refusal :=
  .next (s.submit p tag .windowRead)

/-- WINDOW_ACT_KEEP (05 R112). -/
def execWindowActKeep (p : Port) (tag : Byte) (s : State) : Host.Outcome State Fault Refusal :=
  .next (s.submit p tag (.windowAct 0#8))

/-- WINDOW_ACT_VOID (05 R113). -/
def execWindowActVoid (p : Port) (tag : Byte) (s : State) : Host.Outcome State Fault Refusal :=
  .next (s.submit p tag (.windowAct 1#8))

/-- PRICE (03 R66). -/
def execPrice (p : Port) (tag cls : Byte) (unit : BitVec 32) (qty k : Byte) (card : BitVec 32)
    (package : Byte) (s : State) :
    Host.Outcome State Fault Refusal :=
  .next (s.submit p tag (.price cls unit qty k card package))

/-- CHARGE (04 R75). -/
def execCharge (p : Port) (tag : Byte) (outlet : BitVec 16) (cls : Byte) (unit : BitVec 32) (qty : Byte)
    (cards : List Presentation) (s : State) :
    Host.Outcome State Fault Refusal :=
  .next (s.submit p tag (.charge outlet cls unit qty cards))

/-- HOLD_OPEN (04 R82). -/
def execHoldOpen (p : Port) (tag : Byte) (card : BitVec 32) (gen : Byte) (outlet : BitVec 16) (cls : Byte)
    (gross lifetime : BitVec 32) (s : State) :
    Host.Outcome State Fault Refusal :=
  .next (s.submit p tag (.holdOpen card gen outlet cls gross lifetime))

/-- HOLD_COMPLETE (04 R84). -/
def execHoldComplete (p : Port) (tag slot reuse : Byte) (gross : BitVec 32) (s : State) :
    Host.Outcome State Fault Refusal :=
  .next (s.submit p tag (.holdComplete slot reuse gross))

/-- HOLD_RELEASE (04 R86). -/
def execHoldRelease (p : Port) (tag slot reuse : Byte) (s : State) : Host.Outcome State Fault Refusal :=
  .next (s.submit p tag (.holdRelease slot reuse))

/-- VOID (04 R89). -/
def execVoid (p : Port) (tag : Byte) (seq : BitVec 32) (outlet : BitVec 16) (s : State) :
    Host.Outcome State Fault Refusal :=
  .next (s.submit p tag (.void seq outlet))

/-- ACCESS_QUERY (02 R32). -/
def execAccessQuery (p : Port) (tag : Byte) (card : BitVec 32) (gen : Byte) (cabin : BitVec 16) (s : State) :
    Host.Outcome State Fault Refusal :=
  .next (s.submit p tag (.accessQuery card gen cabin))

/-- LOCK_REPORT (02 R40). -/
def execLockReport (p : Port) (tag : Byte) (cabin token : BitVec 16) (outcome : Byte) (s : State) :
    Host.Outcome State Fault Refusal :=
  .next (s.submit p tag (.lockReport cabin token outcome))

/-- PRIVACY_SET (02 R46). -/
def execPrivacySet (p : Port) (tag : Byte) (cabin : BitVec 16) (s : State) :
    Host.Outcome State Fault Refusal :=
  .next (s.submit p tag (.privacySet cabin))

/-- PRIVACY_CLEAR (02 R47). -/
def execPrivacyClear (p : Port) (tag : Byte) (cabin : BitVec 16) (s : State) :
    Host.Outcome State Fault Refusal :=
  .next (s.submit p tag (.privacyClear cabin))

/-- ENROL_CARDHOLDER (01 R5). -/
def execEnrolCardholder (p : Port) (tag : Byte) (card : BitVec 32) (kind : Byte) (folio : BitVec 32)
    (classMask : Byte) (deckMask : BitVec 32) (s : State) :
    Host.Outcome State Fault Refusal :=
  .next (s.submit p tag (.enrol card kind folio classMask deckMask))

/-- REISSUE_CARD (01 R7). -/
def execReissueCard (p : Port) (tag : Byte) (card : BitVec 32) (s : State) :
    Host.Outcome State Fault Refusal :=
  .next (s.submit p tag (.reissue card))

/-- SUSPEND (01 R8). -/
def execSuspend (p : Port) (tag : Byte) (card : BitVec 32) (s : State) : Host.Outcome State Fault Refusal :=
  .next (s.submit p tag (.suspend card))

/-- RESUME (01 R8). -/
def execResume (p : Port) (tag : Byte) (card : BitVec 32) (s : State) : Host.Outcome State Fault Refusal :=
  .next (s.submit p tag (.resume card))

/-- PURGE_CARDHOLDER (01 R10). -/
def execPurgeCardholder (p : Port) (tag : Byte) (card : BitVec 32) (s : State) :
    Host.Outcome State Fault Refusal :=
  .next (s.submit p tag (.purge card))

/-- SET_CLASS_MASK (01 R9). -/
def execSetClassMask (p : Port) (tag : Byte) (card : BitVec 32) (mask : Byte) (s : State) :
    Host.Outcome State Fault Refusal :=
  .next (s.submit p tag (.setClassMask card mask))

/-- SET_DECK_MASK (01 R9). -/
def execSetDeckMask (p : Port) (tag : Byte) (card : BitVec 32) (mask : BitVec 32) (s : State) :
    Host.Outcome State Fault Refusal :=
  .next (s.submit p tag (.setDeckMask card mask))

/-- CAP_UP (03 R63). -/
def execCapUp (p : Port) (tag : Byte) (card : BitVec 32) (s : State) : Host.Outcome State Fault Refusal :=
  .next (s.submit p tag (.capUp card))

/-- CAP_DOWN (03 R63). -/
def execCapDown (p : Port) (tag : Byte) (card : BitVec 32) (s : State) : Host.Outcome State Fault Refusal :=
  .next (s.submit p tag (.capDown card))

/-- SET_CAP_OFFSET (03 R64). -/
def execSetCapOffset (p : Port) (tag : Byte) (card : BitVec 32) (offset : Byte) (s : State) :
    Host.Outcome State Fault Refusal :=
  .next (s.submit p tag (.setCapOffset card offset))

/-- OPEN_ACCOUNT (01 R14). -/
def execOpenAccount (p : Port) (tag : Byte) (folio limit deposit : BitVec 32) (s : State) :
    Host.Outcome State Fault Refusal :=
  .next (s.submit p tag (.openAccount folio limit deposit))

/-- SET_LIMIT (01 R15). -/
def execSetLimit (p : Port) (tag : Byte) (folio amount : BitVec 32) (s : State) :
    Host.Outcome State Fault Refusal :=
  .next (s.submit p tag (.setLimit folio amount))

/-- SET_DEPOSIT (01 R15). -/
def execSetDeposit (p : Port) (tag : Byte) (folio amount : BitVec 32) (s : State) :
    Host.Outcome State Fault Refusal :=
  .next (s.submit p tag (.setDeposit folio amount))

/-- SET_PACKAGE (01 R16). -/
def execSetPackage (p : Port) (tag : Byte) (folio : BitVec 32) (package : Byte) (s : State) :
    Host.Outcome State Fault Refusal :=
  .next (s.submit p tag (.setPackage folio package))

/-- SET_MINOR_RELEASE (01 R16). -/
def execSetMinorRelease (p : Port) (tag : Byte) (folio : BitVec 32) (flag : Byte) (s : State) :
    Host.Outcome State Fault Refusal :=
  .next (s.submit p tag (.setMinorRelease folio flag))

/-- ADJUST (04 R92). -/
def execAdjust (p : Port) (tag : Byte) (folio : BitVec 32) (kind : Byte) (amount : BitVec 32) (s : State) :
    Host.Outcome State Fault Refusal :=
  .next (s.submit p tag (.adjust folio kind amount))

/-- SETTLE_BEGIN (05 R97). -/
def execSettleBegin (p : Port) (tag : Byte) (folio : BitVec 32) (s : State) :
    Host.Outcome State Fault Refusal :=
  .next (s.submit p tag (.settleBegin folio))

/-- SETTLE_STEP (05 R100). -/
def execSettleStep (p : Port) (tag : Byte) (folio : BitVec 32) (s : State) :
    Host.Outcome State Fault Refusal :=
  .next (s.submit p tag (.settleStep folio))

/-- REOPEN (05 R103). -/
def execReopen (p : Port) (tag : Byte) (folio : BitVec 32) (s : State) : Host.Outcome State Fault Refusal :=
  .next (s.submit p tag (.reopen folio))

/-- CLOSE (05 R105). -/
def execClose (p : Port) (tag : Byte) (folio : BitVec 32) (s : State) : Host.Outcome State Fault Refusal :=
  .next (s.submit p tag (.close folio))

/-- TAKE_CLOSURE (05 R109). -/
def execTakeClosure (p : Port) (tag : Byte) (s : State) : Host.Outcome State Fault Refusal :=
  .next (s.submit p tag .takeClosure)

/-- DEFINE_CABIN (01 R18). -/
def execDefineCabin (p : Port) (tag : Byte) (cabin : BitVec 16) (deck : Byte) (s : State) :
    Host.Outcome State Fault Refusal :=
  .next (s.submit p tag (.defineCabin cabin deck))

/-- UNDEFINE_CABIN (01 R19). -/
def execUndefineCabin (p : Port) (tag : Byte) (cabin : BitVec 16) (s : State) :
    Host.Outcome State Fault Refusal :=
  .next (s.submit p tag (.undefineCabin cabin))

/-- GRANT_CABIN (01 R22). -/
def execGrantCabin (p : Port) (tag : Byte) (card : BitVec 32) (cabin : BitVec 16) (s : State) :
    Host.Outcome State Fault Refusal :=
  .next (s.submit p tag (.grantCabin card cabin))

/-- REVOKE_CABIN (01 R23). -/
def execRevokeCabin (p : Port) (tag : Byte) (card : BitVec 32) (cabin : BitVec 16) (s : State) :
    Host.Outcome State Fault Refusal :=
  .next (s.submit p tag (.revokeCabin card cabin))

/-- REKEY_CABIN (01 R24). -/
def execRekeyCabin (p : Port) (tag : Byte) (cabin : BitVec 16) (s : State) :
    Host.Outcome State Fault Refusal :=
  .next (s.submit p tag (.rekeyCabin cabin))

/-- BLOCK_CABIN (01 R20). -/
def execBlockCabin (p : Port) (tag : Byte) (cabin : BitVec 16) (s : State) :
    Host.Outcome State Fault Refusal :=
  .next (s.submit p tag (.blockCabin cabin))

/-- UNBLOCK_CABIN (01 R20). -/
def execUnblockCabin (p : Port) (tag : Byte) (cabin : BitVec 16) (s : State) :
    Host.Outcome State Fault Refusal :=
  .next (s.submit p tag (.unblockCabin cabin))

/-- SET_PRESENCE (07 R141). -/
def execSetPresence (p : Port) (tag : Byte) (card : BitVec 32) (presence : Byte) (s : State) :
    Host.Outcome State Fault Refusal :=
  .next (s.submit p tag (.setPresence card presence))

/-- OPEN_CALL (07 R142). -/
def execOpenCall (p : Port) (tag kind : Byte) (allAboard : BitVec 32) (closeMode : Byte)
    (closeTime : BitVec 32) (s : State) :
    Host.Outcome State Fault Refusal :=
  .next (s.submit p tag (.openCall kind allAboard closeMode closeTime))

/-- CLOSE_CALL (07 R146). -/
def execCloseCall (p : Port) (tag force : Byte) (s : State) : Host.Outcome State Fault Refusal :=
  .next (s.submit p tag (.closeCall force))

/-- LANE_MODE (06 R126). -/
def execLaneMode (p : Port) (tag lane mode direction clearFaults : Byte) (s : State) :
    Host.Outcome State Fault Refusal :=
  .next (s.submit p tag (.laneMode lane mode direction clearFaults))

/-- INJECT_READ (06 R129). -/
def execInjectRead (p : Port) (tag lane : Byte) (card : BitVec 32) (gen direction seq : Byte) (s : State) :
    Host.Outcome State Fault Refusal :=
  .next (s.submit p tag (.injectRead lane card gen direction seq))

/-- SET_TIME (08 R158). -/
def execSetTime (p : Port) (tag : Byte) (time : BitVec 32) (s : State) : Host.Outcome State Fault Refusal :=
  .next (s.submit p tag (.setTime time))

/-- SET_TARIFF_PART_1 (10 R179). -/
def execSetTariffPart1 (p : Port) (tag : Byte) (part : TariffPart1) (s : State) :
    Host.Outcome State Fault Refusal :=
  .next (s.submit p tag (.setTariff1 part))

/-- SET_TARIFF_PART_2 (11 R192). -/
def execSetTariffPart2 (p : Port) (tag : Byte) (rows : List (BitVec 16)) (s : State) :
    Host.Outcome State Fault Refusal :=
  .next (s.submit p tag (.setTariff2 rows))

/-- SET_OPTIONS (10 R178). -/
def execSetOptions (p : Port) (tag : Byte) (fields : OptionFields) (s : State) :
    Host.Outcome State Fault Refusal :=
  .next (s.submit p tag (.setOptions fields))

/-- LOAD_SETTINGS (10 R181). -/
def execLoadSettings (p : Port) (tag : Byte) (s : State) : Host.Outcome State Fault Refusal :=
  .next (s.submit p tag .loadSettings)

/-- SAVE_SETTINGS (10 R182). -/
def execSaveSettings (p : Port) (tag : Byte) (s : State) : Host.Outcome State Fault Refusal :=
  .next (s.submit p tag .saveSettings)

/-- SAVE_COMPLETION (10 R183). -/
def execSaveCompletion (s : State) : Host.Outcome State Fault Refusal :=
  .next (s.completeSave)

/-- SAVE_FAILURE (10 R183). -/
def execSaveFailure (s : State) : Host.Outcome State Fault Refusal :=
  .next (s.failSave)

/-- VOYAGE_CLEAR (10 R185). -/
def execVoyageClear (p : Port) (tag : Byte) (s : State) : Host.Outcome State Fault Refusal :=
  .next (s.submit p tag .voyageClear)

/-- READ_MESSAGE (06 R118). -/
def execReadMessage (l : Lane) (kind : Byte) (card : BitVec 32) (gen direction seq : Byte)
    (crc : BitVec 16) (s : State) :
    Host.Outcome State Fault Refusal :=
  .next (s.readMessage l kind card gen direction seq crc)

/-- FRAMING_FAULT (06 R117). -/
def execFramingFault (l : Lane) (s : State) : Host.Outcome State Fault Refusal :=
  .next (s.framingFault l)

/-- GAP_FAULT (06 R117). -/
def execGapFault (l : Lane) (s : State) : Host.Outcome State Fault Refusal :=
  .next (s.gapFault l)

/-- END_OF_TRANSMISSION (06 R120). -/
def execEndOfTransmission (l : Lane) (s : State) : Host.Outcome State Fault Refusal :=
  .next (s.endOfTransmission l)

/-- REPEAT_RECORD_EXPIRY (06 R124). -/
def execRepeatRecordExpiry (l : Lane) (s : State) : Host.Outcome State Fault Refusal :=
  .next (s.repeatExpiry l)

/-- TICK (08 R153). -/
def execTick (s : State) : Host.Outcome State Fault Refusal :=
  .next (s.takeTick)

/-- TICK_LOSS (08 R154). -/
def execTickLoss (s : State) : Host.Outcome State Fault Refusal :=
  .next (s.loseTick)

/-- FREEWHEEL_SECOND (08 R155). -/
def execFreewheelSecond (s : State) : Host.Outcome State Fault Refusal :=
  .next (s.takeSecond)

/-- HOLD_EXPIRY (04 R87). -/
def execHoldExpiry (slot : Byte) (s : State) : Host.Outcome State Fault Refusal :=
  .next (s.expireHold slot.toNat)

/-- UNLOCK_DEADLINE (02 R43). -/
def execUnlockDeadline (cabinSlot : BitVec 16) (s : State) : Host.Outcome State Fault Refusal :=
  .next (s.expireUnlock cabinSlot.toNat)

/-- ALL_ABOARD_DEADLINE (07 R143). -/
def execAllAboardDeadline (s : State) : Host.Outcome State Fault Refusal :=
  .next (s.takeAllAboard)

/-- CLOSE_DEADLINE (07 R145). -/
def execCloseDeadline (s : State) : Host.Outcome State Fault Refusal :=
  .next (s.takeClose)

/-- LANE_BYTE_RECEIVED (06 R117). -/
def execLaneByteReceived (l : Lane) (b : Byte) (s : State) : Host.Outcome State Fault Refusal :=
  .next (s.laneByte l b)

end Sys2Proof.Machine
end

