-- ==== Sys2Proof/Machine/Dispatch.lean ====
section
/-! DEFINITION. Machine/Dispatch.lean: one arm for each command. -/

namespace Sys2Proof.Machine

def exec (i : Instr) (s : State) : Host.Outcome State Fault Refusal :=
  match i with
  | .startUp straps memoryLost => Sys2Proof.Machine.execStartUp straps memoryLost s
  | .write p bytes => Sys2Proof.Machine.execWrite p bytes s
  | .ignoredTransaction p kind => Sys2Proof.Machine.execIgnoredTransaction p kind s
  | .read p => Sys2Proof.Machine.execRead p s
  | .deliveryComplete p => Sys2Proof.Machine.execDeliveryComplete p s
  | .readAbandoned p => Sys2Proof.Machine.execReadAbandoned p s
  | .badFrame p tag => Sys2Proof.Machine.execBadFrame p tag s
  | .unknownRequest p tag code => Sys2Proof.Machine.execUnknownRequest p tag code s
  | .noOp p tag => Sys2Proof.Machine.execNoOp p tag s
  | .readPortStatus p tag => Sys2Proof.Machine.execReadPortStatus p tag s
  | .setNoticeMask p tag mask => Sys2Proof.Machine.execSetNoticeMask p tag mask s
  | .readCardholder p tag card => Sys2Proof.Machine.execReadCardholder p tag card s
  | .readAccount p tag folio => Sys2Proof.Machine.execReadAccount p tag folio s
  | .readCabin p tag cabin => Sys2Proof.Machine.execReadCabin p tag cabin s
  | .readHold p tag slot reuse => Sys2Proof.Machine.execReadHold p tag slot reuse s
  | .readEntry p tag seq => Sys2Proof.Machine.execReadEntry p tag seq s
  | .readCounts p tag => Sys2Proof.Machine.execReadCounts p tag s
  | .readCall p tag => Sys2Proof.Machine.execReadCall p tag s
  | .readTime p tag => Sys2Proof.Machine.execReadTime p tag s
  | .readLane p tag lane => Sys2Proof.Machine.execReadLane p tag lane s
  | .readSettings p tag => Sys2Proof.Machine.execReadSettings p tag s
  | .windowOpen p tag collection mode key start => Sys2Proof.Machine.execWindowOpen p tag collection mode key start s
  | .windowOpenReview p tag collection key start => Sys2Proof.Machine.execWindowOpenReview p tag collection key start s
  | .windowRead p tag => Sys2Proof.Machine.execWindowRead p tag s
  | .windowActKeep p tag => Sys2Proof.Machine.execWindowActKeep p tag s
  | .windowActVoid p tag => Sys2Proof.Machine.execWindowActVoid p tag s
  | .price p tag cls unit qty k card package => Sys2Proof.Machine.execPrice p tag cls unit qty k card package s
  | .charge p tag outlet cls unit qty cards => Sys2Proof.Machine.execCharge p tag outlet cls unit qty cards s
  | .holdOpen p tag card gen outlet cls gross lifetime => Sys2Proof.Machine.execHoldOpen p tag card gen outlet cls gross lifetime s
  | .holdComplete p tag slot reuse gross => Sys2Proof.Machine.execHoldComplete p tag slot reuse gross s
  | .holdRelease p tag slot reuse => Sys2Proof.Machine.execHoldRelease p tag slot reuse s
  | .void p tag seq outlet => Sys2Proof.Machine.execVoid p tag seq outlet s
  | .accessQuery p tag card gen cabin => Sys2Proof.Machine.execAccessQuery p tag card gen cabin s
  | .lockReport p tag cabin token outcome => Sys2Proof.Machine.execLockReport p tag cabin token outcome s
  | .privacySet p tag cabin => Sys2Proof.Machine.execPrivacySet p tag cabin s
  | .privacyClear p tag cabin => Sys2Proof.Machine.execPrivacyClear p tag cabin s
  | .enrolCardholder p tag card kind folio classMask deckMask => Sys2Proof.Machine.execEnrolCardholder p tag card kind folio classMask deckMask s
  | .reissueCard p tag card => Sys2Proof.Machine.execReissueCard p tag card s
  | .suspend p tag card => Sys2Proof.Machine.execSuspend p tag card s
  | .resume p tag card => Sys2Proof.Machine.execResume p tag card s
  | .purgeCardholder p tag card => Sys2Proof.Machine.execPurgeCardholder p tag card s
  | .setClassMask p tag card mask => Sys2Proof.Machine.execSetClassMask p tag card mask s
  | .setDeckMask p tag card mask => Sys2Proof.Machine.execSetDeckMask p tag card mask s
  | .capUp p tag card => Sys2Proof.Machine.execCapUp p tag card s
  | .capDown p tag card => Sys2Proof.Machine.execCapDown p tag card s
  | .setCapOffset p tag card offset => Sys2Proof.Machine.execSetCapOffset p tag card offset s
  | .openAccount p tag folio limit deposit => Sys2Proof.Machine.execOpenAccount p tag folio limit deposit s
  | .setLimit p tag folio amount => Sys2Proof.Machine.execSetLimit p tag folio amount s
  | .setDeposit p tag folio amount => Sys2Proof.Machine.execSetDeposit p tag folio amount s
  | .setPackage p tag folio package => Sys2Proof.Machine.execSetPackage p tag folio package s
  | .setMinorRelease p tag folio flag => Sys2Proof.Machine.execSetMinorRelease p tag folio flag s
  | .adjust p tag folio kind amount => Sys2Proof.Machine.execAdjust p tag folio kind amount s
  | .settleBegin p tag folio => Sys2Proof.Machine.execSettleBegin p tag folio s
  | .settleStep p tag folio => Sys2Proof.Machine.execSettleStep p tag folio s
  | .reopen p tag folio => Sys2Proof.Machine.execReopen p tag folio s
  | .close p tag folio => Sys2Proof.Machine.execClose p tag folio s
  | .takeClosure p tag => Sys2Proof.Machine.execTakeClosure p tag s
  | .defineCabin p tag cabin deck => Sys2Proof.Machine.execDefineCabin p tag cabin deck s
  | .undefineCabin p tag cabin => Sys2Proof.Machine.execUndefineCabin p tag cabin s
  | .grantCabin p tag card cabin => Sys2Proof.Machine.execGrantCabin p tag card cabin s
  | .revokeCabin p tag card cabin => Sys2Proof.Machine.execRevokeCabin p tag card cabin s
  | .rekeyCabin p tag cabin => Sys2Proof.Machine.execRekeyCabin p tag cabin s
  | .blockCabin p tag cabin => Sys2Proof.Machine.execBlockCabin p tag cabin s
  | .unblockCabin p tag cabin => Sys2Proof.Machine.execUnblockCabin p tag cabin s
  | .setPresence p tag card presence => Sys2Proof.Machine.execSetPresence p tag card presence s
  | .openCall p tag kind allAboard closeMode closeTime => Sys2Proof.Machine.execOpenCall p tag kind allAboard closeMode closeTime s
  | .closeCall p tag force => Sys2Proof.Machine.execCloseCall p tag force s
  | .laneMode p tag lane mode direction clearFaults => Sys2Proof.Machine.execLaneMode p tag lane mode direction clearFaults s
  | .injectRead p tag lane card gen direction seq => Sys2Proof.Machine.execInjectRead p tag lane card gen direction seq s
  | .setTime p tag time => Sys2Proof.Machine.execSetTime p tag time s
  | .setTariffPart1 p tag part => Sys2Proof.Machine.execSetTariffPart1 p tag part s
  | .setTariffPart2 p tag rows => Sys2Proof.Machine.execSetTariffPart2 p tag rows s
  | .setOptions p tag fields => Sys2Proof.Machine.execSetOptions p tag fields s
  | .loadSettings p tag => Sys2Proof.Machine.execLoadSettings p tag s
  | .saveSettings p tag => Sys2Proof.Machine.execSaveSettings p tag s
  | .saveCompletion => Sys2Proof.Machine.execSaveCompletion s
  | .saveFailure => Sys2Proof.Machine.execSaveFailure s
  | .voyageClear p tag => Sys2Proof.Machine.execVoyageClear p tag s
  | .readMessage l kind card gen direction seq crc => Sys2Proof.Machine.execReadMessage l kind card gen direction seq crc s
  | .framingFault l => Sys2Proof.Machine.execFramingFault l s
  | .gapFault l => Sys2Proof.Machine.execGapFault l s
  | .endOfTransmission l => Sys2Proof.Machine.execEndOfTransmission l s
  | .repeatRecordExpiry l => Sys2Proof.Machine.execRepeatRecordExpiry l s
  | .tick => Sys2Proof.Machine.execTick s
  | .tickLoss => Sys2Proof.Machine.execTickLoss s
  | .freewheelSecond => Sys2Proof.Machine.execFreewheelSecond s
  | .holdExpiry slot => Sys2Proof.Machine.execHoldExpiry slot s
  | .unlockDeadline cabinSlot => Sys2Proof.Machine.execUnlockDeadline cabinSlot s
  | .allAboardDeadline => Sys2Proof.Machine.execAllAboardDeadline s
  | .closeDeadline => Sys2Proof.Machine.execCloseDeadline s
  | .laneByteReceived l b => Sys2Proof.Machine.execLaneByteReceived l b s

end Sys2Proof.Machine
end

