-- ==== Sys2Proof/Safety.lean ====
section
/-! DEFINITION. Safety.lean: the vocabulary of the statements: a port ready to execute, an answered
request, and the invariants that the spec gives the records, each as a check. -/

namespace Sys2Proof.Machine

/-! ## A request's execution -/

/-- Port `p` executes the next entry in the step that brings it: its slot is empty and nothing waits
(09 R167). -/
abbrev State.ready (s : State) (p : Port) : Prop :=
  (s.ports.get p).slot = none ∧ (s.ports.get p).buffer = []

/-- Port `p` is ready and strapped to a profile. -/
abbrev State.readyAs (s : State) (p : Port) (profile : Profile) : Prop :=
  s.ready p ∧ (s.ports.get p).profile = profile

/-- A request that is not WINDOW OPEN, READ or ACT has been answered: the port's window is closed, and the
response fills the slot (09 R167, R177). -/
def State.answered (s : State) (p : Port) (code tag : Byte) (r : Reply) : State :=
  (s.closeWindow p).respond p code tag r

/-- The response of a denied ACCESS QUERY to a cardholder found: verdict, no grant fields, its kind and state as
found (02 R32). -/
def denial (v : AccessVerdict) (c : Cardholder) : Reply :=
  Reply.ok (u8 v.code ++ [0x00#8] ++ (0x01#8 :: (u8 c.kind.code ++ u8 c.state.code)))

/-! ## The request of a command -/

/-- The request a command writes, with its port and tag; none for an event (09 R165, log 9). -/
def requestOf : Instr → Option (Port × Byte × Request)
  | .badFrame p tag => some (p, tag, .badFrame)
  | .unknownRequest p tag code => some (p, tag, .unknown code)
  | .noOp p tag => some (p, tag, .noOp)
  | .readPortStatus p tag => some (p, tag, .readPortStatus)
  | .setNoticeMask p tag mask => some (p, tag, .setNoticeMask mask)
  | .readCardholder p tag card => some (p, tag, .readCardholder card)
  | .readAccount p tag folio => some (p, tag, .readAccount folio)
  | .readCabin p tag cabin => some (p, tag, .readCabin cabin)
  | .readHold p tag slot reuse => some (p, tag, .readHold slot reuse)
  | .readEntry p tag seq => some (p, tag, .readEntry seq)
  | .readCounts p tag => some (p, tag, .readCounts)
  | .readCall p tag => some (p, tag, .readCall)
  | .readTime p tag => some (p, tag, .readTime)
  | .readLane p tag lane => some (p, tag, .readLane lane)
  | .readSettings p tag => some (p, tag, .readSettings)
  | .windowOpen p tag collection mode key start => some (p, tag, .windowOpen collection mode key start)
  | .windowOpenReview p tag collection key start => some (p, tag, .windowOpen collection 1#8 key start)
  | .windowRead p tag => some (p, tag, .windowRead)
  | .windowActKeep p tag => some (p, tag, .windowAct 0#8)
  | .windowActVoid p tag => some (p, tag, .windowAct 1#8)
  | .price p tag cls unit qty k card package => some (p, tag, .price cls unit qty k card package)
  | .charge p tag outlet cls unit qty cards => some (p, tag, .charge outlet cls unit qty cards)
  | .holdOpen p tag card gen outlet cls gross lifetime => some (p, tag, .holdOpen card gen outlet cls gross lifetime)
  | .holdComplete p tag slot reuse gross => some (p, tag, .holdComplete slot reuse gross)
  | .holdRelease p tag slot reuse => some (p, tag, .holdRelease slot reuse)
  | .void p tag seq outlet => some (p, tag, .void seq outlet)
  | .accessQuery p tag card gen cabin => some (p, tag, .accessQuery card gen cabin)
  | .lockReport p tag cabin token outcome => some (p, tag, .lockReport cabin token outcome)
  | .privacySet p tag cabin => some (p, tag, .privacySet cabin)
  | .privacyClear p tag cabin => some (p, tag, .privacyClear cabin)
  | .enrolCardholder p tag card kind folio classMask deckMask => some (p, tag, .enrol card kind folio classMask deckMask)
  | .reissueCard p tag card => some (p, tag, .reissue card)
  | .suspend p tag card => some (p, tag, .suspend card)
  | .resume p tag card => some (p, tag, .resume card)
  | .purgeCardholder p tag card => some (p, tag, .purge card)
  | .setClassMask p tag card mask => some (p, tag, .setClassMask card mask)
  | .setDeckMask p tag card mask => some (p, tag, .setDeckMask card mask)
  | .capUp p tag card => some (p, tag, .capUp card)
  | .capDown p tag card => some (p, tag, .capDown card)
  | .setCapOffset p tag card offset => some (p, tag, .setCapOffset card offset)
  | .openAccount p tag folio limit deposit => some (p, tag, .openAccount folio limit deposit)
  | .setLimit p tag folio amount => some (p, tag, .setLimit folio amount)
  | .setDeposit p tag folio amount => some (p, tag, .setDeposit folio amount)
  | .setPackage p tag folio package => some (p, tag, .setPackage folio package)
  | .setMinorRelease p tag folio flag => some (p, tag, .setMinorRelease folio flag)
  | .adjust p tag folio kind amount => some (p, tag, .adjust folio kind amount)
  | .settleBegin p tag folio => some (p, tag, .settleBegin folio)
  | .settleStep p tag folio => some (p, tag, .settleStep folio)
  | .reopen p tag folio => some (p, tag, .reopen folio)
  | .close p tag folio => some (p, tag, .close folio)
  | .takeClosure p tag => some (p, tag, .takeClosure)
  | .defineCabin p tag cabin deck => some (p, tag, .defineCabin cabin deck)
  | .undefineCabin p tag cabin => some (p, tag, .undefineCabin cabin)
  | .grantCabin p tag card cabin => some (p, tag, .grantCabin card cabin)
  | .revokeCabin p tag card cabin => some (p, tag, .revokeCabin card cabin)
  | .rekeyCabin p tag cabin => some (p, tag, .rekeyCabin cabin)
  | .blockCabin p tag cabin => some (p, tag, .blockCabin cabin)
  | .unblockCabin p tag cabin => some (p, tag, .unblockCabin cabin)
  | .setPresence p tag card presence => some (p, tag, .setPresence card presence)
  | .openCall p tag kind allAboard closeMode closeTime => some (p, tag, .openCall kind allAboard closeMode closeTime)
  | .closeCall p tag force => some (p, tag, .closeCall force)
  | .laneMode p tag lane mode direction clearFaults => some (p, tag, .laneMode lane mode direction clearFaults)
  | .injectRead p tag lane card gen direction seq => some (p, tag, .injectRead lane card gen direction seq)
  | .setTime p tag time => some (p, tag, .setTime time)
  | .setTariffPart1 p tag part => some (p, tag, .setTariff1 part)
  | .setTariffPart2 p tag rows => some (p, tag, .setTariff2 rows)
  | .setOptions p tag fields => some (p, tag, .setOptions fields)
  | .loadSettings p tag => some (p, tag, .loadSettings)
  | .saveSettings p tag => some (p, tag, .saveSettings)
  | .voyageClear p tag => some (p, tag, .voyageClear)
  | .startUp _ _ => none
  | .write _ _ => none
  | .ignoredTransaction _ _ => none
  | .read _ => none
  | .deliveryComplete _ => none
  | .readAbandoned _ => none
  | .saveCompletion => none
  | .saveFailure => none
  | .readMessage _ _ _ _ _ _ _ => none
  | .framingFault _ => none
  | .gapFault _ => none
  | .endOfTransmission _ => none
  | .repeatRecordExpiry _ => none
  | .tick => none
  | .tickLoss => none
  | .freewheelSecond => none
  | .holdExpiry _ => none
  | .unlockDeadline _ => none
  | .allAboardDeadline => none
  | .closeDeadline => none
  | .laneByteReceived _ _ => none

/-! ## One record rewritten -/

/-- The state with a cardholder slot holding `c`. -/
abbrev State.withCard (s : State) (slot : Nat) (c : Cardholder) : State :=
  { s with roster := s.roster.store slot c }

/-- The state with an account slot holding `a`. -/
abbrev State.withAccount (s : State) (slot : Nat) (a : Account) : State :=
  { s with accounts := s.accounts.store slot a }

/-- The state with a cabin slot holding `k`. -/
abbrev State.withCabin (s : State) (slot : Nat) (k : Cabin) : State :=
  { s with cabins := s.cabins.store slot k }

/-! ## Invariants of the ports and lanes -/

/-- The delivery in progress is the response in the slot, or the oldest notice (09 R168). -/
def PortState.deliveryHeld (q : PortState) : Bool :=
  match q.reading with
  | none => true
  | some d =>
    match d.payload with
    | .response r => q.slot == some r
    | .notice n _ => q.queue.head? == some n
    | .empty => true

/-- The bounds of a port, and no entry left waiting at an empty slot (09 R164, R167). -/
def PortState.bounded (q : PortState) : Bool :=
  decide (q.buffer.length ≤ Config.bufferPlaces) && decide (q.queue.length ≤ Config.queuePlaces) &&
    (q.slot.isSome || q.buffer.isEmpty) && q.deliveryHeld

/-- Every port is within its bounds. -/
def State.portsBounded (s : State) : Bool :=
  s.ports.a0.bounded && s.ports.a1.bounded && s.ports.a2.bounded && s.ports.a3.bounded

/-- A receiver holds 1 to 10 bytes of a message that began with the start byte (06 R116, R117). -/
def Receiver.ok : Receiver → Bool
  | .idle => true
  | .assembling bytes _ => bytes.head? == some Config.laneStart && decide (bytes.length ≤ 10)

/-- The bounds of a lane: a read is held only behind two verdicts (06 R121), and a lane in LOOP receives and
holds nothing (R128). -/
def LaneState.bounded (l : LaneState) : Bool :=
  decide (l.verdicts.length ≤ Config.verdictPlaces) && decide (l.faults ≤ 255) && l.receiver.ok &&
    (l.holding.isNone || l.verdicts.length == Config.verdictPlaces) &&
    (l.mode != .loop || (l.receiver == .idle && l.holding.isNone))

/-- Every lane is within its bounds. -/
def State.lanesBounded (s : State) : Bool :=
  s.lanes.a0.bounded && s.lanes.a1.bounded && s.lanes.a2.bounded && s.lanes.a3.bounded

/-! ## Invariants of the records -/

/-- Every table is in its canonical form. -/
def State.tablesWf (s : State) : Bool :=
  s.roster.wf Config.cardholderSlots && s.accounts.wf Config.accountSlots && s.cabins.wf Config.cabinSlots &&
    s.holds.wf Config.holdSlots

/-- A cardholder's small fields lie in their ranges, and the account and presence are those of its kind (01 R2,
R7, R11, 03 R61). -/
def Cardholder.inRange (c : Cardholder) : Bool :=
  decide (c.gen ≤ 255) && decide (-32 ≤ c.capOffset) && decide (c.capOffset ≤ 31) && decide (c.conflicts ≤ 15) &&
    c.presence.isSome == (c.kind != .staff) && c.account.isSome == (c.kind != .staff)

/-- Every cardholder's fields are so. -/
def State.cardsInRange (s : State) : Bool := s.roster.all (fun e => e.2.inRange)

/-- The pending unlock list holds at most 64 entries, at most one for each cabin (02 R30); the counter lies
in 1 to 65,535 (R31). -/
def State.unlocksOk (s : State) : Bool :=
  decide (s.unlocks.length ≤ Config.unlockPlaces) && decide ((s.unlocks.map (·.cabin)).Nodup) &&
    decide (1 ≤ s.nextToken) && decide (s.nextToken ≤ 65535)

/-- Sequences rise strictly through a log, all below a bound (04 R69, R71). -/
def seqsRise : List Entry → Nat → Bool
  | [], _ => true
  | e :: rest, bound => decide (e.seq < bound) && rest.all (fun x => decide (e.seq < x.seq)) && seqsRise rest bound

/-- The log fits its places, its sequences rise below the counter, and the counter does not pass its
exhausted value (04 R69, R71). -/
def State.logOk (s : State) : Bool :=
  decide (s.log.length ≤ Config.logPlaces) && seqsRise s.log s.nextSeq && decide (s.nextSeq ≤ Config.exhausted)

/-- The closure queue fits its places (05 R108). -/
def State.closuresOk (s : State) : Bool := decide (s.closures.length ≤ Config.closurePlaces)

/-- A call record of the shape R142 gives its state and kind. -/
def CallRecord.ok (c : CallRecord) : Bool :=
  match c.state with
  | .atSea => c == .sea
  | .alongside =>
    c == finalCall ||
      (c.kind.isSome && c.kind != some .final && c.allAboard.isSome && !c.closeHeld &&
        (c.closeMode == .timed) == c.closeTime.isSome)
  | .allAboard =>
    c.kind.isSome && c.kind != some .final && c.allAboard.isSome && (!c.closeHeld || c.closeMode == .timed) &&
      (c.closeMode == .timed) == c.closeTime.isSome

/-- The call record has its shape, and the missing list is empty but in ALL_ABOARD (07 R142, R144). -/
def State.callOk (s : State) : Bool :=
  s.call.ok && (s.call.state == .allAboard || s.missing.isEmpty)

/-- In ALL_ABOARD the missing list holds exactly the guests recorded ASHORE (07 R144). -/
def State.missingExact (s : State) : Bool := s.call.state != .allAboard || s.missing == s.ashoreSlots

/-- The number of cardholders of a presence. -/
def State.countOf (s : State) (p : Presence) : Nat := s.roster.countP (fun e => e.2.presence == some p)

/-- Each presence counter equals the number of guests of its presence (07 R133). -/
def State.countersExact (s : State) : Bool :=
  s.counters.notBoarded == s.countOf .notBoarded && s.counters.aboard == s.countOf .aboard &&
    s.counters.ashore == s.countOf .ashore && s.counters.disembarked == s.countOf .disembarked

/-! ## The laws of the records -/

/-- The grant relation (01 R21): a cardholder lists a cabin exactly when the cabin lists it, at most 4 and 8 of
them, without duplicates; STAFF and CLOSED cardholders list none (01 R2, R25); the privacy flag is set only
while the cabin has a grantee (02 R46). -/
def State.grantsOk (s : State) : Prop :=
  (∀ h c, s.roster.fetch h = some c →
    c.cabins.Nodup ∧ c.cabins.length ≤ 4 ∧ (c.kind = .staff ∨ c.state = .closed → c.cabins = []) ∧
      ∀ k ∈ c.cabins, ∃ r, s.cabins.fetch k = some r ∧ h ∈ r.grantees) ∧
  ∀ k r, s.cabins.fetch k = some r →
    r.grantees.Nodup ∧ r.grantees.length ≤ 8 ∧ (r.privacy = true → r.grantees ≠ []) ∧
      ∀ h ∈ r.grantees, ∃ c, s.roster.fetch h = some c ∧ k ∈ c.cabins

/-- Keys name at most one record each, and a serial one account (01 section 1.1, R14); an account's list holds at
most 8 guests of its own, none CLOSED (01 R6, R13, R25); a settle cursor stands in SETTLING only (01 R13). -/
def State.foliosOk (s : State) : Prop :=
  (∀ i c j d, s.roster.fetch i = some c → s.roster.fetch j = some d → c.card = d.card → i = j) ∧
  (∀ i k j r, s.cabins.fetch i = some k → s.cabins.fetch j = some r → k.number = r.number → i = j) ∧
  (∀ i a j b, s.accounts.fetch i = some a → s.accounts.fetch j = some b →
    a.folio = b.folio ∨ a.serial = b.serial → i = j) ∧
  ∀ i a, s.accounts.fetch i = some a →
    a.serial < s.nextSerial ∧ (a.cursor ≠ none → a.state = .settling) ∧ a.holders.Nodup ∧ a.holders.length ≤ 8 ∧
      ∀ h ∈ a.holders, ∃ c, s.roster.fetch h = some c ∧ c.account = some { serial := a.serial, slot := i } ∧
        c.kind ≠ .staff ∧ c.state ≠ .closed

/-- The held amounts of the LIVE holds that a check picks, together. -/
def State.heldSum (s : State) (picks : Hold → Bool) : Nat :=
  (((s.holds.filterMap (fun e => e.2.live)).filter picks).map (·.amount)).sum

/-- Held totals and held sums equal the LIVE holds' amounts, and a LIVE hold's account is OPEN and its cardholder
is a guest of that account (04 R81, R86; 05 R98). -/
def State.holdsOk (s : State) : Prop :=
  (∀ i x h, s.holds.fetch i = some x → x.live = some h →
    (∃ a, s.accounts.fetch h.account = some a ∧ a.serial = h.serial ∧ a.state = .opened) ∧
      ∃ c, s.roster.fetch h.holder = some c ∧ c.account = some { serial := h.serial, slot := h.account } ∧
        c.kind ≠ .staff ∧ c.state ≠ .closed) ∧
  (∀ i a, s.accounts.fetch i = some a → a.held = s.heldSum (fun h => h.account == i)) ∧
  ∀ i c, s.roster.fetch i = some c → c.held = s.heldSum (fun h => h.holder == i)

/-- The signed amounts of a serial's entries of one state, together (04 R72). -/
def ledgerSum (log : List Entry) (serial : Nat) (state : EntryState) : Int :=
  ((log.filter (fun e => e.serial == serial && e.state == state)).map Entry.signed).sum

/-- A sequence that a chain names: given already, and of an entry of the chain's account while in the log. -/
def State.ofChain (s : State) (serial q : Nat) : Prop :=
  q < s.nextSeq ∧ ∀ e ∈ s.log, e.seq = q → e.serial = serial

/-- Posted and settled totals equal the account's POSTED and SETTLED entries (04 R72); chains and links stay on
one account (R72); entries with an origin, and the members of a group, are charges (R70). -/
def State.ledgerOk (s : State) : Prop :=
  (∀ i a, s.accounts.fetch i = some a →
    a.posted = ledgerSum s.log a.serial .posted ∧ a.settled = ledgerSum s.log a.serial .settled ∧
      ∀ q, a.first = some q ∨ a.last = some q ∨ a.cursor = some q → s.ofChain a.serial q) ∧
  ∀ e ∈ s.log, e.serial < s.nextSerial ∧ (e.origin ≠ none → e.kind = .charge) ∧
    (∀ q, e.link = some q → s.ofChain e.serial q) ∧
    ∀ x, e.split = some x → x.first + x.count ≤ s.nextSeq ∧
      ∀ d ∈ s.log, x.first ≤ d.seq → d.seq < x.first + x.count → d.kind = .charge

/-- An account's limit, deposit, package code and totals lie in their ranges, and posted + held together is at most
2,000,000,000 (01 R13, 04 R92, R93). -/
def Account.inRange (a : Account) : Bool :=
  decide (a.limit ≤ Config.capMax) && decide (a.deposit ≤ Config.depositMax) && decide (a.package ≤ 15) &&
    decide (Config.totalMin ≤ a.posted) && decide (a.posted + a.held ≤ Config.totalMax) &&
    decide ((a.held : Int) ≤ Config.totalMax) && Machine.inRange a.settled

/-- A cardholder's spend day stamp does not pass the ship day, and its spent today and held sum together stay within
the largest cap, 50,000,000, well inside the ranges of R2 (01 R2, R4, 04 R93). -/
def Cardholder.spendInRange (day : Nat) (c : Cardholder) : Bool :=
  decide (c.spentDay ≤ day) && decide (c.spent ≤ Config.capMax) && decide (c.spentToday day + c.held ≤ Config.capMax)

/-- The amounts of every account and cardholder lie in their ranges (04 R93), and a cardholder with an account that is
not CLOSED is on that account's list, so that at most 8 share its held total (01 R6, R25). -/
def State.amountsOk (s : State) : Prop :=
  (∀ i a, s.accounts.fetch i = some a → a.inRange = true) ∧
  ∀ i c, s.roster.fetch i = some c → c.spendInRange s.shipDay = true ∧
    (c.state ≠ .closed → ∀ r, c.account = some r →
      ∃ a, s.accounts.fetch r.slot = some a ∧ a.serial = r.serial ∧ i ∈ a.holders)

/-! ## Invariants of the clock and settings -/

/-- Ship time fits its range, and the next rollover is the first instant of its form after it (08 R151,
R159). -/
def State.clockOk (s : State) : Bool :=
  decide (s.shipTime ≤ Config.maxWord) &&
    s.nextRollover == nextRolloverAfter s.shipTime s.options.rolloverHour

/-- Options in their ranges (10 R178). -/
def Options.inRange (o : Options) : Bool :=
  decide (2 ≤ o.unlockDeadline) && decide (o.unlockDeadline ≤ 30) && decide (60 ≤ o.holdLifetime) &&
    decide (o.holdLifetime ≤ 86400) && decide (o.voidWindow ≤ 3600) && decide (o.escortWindow ≤ 900) &&
    decide (o.threshold ≤ 15) && decide (o.rolloverHour ≤ 23)

/-- A tariff with every field, each in its range, and its floor not above its ceiling (03 R52, 10 R179). -/
def Tariff.inRange (t : Tariff) : Bool :=
  t.rates.length == 8 && t.rates.all (fun r => decide (r ≤ 2500)) && t.discounts.length == 128 &&
    t.discounts.all (fun d => decide (d ≤ 10000)) && decide (t.adultBase ≤ Config.capMax) &&
    decide (t.minorBase ≤ Config.capMax) && decide (t.capStep ≤ 1000000) && decide (t.capCeiling ≤ Config.capMax) &&
    decide (t.capFloor ≤ t.capCeiling)

/-- Options and tariff in range. -/
def Settings.inRange (x : Settings) : Bool := x.options.inRange && x.tariff.inRange

/-- The snapshot of a save in progress is in range. -/
def Store.inRange : Store → Bool
  | .idle => true
  | .busy _ x => x.inRange

/-- The working settings, the pending tariff, the image and the snapshot are in range (10 R178 to R182). -/
def State.settingsOk (s : State) : Bool :=
  s.options.inRange && s.tariff.inRange && s.pendingTariff.all Tariff.inRange && s.image.all Settings.inRange &&
    s.store.inRange

end Sys2Proof.Machine
end

