-- ==== Sys2Proof/Certificates/Slice0/Obligations.lean ====
section
/-! DEFINITION. Certificates/Slice0/Obligations.lean: the statements for the provers, chapter by chapter. -/

section

open Sys2Proof Sys2Proof.Machine

/-! ## The machine and its ports (chapters 9 to 11) -/

/-- The step takes the command at the front of the queue and runs it on the state with the queue's rest; with
an empty queue the millisecond timer rises by 1. Both are the model's choice: logs 30 and 3. -/
def Obligations.StepTakesTheFrontCommand : Prop :=
  (∀ (s : State) (c : Instr) (rest : List Instr),
    s.pending = c :: rest → step s = exec c { s with pending := rest }) ∧
  ∀ s : State, s.pending = [] → step s = .next { s with timer := s.timer + 1 }

/-- What a cold start leaves (R29, R50, R52, R96, R115, R132, R150, R163, R164,
R178). The straps and the INVALID image are the model's choice: logs 1 and 2. -/
def Obligations.ResetValues : Prop :=
  State.reset.roster = [] ∧ State.reset.accounts = [] ∧ State.reset.nextSerial = 1 ∧ State.reset.cabins = [] ∧
  State.reset.unlocks = [] ∧ State.reset.nextToken = 1 ∧ State.reset.log = [] ∧ State.reset.nextSeq = 1 ∧
  State.reset.holds = [] ∧ State.reset.closures = [] ∧
  State.reset.counters = { notBoarded := 0, aboard := 0, ashore := 0, disembarked := 0 } ∧
  State.reset.call.state = .atSea ∧ State.reset.missing = [] ∧ State.reset.shipTime = 0 ∧
  State.reset.shipDay = 0 ∧ State.reset.nextRollover = 14400 ∧ State.reset.pendingTariff = none ∧
  State.reset.options =
    { unlockDeadline := 8, holdLifetime := 14400, voidWindow := 900, escortWindow := 120, threshold := 3,
      rolloverHour := 4 } ∧
  State.reset.tariff.rates = [1800, 1800, 1800, 0, 0, 0, 1800, 0] ∧
  State.reset.tariff.discounts = List.replicate 128 0 ∧ State.reset.tariff.adultBase = 5000000 ∧
  State.reset.tariff.minorBase = 20000 ∧ State.reset.tariff.capStep = 2500 ∧ State.reset.tariff.capFloor = 0 ∧
  State.reset.tariff.capCeiling = 5000000 ∧ State.reset.clock = .ticked ∧ State.reset.tickSeen = false ∧
  State.reset.timer = 0 ∧ State.reset.lastTick = 0 ∧ State.reset.store = .idle ∧ State.reset.loaded = false ∧
  State.reset.image = none ∧
  (∀ p, (State.reset.ports.get p).buffer = [] ∧ (State.reset.ports.get p).slot = none ∧
    (State.reset.ports.get p).queue = [{ kind := .started, time := 0, subject := none, value := some 0 }] ∧
    (State.reset.ports.get p).window = none ∧ (State.reset.ports.get p).overrun = false ∧
    (State.reset.ports.get p).lost = false) ∧
  (∀ l, State.reset.lanes.get l =
    { mode := .normal, dirSetting := .both, receiver := .idle, holding := none, verdicts := [], faults := 0,
      lastFault := none, lastRead := none })

/-- Every invariant stated at the end of this file holds at reset. -/
def Obligations.ResetMeetsTheInvariants : Prop :=
  State.reset.portsBounded = true ∧ State.reset.lanesBounded = true ∧ State.reset.tablesWf = true ∧
  State.reset.cardsInRange = true ∧ State.reset.unlocksOk = true ∧ State.reset.logOk = true ∧
  State.reset.closuresOk = true ∧ State.reset.callOk = true ∧ State.reset.missingExact = true ∧
  State.reset.countersExact = true ∧ State.reset.clockOk = true ∧ State.reset.settingsOk = true ∧
  State.reset.grantsOk ∧ State.reset.foliosOk ∧ State.reset.holdsOk ∧ State.reset.ledgerOk ∧ State.reset.amountsOk

/-- The strap codes (00 section 4), and START_UP (R184): with the marker absent or record memory lost, the values of a
cold start on the ports as strapped, the image kept; else record memory is kept, and the unlock list, ports, lanes and
clock restart. That the straps and the loss of memory are operands, and that a start is warm exactly where the marker
stands and the memory was kept, is the model's reading: log 23. The last tick instant 0 of a warm start is the model's
choice: log 19. -/
def Obligations.StartUpKinds : Prop :=
  (Profile.ofStraps 0#2 = .watch ∧ Profile.ofStraps 1#2 = .service ∧ Profile.ofStraps 2#2 = .access ∧
    Profile.ofStraps 3#2 = .purser) ∧
  ∀ (s : State) (straps : Quad (BitVec 2)) (lost : Bool),
    (s.marker = false ∨ lost = true →
      exec (.startUp straps lost) s = .next { State.reset with
        ports := straps.map (fun code =>
          { profile := Profile.ofStraps code, buffer := [], slot := none,
            queue := [{ kind := .started, time := 0, subject := none, value := some 0 }], mask := 0x1FFFF#32,
            window := none, overrun := false, lost := false, reading := none })
        image := s.image
        pending := s.pending }) ∧
    (s.marker = true → lost = false →
      exec (.startUp straps lost) s = .next { s with
        unlocks := []
        ports := straps.map (fun code =>
          { profile := Profile.ofStraps code, buffer := [], slot := none,
            queue := [{ kind := .started, time := s.shipTime, subject := none, value := some 1 }],
            mask := 0x1FFFF#32, window := none, overrun := false, lost := false, reading := none })
        lanes := .fill
          { mode := .normal, dirSetting := .both, receiver := .idle, holding := none, verdicts := [], faults := 0,
            lastFault := none, lastRead := none }
        clock := .freewheel 1000
        lastTick := 0
        tickSeen := false
        timer := 0
        store := .idle
        loaded := false })

/-- Every request that has a frame is read back from its frame with its tag, whatever its fields hold (R186,
R187, R189, R191, R192). -/
def Obligations.FramesRoundTrip : Prop :=
  ∀ (req : Request) (tag : Byte), req.wf = true →
    decodeFrame (req.frame tag) = req ∧ frameTag (req.frame tag) = tag

/-- R165: which frames are bad; what a WRITE offers to the request buffer; how a bad-frame entry is answered; and that
a transaction of another type changes nothing. That a WRITE of a bad frame is the bad-frame command is the model's
choice: log 9. The type byte chooses among WRITE, READ and neither, and the device shifts out FFh during a WRITE and
the delivery chosen during a READ (R187); it is given no byte past the delivery's end: log 38. -/
def Obligations.WriteTransactions : Prop :=
  (∀ bytes : List Byte, goodFrame bytes = true ↔
    bytes[0]? = some 0xD3#8 ∧ (2 ≤ fieldAt bytes 1 2 ∧ fieldAt bytes 1 2 ≤ 242) ∧
      bytes.length = fieldAt bytes 1 2 + 5 ∧
      bytes.drop (bytes.length - 2) = crcBytes (bytes.take (bytes.length - 2))) ∧
  (∀ (s : State) (p : Port) (bytes : List Byte), goodFrame bytes = true →
    exec (.write p bytes) s = .next (s.submit p (bytes.getD 4 0#8)
      (decodeRequest (bytes.getD 3 0#8) ((bytes.drop 5).take (bytes.length - 7))))) ∧
  (∀ (s : State) (p : Port) (bytes : List Byte), goodFrame bytes = false →
    exec (.write p bytes) s = exec (.badFrame p (bytes.getD 4 0#8)) s) ∧
  (∀ (s : State) (p : Port) (tag : Byte), s.ready p →
    exec (.badFrame p tag) s = .next (s.respond p 0x00#8 tag (Reply.refuse .badFrame))) ∧
  (∀ (s : State) (p : Port) (kind : Byte), exec (.ignoredTransaction p kind) s = .next s) ∧
  ∀ (s : State) (p : Port) (kind : Byte) (bytes : List Byte) (n : Nat),
    (kind = 0x3C#8 → exec (.write p bytes) s = .next (s.transaction p kind bytes) ∧
      s.shiftedOut p kind n = List.replicate n 0xFF#8) ∧
    (kind = 0xC3#8 → exec (.read p) s = .next (s.transaction p kind bytes) ∧
      ∀ d, ((s.transaction p kind bytes).ports.get p).reading = some d → s.shiftedOut p kind n = d.frame.take n) ∧
    (kind ≠ 0x3C#8 → kind ≠ 0xC3#8 → s.transaction p kind bytes = s)

/-- A request command is the WRITE of that request's frame, on every port in every state (log 9). -/
def Obligations.CommandsAreWrites : Prop :=
  ∀ (c : Instr) (p : Port) (tag : Byte) (req : Request) (s : State),
    requestOf c = some (p, tag, req) → req.wf = true → exec c s = exec (.write p (req.frame tag)) s

/-- R166: the buffer takes an entry at its newest end while it holds 0 or 1, discards one when it holds 2 and sets the
overrun flag, and the flag is cleared in the step that forms a response, which carries it (R167). That a response is
formed in the WRITE's own step, or in the step that completes a delivery, is the model's reading of R167 and R168: log
8. -/
def Obligations.RequestBufferHoldsTwo : Prop :=
  ∀ (s : State) (p : Port) (bytes : List Byte),
    (2 ≤ (s.ports.get p).buffer.length →
      exec (.write p bytes) s = .next (s.modPort p (fun q => { q with overrun := true }))) ∧
    ((s.ports.get p).buffer.length < 2 → (s.ports.get p).slot ≠ none →
      exec (.write p bytes) s = .next (s.modPort p (fun q =>
        { q with buffer := q.buffer ++ [{ tag := frameTag bytes, req := decodeFrame bytes }] }))) ∧
    ((s.ports.get p).buffer.length < 2 → (s.ports.get p).slot = none →
      ∃ t r, exec (.write p bytes) s = .next t ∧ (t.ports.get p).slot = some r ∧
        r.overrun = (s.ports.get p).overrun ∧ (t.ports.get p).overrun = false ∧
        (t.ports.get p).buffer =
          ((s.ports.get p).buffer ++ [(⟨frameTag bytes, decodeFrame bytes⟩ : BufEntry)]).drop 1) ∧
    ∀ d r e rest, (s.ports.get p).reading = some d → d.payload = .response r →
      (s.ports.get p).buffer = e :: rest →
      ∃ t r', exec (.deliveryComplete p) s = .next t ∧ (t.ports.get p).slot = some r' ∧
        r'.overrun = (s.ports.get p).overrun ∧ (t.ports.get p).overrun = false ∧ (t.ports.get p).buffer = rest

/-- A frame written on a ready port is answered in the same step, with its code and tag, and its attention line is
asserted; the other ports keep their request buffer, overrun flag, response, delivery in progress, mask and profile
(their windows and notice queues may follow what the request did). That the answer stands in the WRITE's own step is
the model's reading of R167 and R169: log 8. -/
def Obligations.RequestsAreAnsweredAtOnce : Prop :=
  ∀ (s : State) (p : Port) (bytes : List Byte), s.ready p →
    ∃ t r, exec (.write p bytes) s = .next t ∧ (t.ports.get p).slot = some r ∧ r.tag = frameTag bytes ∧
      r.code = (decodeFrame bytes).code ∧ (t.ports.get p).buffer = [] ∧ t.attention p = true ∧
      (t.ports.get p).profile = (s.ports.get p).profile ∧ (t.ports.get p).reading = (s.ports.get p).reading ∧
      t.pending = s.pending ∧
      ∀ q, q ≠ p → (t.ports.get q).slot = (s.ports.get q).slot ∧ (t.ports.get q).buffer = (s.ports.get q).buffer ∧
        (t.ports.get q).reading = (s.ports.get q).reading ∧ (t.ports.get q).overrun = (s.ports.get q).overrun ∧
        (t.ports.get q).mask = (s.ports.get q).mask ∧ (t.ports.get q).profile = (s.ports.get q).profile

/-- An unknown code, and every request kept for another profile, is refused and changes no record; a WINDOW ACT
so refused leaves the window open (R167, R112, R177). -/
def Obligations.ProfilesAreKept : Prop :=
  (∀ (s : State) (p : Port) (tag code : Byte), s.ready p →
    exec (.unknownRequest p tag code) s = .next (s.answered p code tag (Reply.refuse .unknownRequest))) ∧
  (∀ (s : State) (c : Instr) (p : Port) (tag : Byte) (req : Request),
    requestOf c = some (p, tag, req) → isRequestCode req.code.toNat = true → req.wf = true → s.ready p →
    (0x20 ≤ req.code.toNat → req.code.toNat < 0x30 → (s.ports.get p).profile ≠ .service →
      exec c s = .next (s.answered p req.code tag (Reply.refuse .notPermitted))) ∧
    (0x30 ≤ req.code.toNat → req.code.toNat < 0x40 → (s.ports.get p).profile ≠ .access →
      exec c s = .next (s.answered p req.code tag (Reply.refuse .notPermitted))) ∧
    (0x40 ≤ req.code.toNat → req.code.toNat < 0x86 → (s.ports.get p).profile ≠ .purser →
      exec c s = .next (s.answered p req.code tag (Reply.refuse .notPermitted)))) ∧
  ∀ (s : State) (p : Port) (tag : Byte), s.ready p → (s.ports.get p).profile ≠ .purser →
    exec (.windowActKeep p tag) s = .next (s.respond p 0x86#8 tag (Reply.refuse .notPermitted)) ∧
    exec (.windowActVoid p tag) s = .next (s.respond p 0x86#8 tag (Reply.refuse .notPermitted))

/-- A READ chooses the response, else the oldest notice with the notices-lost flag, else an EMPTY delivery; its
completion takes the delivery out and executes a waiting request; an abandoned READ leaves it where it was and
sets the flag it carried again (R168, R171). A completion without a READ changes nothing (log 7). -/
def Obligations.ReadTransactions : Prop :=
  ∀ (s : State) (p : Port),
    ((s.ports.get p).reading = none →
      (∀ r, (s.ports.get p).slot = some r →
        exec (.read p) s = .next (s.modPort p (fun q => { q with
          reading := some
            { payload := .response r, waits := !q.buffer.isEmpty, queued := q.queue.length } }))) ∧
      (∀ n rest, (s.ports.get p).slot = none → (s.ports.get p).queue = n :: rest →
        exec (.read p) s = .next (s.modPort p (fun q => { q with
          reading := some { payload := .notice n q.lost, waits := false, queued := rest.length }
          lost := false }))) ∧
      ((s.ports.get p).slot = none → (s.ports.get p).queue = [] →
        exec (.read p) s = .next (s.modPort p (fun q => { q with
          reading := some { payload := .empty, waits := false, queued := 0 } }))) ∧
      exec (.deliveryComplete p) s = .next s ∧ exec (.readAbandoned p) s = .next s) ∧
    ∀ d, (s.ports.get p).reading = some d →
      (∀ r, d.payload = .response r →
        ((s.ports.get p).buffer = [] → exec (.deliveryComplete p) s =
          .next (s.modPort p (fun q => { q with reading := none, slot := none }))) ∧
        (∀ e rest, (s.ports.get p).buffer = e :: rest → exec (.deliveryComplete p) s =
          .next ((s.modPort p (fun q => { q with reading := none, slot := none, buffer := rest })).execute p e)) ∧
        exec (.readAbandoned p) s = .next (s.modPort p (fun q => { q with reading := none }))) ∧
      (∀ n lost, d.payload = .notice n lost →
        exec (.deliveryComplete p) s =
          .next (s.modPort p (fun q => { q with reading := none, queue := q.queue.drop 1 })) ∧
        exec (.readAbandoned p) s =
          .next (s.modPort p (fun q => { q with reading := none, lost := q.lost || lost }))) ∧
      (d.payload = .empty →
        exec (.deliveryComplete p) s = .next (s.modPort p (fun q => { q with reading := none })) ∧
        exec (.readAbandoned p) s = .next (s.modPort p (fun q => { q with reading := none })))

/-- SET NOTICE MASK, and what the mask and a full queue do to a notice raised (R171, R172); the ports a notice is
queued on, by their profiles or by name, with the ship time of the step, and that nothing else changes (R170). -/
def Obligations.NoticeMasksAndQueues : Prop :=
  (∀ (s : State) (p : Port) (tag : Byte) (mask : BitVec 32), s.ready p →
    (mask.toNat < 2 ^ 17 → exec (.setNoticeMask p tag mask) s =
      .next ((s.modPort p (fun q => { q with mask := mask })).answered p 0x03#8 tag
        (Reply.ok (u32 mask.toNat)))) ∧
    (2 ^ 17 ≤ mask.toNat → exec (.setNoticeMask p tag mask) s =
      .next (s.answered p 0x03#8 tag (Reply.refuse .badField)))) ∧
  (∀ k : NoticeKind, hasKind 0x1FFFF#32 k = true) ∧
  (∀ (q : PortState) (n : Notice),
    (q.mask.getLsbD (n.kind.code - 1) = false → q.enqueue n = q) ∧
    (q.mask.getLsbD (n.kind.code - 1) = true → q.queue.length < 16 →
      q.enqueue n = { q with queue := q.queue ++ [n] }) ∧
    (q.mask.getLsbD (n.kind.code - 1) = true → 16 ≤ q.queue.length → q.enqueue n = { q with lost := true })) ∧
  (∀ (s : State) (receives : Profile → Bool) (kind : NoticeKind) (subject : Option Subject) (value : Option Int),
    s.raise receives kind subject value = { s with ports := (s.raise receives kind subject value).ports } ∧
    ∀ p, (s.raise receives kind subject value).ports.get p =
      if receives (s.ports.get p).profile = true then
        (s.ports.get p).enqueue { kind := kind, time := s.shipTime, subject := subject, value := value }
      else s.ports.get p) ∧
  (∀ (s : State) (p : Port) (kind : NoticeKind) (subject : Option Subject) (value : Option Int),
    s.raiseTo p kind subject value = { s with ports := (s.raiseTo p kind subject value).ports } ∧
    ∀ q, (s.raiseTo p kind subject value).ports.get q =
      if q = p then (s.ports.get p).enqueue { kind := kind, time := s.shipTime, subject := subject, value := value }
      else s.ports.get q) ∧
  ∀ f : Profile, everyPort f = true ∧ (purserPorts f = true ↔ f = .purser) ∧
    (purserAndWatch f = true ↔ f = .purser ∨ f = .watch) ∧ (purserAndService f = true ↔ f = .purser ∨ f = .service) ∧
    (accessAndPurser f = true ↔ f = .access ∨ f = .purser)

/-! ## Windows (chapters 5 and 9) -/

/-- WINDOW OPEN in READ mode on each collection, and in REVIEW mode on a chain, from its first entry or from a start
sequence; each refusal of R110 and R174; refused, it closes the port's window (R110, R174, R177). The layout of its
response, with the start of an empty chain answered as 0, is the model's choice: log 13. -/
def Obligations.WindowsOpen : Prop :=
  ∀ (s : State) (p : Port) (tag : Byte) (key start : BitVec 32), s.ready p →
    (∀ slot a, s.findFolio key.toNat = some (slot, a) → start.toNat = 0 →
      exec (.windowOpen p tag 0x01#8 0x00#8 key start) s =
        .next ((s.setWindow p (.chain false a.folio a.serial a.first a.last a.first)).respond p 0x0E#8 tag
          (Reply.ok (u32 (a.first.getD 0) ++ optional u32 a.last ++ u32 (s.remaining
            (.chain false a.folio a.serial a.first a.last a.first)).length))) ∧
      ((s.ports.get p).profile = .purser → a.state = .opened →
        exec (.windowOpenReview p tag 0x01#8 key start) s =
          .next ((s.setWindow p (.chain true a.folio a.serial a.first a.last a.first)).respond p 0x0E#8 tag
            (Reply.ok (u32 (a.first.getD 0) ++ optional u32 a.last ++ u32 (s.remaining
              (.chain true a.folio a.serial a.first a.last a.first)).length)))) ∧
      ((s.ports.get p).profile = .purser → a.state ≠ .opened →
        exec (.windowOpenReview p tag 0x01#8 key start) s =
          .next ((s.closeWindow p).respond p 0x0E#8 tag (Reply.refuse .slotState)))) ∧
    (∀ slot a e, s.findFolio key.toNat = some (slot, a) → start.toNat ≠ 0 → s.findEntry start.toNat = some e →
      (e.serial = a.serial →
        exec (.windowOpen p tag 0x01#8 0x00#8 key start) s =
          .next ((s.setWindow p (.chain false a.folio a.serial (some start.toNat) a.last (some start.toNat))).respond p
            0x0E#8 tag (Reply.ok (u32 start.toNat ++ optional u32 a.last ++ u32 (s.remaining
              (.chain false a.folio a.serial (some start.toNat) a.last (some start.toNat))).length)))) ∧
      (e.serial ≠ a.serial → exec (.windowOpen p tag 0x01#8 0x00#8 key start) s =
        .next ((s.closeWindow p).respond p 0x0E#8 tag (Reply.refuse .badField))) ∧
      ((s.ports.get p).profile = .purser → a.state = .opened →
        (e.serial = a.serial → exec (.windowOpenReview p tag 0x01#8 key start) s =
          .next ((s.setWindow p (.chain true a.folio a.serial (some start.toNat) a.last (some start.toNat))).respond p
            0x0E#8 tag (Reply.ok (u32 start.toNat ++ optional u32 a.last ++ u32 (s.remaining
              (.chain true a.folio a.serial (some start.toNat) a.last (some start.toNat))).length)))) ∧
        (e.serial ≠ a.serial → exec (.windowOpenReview p tag 0x01#8 key start) s =
          .next ((s.closeWindow p).respond p 0x0E#8 tag (Reply.refuse .badField)))) ∧
      ((s.ports.get p).profile = .purser → a.state ≠ .opened → exec (.windowOpenReview p tag 0x01#8 key start) s =
        .next ((s.closeWindow p).respond p 0x0E#8 tag (Reply.refuse .slotState)))) ∧
    (∀ slot a, s.findFolio key.toNat = some (slot, a) → start.toNat ≠ 0 → s.findEntry start.toNat = none →
      exec (.windowOpen p tag 0x01#8 0x00#8 key start) s =
        .next ((s.closeWindow p).respond p 0x0E#8 tag (Reply.refuse .badField)) ∧
      ((s.ports.get p).profile = .purser →
        (a.state = .opened → exec (.windowOpenReview p tag 0x01#8 key start) s =
          .next ((s.closeWindow p).respond p 0x0E#8 tag (Reply.refuse .badField))) ∧
        (a.state ≠ .opened → exec (.windowOpenReview p tag 0x01#8 key start) s =
          .next ((s.closeWindow p).respond p 0x0E#8 tag (Reply.refuse .slotState))))) ∧
    (s.findFolio key.toNat = none →
      exec (.windowOpen p tag 0x01#8 0x00#8 key start) s =
        .next ((s.closeWindow p).respond p 0x0E#8 tag (Reply.refuse .notFound)) ∧
      ((s.ports.get p).profile = .purser → exec (.windowOpenReview p tag 0x01#8 key start) s =
        .next ((s.closeWindow p).respond p 0x0E#8 tag (Reply.refuse .notFound)))) ∧
    (∀ collection : Byte,
      ((s.ports.get p).profile = .purser → collection ≠ 0x01#8 →
        exec (.windowOpenReview p tag collection key start) s =
          .next ((s.closeWindow p).respond p 0x0E#8 tag (Reply.refuse .badField))) ∧
      ((s.ports.get p).profile ≠ .purser → exec (.windowOpenReview p tag collection key start) s =
        .next ((s.closeWindow p).respond p 0x0E#8 tag (Reply.refuse .notPermitted)))) ∧
    (∀ collection mode : Byte, 1 < mode.toNat ∨ (mode = 0x00#8 ∧ (collection.toNat = 0 ∨ 4 < collection.toNat)) →
      exec (.windowOpen p tag collection mode key start) s =
        .next ((s.closeWindow p).respond p 0x0E#8 tag (Reply.refuse .badField))) ∧
    (s.findCabin key.toNat = none →
      exec (.windowOpen p tag 0x03#8 0x00#8 key start) s =
        .next ((s.closeWindow p).respond p 0x0E#8 tag (Reply.refuse .notFound))) ∧
    (∀ slot k, s.findCabin key.toNat = some (slot, k) → k.history.length < start.toNat →
      exec (.windowOpen p tag 0x03#8 0x00#8 key start) s =
        .next ((s.closeWindow p).respond p 0x0E#8 tag (Reply.refuse .badField))) ∧
    (∀ slot k, s.findCabin key.toNat = some (slot, k) → start.toNat = 0 → k.history = [] →
      exec (.windowOpen p tag 0x03#8 0x00#8 key start) s =
        .next ((s.setWindow p (.history k.number slot 1 none 1 0 false)).respond p 0x0E#8 tag
          (Reply.ok (u32 1 ++ [0x00#8] ++ u32 0)))) ∧
    (start.toNat = 0 → s.closures = [] →
      exec (.windowOpen p tag 0x04#8 0x00#8 key start) s =
        .next ((s.setWindow p (.closures 1 none 1 0)).respond p 0x0E#8 tag
          (Reply.ok (u32 1 ++ [0x00#8] ++ u32 0)))) ∧
    (start.toNat < 8192 → exec (.windowOpen p tag 0x02#8 0x00#8 key start) s =
      .next ((s.setWindow p (.missing start.toNat s.missing.getLast? start.toNat)).respond p 0x0E#8 tag
        (Reply.ok (u32 start.toNat ++ optional u32 s.missing.getLast? ++ u32 (s.missingItems start.toNat
          s.missing.getLast?).length)))) ∧
    (8192 ≤ start.toNat → exec (.windowOpen p tag 0x02#8 0x00#8 key start) s =
      .next ((s.closeWindow p).respond p 0x0E#8 tag (Reply.refuse .badField))) ∧
    (∀ slot k, s.findCabin key.toNat = some (slot, k) → s.cabins.fetch slot = some k →
      start.toNat ≤ k.history.length → k.history ≠ [] →
      exec (.windowOpen p tag 0x03#8 0x00#8 key start) s =
        .next ((s.setWindow p (.history k.number slot (max 1 start.toNat) (some k.history.length)
          (max 1 start.toNat) 0 false)).respond p 0x0E#8 tag
          (Reply.ok (u32 (max 1 start.toNat) ++ optional u32 (some k.history.length) ++
            u32 (k.history.length + 1 - max 1 start.toNat))))) ∧
    (start.toNat ≤ s.closures.length → s.closures ≠ [] →
      exec (.windowOpen p tag 0x04#8 0x00#8 key start) s =
        .next ((s.setWindow p (.closures (max 1 start.toNat) (some s.closures.length) (max 1 start.toNat)
          0)).respond p 0x0E#8 tag
          (Reply.ok (u32 (max 1 start.toNat) ++ optional u32 (some s.closures.length) ++
            u32 (s.closures.length + 1 - max 1 start.toNat))))) ∧
    (s.closures.length < start.toNat → exec (.windowOpen p tag 0x04#8 0x00#8 key start) s =
      .next ((s.closeWindow p).respond p 0x0E#8 tag (Reply.refuse .badField))) ∧
    ((s.ports.get p).profile ≠ .purser → exec (.windowOpenReview p tag 0x01#8 key start) s =
      .next ((s.closeWindow p).respond p 0x0E#8 tag (Reply.refuse .notPermitted)))

/-- WINDOW READ: SLOT_STATE without a window; END with nothing left, its body the item count 0; else up to 8 items,
the window past them and MORE when items remain; a READ window changes nothing else (R175). On a REVIEW window the
entry at the cursor, which stays, or END (R111); its position in 4 bytes is the model's choice: log 13. Then the items
that remain in a window on each collection, each with its bytes and the window past it (R176). -/
def Obligations.WindowsReadItems : Prop :=
  (∀ (s : State) (p : Port) (tag : Byte), s.ready p →
    ((s.ports.get p).window = none →
      exec (.windowRead p tag) s = .next (s.respond p 0x0F#8 tag (Reply.refuse .slotState))) ∧
    (∀ w, (s.ports.get p).window = some w →
      (∀ folio serial start ending cursor, w ≠ .chain true folio serial start ending cursor) →
      (s.remaining w = [] → exec (.windowRead p tag) s =
        .next (s.respond p 0x0F#8 tag { Reply.ok [0x00#8] with ended := true })) ∧
      (∀ last, ((s.remaining w).take 8).getLast? = some last → exec (.windowRead p tag) s =
        .next ((s.setWindow p last.2).respond p 0x0F#8 tag
          { Reply.ok (listOf (fun x : List Byte × Window => x.1) ((s.remaining w).take 8)) with
            more := decide (8 < (s.remaining w).length) }))) ∧
    ∀ folio serial start ending cursor, (s.ports.get p).window = some (.chain true folio serial start ending cursor) →
      (s.findSerial serial = none ∨ cursor = none →
        exec (.windowRead p tag) s = .next (s.respond p 0x0F#8 tag { Reply.ok [0x00#8] with ended := true })) ∧
      ∀ x q e, s.findSerial serial = some x → cursor = some q → s.findEntry q = some e →
        exec (.windowRead p tag) s = .next (s.respond p 0x0F#8 tag
          (Reply.ok (u8 1 ++ s.entryItem e ++ u32 (s.chainItems start (some q)).length)))) ∧
  (∀ (s : State) (review : Bool) (folio serial : Nat) (start : Option Nat),
    (∀ ending cursor, s.findSerial serial = none ∨ ending = none ∨ cursor = none →
      s.remaining (.chain review folio serial start ending cursor) = []) ∧
    ∀ (x : Nat × Account) (run : List Entry) (z q : Nat), s.findSerial serial = some x →
      run.length ≤ s.log.length → run.head?.map (·.seq) = some q → run.getLast?.map (·.seq) = some z →
      (∀ e ∈ run, s.findEntry e.seq = some e) → run.IsChain (fun d e => d.seq ≠ z ∧ d.link = some e.seq) →
      s.chainItems (some q) (some z) = run ∧
      s.remaining (.chain review folio serial start (some z) (some q)) = run.map (fun e =>
        (e.bytes ((s.findSerial e.serial).map (fun y => y.2.folio)) (e.origin.bind (fun o => s.cardNumber o.holder)),
          .chain review folio serial start (some z) (if e.seq = z then none else e.link)))) ∧
  (∀ (s : State) (start cursor : Nat),
    s.remaining (.missing start none cursor) = [] ∧
    (∀ z, s.remaining (.missing start (some z) cursor) =
      (s.missing.filter (fun x => decide (cursor ≤ x) && decide (x ≤ z))).map (fun x =>
        (s.missingItem x, .missing start (some z) (x + 1)))) ∧
    ∀ x c, s.roster.fetch x = some c → s.missingItem x =
      u16 x ++ u32 c.card ++ u8 c.kind.code ++ u8 c.state.code ++ optional Transit.bytes c.lastTransit) ∧
  (∀ (s : State) (number slot start cursor added : Nat),
    (∀ ending, s.remaining (.history number slot start ending cursor added true) = []) ∧
    s.remaining (.history number slot start none cursor added false) = [] ∧
    ∀ (k : Cabin) (z : Nat), s.cabins.fetch slot = some k →
      let lost := added - (8 - z)
      ∀ n, (s.remaining (.history number slot start (some z) cursor added false))[n]? =
        if max cursor (lost + 1) + n ≤ z then
          (k.history[max cursor (lost + 1) + n - 1 - lost]?).map (fun e =>
            (e.bytes, .history number slot start (some z) (max cursor (lost + 1) + n + 1) added false))
        else none) ∧
  ∀ (s : State) (start cursor taken : Nat),
    s.remaining (.closures start none cursor taken) = [] ∧
    ∀ z n, (s.remaining (.closures start (some z) cursor taken))[n]? =
      if max cursor (taken + 1) + n ≤ z then
        (s.closures[max cursor (taken + 1) + n - 1 - taken]?).map (fun x =>
          (x.bytes, .closures start (some z) (max cursor (taken + 1) + n + 1) taken))
      else none

/-- WINDOW ACT on a REVIEW window whose cursor names entry `e`: KEEP moves the cursor along the link, or past the end
after the end entry; VOID voids the group of a POSTED entry of an OPEN account and moves the cursor the same way
(R112, R113), an unsplit entry alone (R90). With the account not OPEN, VOID is answered ACCOUNT_NOT_OPEN for every
entry, one that a SETTLE STEP settled included: the order of R113, where R114 names ENTRY_STATE, is the model's
reading (log 37). Without a REVIEW window, SLOT_STATE; past the end, or with the account closed, END. END with the
VOID fields, and with an empty body after a KEEP, is the model's choice: log 14. -/
def Obligations.ReviewKeepsAndVoids : Prop :=
  (∀ (s : State) (p : Port) (tag : Byte) (folio serial : Nat) (start ending : Option Nat) (q : Nat) (slot : Nat)
    (a : Account) (e : Entry), s.readyAs p .purser →
    (s.ports.get p).window = some (.chain true folio serial start ending (some q)) →
    s.findSerial serial = some (slot, a) → s.findEntry q = some e →
    (some e.seq = ending →
      exec (.windowActKeep p tag) s = .next ((s.setWindow p (.chain true folio serial start ending none)).respond p
        0x86#8 tag Reply.finished)) ∧
    (some e.seq ≠ ending → ∀ q', e.link = some q' →
      exec (.windowActKeep p tag) s = .next ((s.setWindow p (.chain true folio serial start ending (some q'))).respond
        p 0x86#8 tag (Reply.ok (u32 q')))) ∧
    (a.state ≠ .opened →
      exec (.windowActVoid p tag) s = .next (s.respond p 0x86#8 tag (Reply.refuse .accountNotOpen))) ∧
    (a.state = .opened → e.state ≠ .posted →
      exec (.windowActVoid p tag) s = .next (s.respond p 0x86#8 tag (Reply.refuse .entryState))) ∧
    (a.state = .opened → e.state = .posted → e.origin = none →
      exec (.windowActVoid p tag) s = .next (s.respond p 0x86#8 tag (Reply.refuse .entryState))) ∧
    (a.state = .opened → e.state = .posted → e.origin ≠ none →
      (∀ r, s.voidGroup e = .error r →
        exec (.windowActVoid p tag) s = .next (s.respond p 0x86#8 tag (Reply.refuse r))) ∧
      ∀ g next, s.voidGroup e = .ok g → next = (if some e.seq = ending then none else e.link) →
        exec (.windowActVoid p tag) s = .next
          (((s.voidAll g).setWindow p (.chain true folio serial start ending next)).respond p 0x86#8 tag
            { Reply.ok (voidFields (s.voidAll g) g ++ optional u32 next) with ended := next.isNone })) ∧
    (a.state = .opened → e.state = .posted → e.seq = q → e.serial = serial → e.split = none →
      -2000000000 ≤ a.posted - e.amount → s.voidGroup e = .ok [e] ∧ ∀ o, e.origin = some o →
      s.voidAll [e] = { s with
        log := s.log.map (fun x => if x.seq = q then { x with state := .voided } else x)
        accounts := s.accounts.modify slot (fun b => { b with posted := b.posted - e.amount })
        roster := if e.day = s.shipDay then
            s.roster.modify o.holder (fun c => { c with spent := c.spent - e.amount })
          else s.roster })) ∧
  ∀ (s : State) (p : Port) (tag : Byte), s.readyAs p .purser →
    ((s.ports.get p).window = none →
      exec (.windowActKeep p tag) s = .next (s.respond p 0x86#8 tag (Reply.refuse .slotState)) ∧
      exec (.windowActVoid p tag) s = .next (s.respond p 0x86#8 tag (Reply.refuse .slotState))) ∧
    ∀ folio serial start ending cursor,
      ((s.ports.get p).window = some (.chain false folio serial start ending cursor) →
        exec (.windowActKeep p tag) s = .next (s.respond p 0x86#8 tag (Reply.refuse .slotState)) ∧
        exec (.windowActVoid p tag) s = .next (s.respond p 0x86#8 tag (Reply.refuse .slotState))) ∧
      ((s.ports.get p).window = some (.chain true folio serial start ending cursor) →
        s.findSerial serial = none ∨ cursor = none →
        exec (.windowActKeep p tag) s = .next (s.respond p 0x86#8 tag Reply.finished) ∧
        exec (.windowActVoid p tag) s = .next (s.respond p 0x86#8 tag Reply.finished))

/-! ## Reads -/

/-- READ CARDHOLDER, READ ACCOUNT and READ CABIN answer the record as it stands and change no record (R26, R27,
R28). The presence byte of the guest's group is the model's reading: log 12. -/
def Obligations.RosterReads : Prop :=
  ∀ (s : State) (p : Port) (tag : Byte) (card folio : BitVec 32) (cabin : BitVec 16), s.ready p →
    (s.findCard card.toNat = none →
      exec (.readCardholder p tag card) s = .next (s.answered p 0x04#8 tag (Reply.refuse .notFound))) ∧
    (∀ slot c, s.findCard card.toNat = some (slot, c) → c.kind = .staff →
      exec (.readCardholder p tag card) s = .next (s.answered p 0x04#8 tag
        (Reply.ok (u16 slot ++ u8 c.state.code ++ u32 c.card ++ u8 c.gen ++ u8 2 ++ u8 c.conflicts ++
          u8 c.classMask.toNat ++ u32 c.deckMask.toNat ++ i8 c.capOffset ++ listOf u16 (s.cabinNumbers c.cabins) ++
          [0x00#8])))) ∧
    (∀ slot c ref q, s.findCard card.toNat = some (slot, c) → c.kind ≠ .staff → c.account = some ref →
      c.presence = some q →
      exec (.readCardholder p tag card) s = .next (s.answered p 0x04#8 tag
        (Reply.ok (u16 slot ++ u8 c.state.code ++ u32 c.card ++ u8 c.gen ++ u8 c.kind.code ++ u8 c.conflicts ++
          u8 c.classMask.toNat ++ u32 c.deckMask.toNat ++ i8 c.capOffset ++ listOf u16 (s.cabinNumbers c.cabins) ++
          (0x01#8 :: (u32 ref.serial ++ u16 ref.slot ++ optional u32 ((s.accountOf c).map (fun x => x.2.folio)) ++
            u32 (if c.spentDay = s.shipDay then c.spent else 0) ++ u32 c.held ++ i32 (effectiveCap s.tariff c) ++
            u8 q.code ++ optional Transit.bytes c.lastTransit)))))) ∧
    (s.findFolio folio.toNat = none →
      exec (.readAccount p tag folio) s = .next (s.answered p 0x05#8 tag (Reply.refuse .notFound))) ∧
    (∀ slot a, s.findFolio folio.toNat = some (slot, a) →
      exec (.readAccount p tag folio) s = .next (s.answered p 0x05#8 tag
        (Reply.ok (u16 slot ++ u8 a.state.code ++ u32 a.folio ++ u32 a.serial ++
          listOf u32 (s.cardNumbers a.holders) ++ u32 a.limit ++ u32 a.deposit ++ u8 a.package ++
          flag a.minorRelease ++ i32 a.posted ++ u32 a.held ++ i32 a.settled ++
          i64 (a.limit + a.deposit - a.posted - a.held) ++ u16 (s.liveHolds a.serial) ++ optional u32 a.first ++
          optional u32 a.last ++ u32 a.count ++ optional u32 a.cursor)))) ∧
    (s.findCabin cabin.toNat = none →
      exec (.readCabin p tag cabin) s = .next (s.answered p 0x06#8 tag (Reply.refuse .notFound))) ∧
    ∀ slot k, s.findCabin cabin.toNat = some (slot, k) →
      exec (.readCabin p tag cabin) s = .next (s.answered p 0x06#8 tag
        (Reply.ok (u16 slot ++ u16 k.number ++ u8 k.deck ++ u8 k.blocked.code ++ flag k.privacy ++
          listOf u32 (s.cardNumbers k.grantees) ++
          optional (fun u : Unlock => u32 ((s.cardNumber u.holder).getD 0) ++ u16 (u.deadline - s.timer))
            (s.unlocks.find? (fun u => u.cabin == slot)) ++
          u8 k.history.length)))

/-- READ HOLD, READ ENTRY, READ COUNTS, READ CALL and READ LANE answer the record as it stands and change no record
(R94, R95, R131, R148, R149). That READ HOLD gives neither handle, tag nor state is the model's choice: log 36. The
layout of a lane's fields, with the receiver's code, is that of R131 with the model's choice of log 13. -/
def Obligations.LedgerAndGangwayReads : Prop :=
  (∀ x : LaneState, x.bytes =
    u8 x.mode.code ++ u8 x.dirSetting.code ++ u8 (if x.receiver = .idle then 0 else 1) ++
      (match x.holding with
       | none => [0x00#8]
       | some r => 0x01#8 :: (u32 r.card ++ u8 r.dir.code)) ++
      u8 x.verdicts.length ++ u8 x.faults ++
      (match x.lastFault with
       | none => [0x00#8]
       | some c => u8 c.code) ++
      (match x.lastRead with
       | none => [0x00#8]
       | some m => 0x01#8 :: (u32 m.read.card ++ u8 m.read.dir.code ++ u8 m.verdict.code ++ u8 m.cause.code))) ∧
  ∀ (s : State) (p : Port) (tag : Byte), s.ready p →
    (∀ slot reuse : Byte,
      (s.holds.fetch slot.toNat = none ∨ (∃ x, s.holds.fetch slot.toNat = some x ∧ x.live = none) →
        exec (.readHold p tag slot reuse) s = .next (s.answered p 0x07#8 tag (Reply.refuse .notFound)))) ∧
    (∀ (slot reuse : Byte) (x : HoldSlot) (h : Hold) (a : Account) (c : Cardholder),
      s.holds.fetch slot.toNat = some x → x.live = some h → s.accounts.fetch h.account = some a →
      s.roster.fetch h.holder = some c →
      (x.reuse = reuse.toNat →
        exec (.readHold p tag slot reuse) s = .next (s.answered p 0x07#8 tag
          (Reply.ok (u32 h.serial ++ u16 h.account ++ u16 h.holder ++ u8 h.port.index ++ u16 h.outlet ++ u8 h.cls ++
            u32 h.amount ++ u32 h.expiry ++ u32 a.folio ++ u32 c.card ++ u32 (h.expiry - s.shipTime))))) ∧
      (x.reuse ≠ reuse.toNat →
        exec (.readHold p tag slot reuse) s = .next (s.answered p 0x07#8 tag (Reply.refuse .notFound)))) ∧
    (∀ seq : BitVec 32,
      ((∀ e ∈ s.log, e.seq ≠ seq.toNat) →
        exec (.readEntry p tag seq) s = .next (s.answered p 0x08#8 tag (Reply.refuse .notFound))) ∧
      ∀ e, s.findEntry seq.toNat = some e →
        exec (.readEntry p tag seq) s = .next (s.answered p 0x08#8 tag
          (Reply.ok (e.bytes ((s.findSerial e.serial).map (fun x => x.2.folio))
            (e.origin.bind (fun o => s.cardNumber o.holder)))))) ∧
    exec (.readCounts p tag) s = .next (s.answered p 0x09#8 tag
      (Reply.ok (u16 s.counters.notBoarded ++ u16 s.counters.aboard ++ u16 s.counters.ashore ++
        u16 s.counters.disembarked ++ u8 s.call.state.code ++ optional (fun k : CallKind => u8 k.code) s.call.kind ++
        u16 s.missing.length))) ∧
    (s.call.state = .atSea → exec (.readCall p tag) s = .next (s.answered p 0x0A#8 tag
      (Reply.ok (s.call.bytes ++ u16 s.missing.length ++ u16 s.counters.ashore ++ [0x00#8] ++ [0x00#8])))) ∧
    (s.call.state = .alongside → exec (.readCall p tag) s = .next (s.answered p 0x0A#8 tag
      (Reply.ok (s.call.bytes ++ u16 s.missing.length ++ u16 s.counters.ashore ++
        optional (fun t => u32 (t - s.shipTime)) s.call.allAboard ++ [0x00#8])))) ∧
    (s.call.state = .allAboard → exec (.readCall p tag) s = .next (s.answered p 0x0A#8 tag
      (Reply.ok (s.call.bytes ++ u16 s.missing.length ++ u16 s.counters.ashore ++ [0x00#8] ++
        optional (fun t => u32 (t - s.shipTime))
          (if s.call.closeMode = .timed ∧ s.call.closeHeld = false then s.call.closeTime else none))))) ∧
    (∀ l : Lane, exec (.readLane p tag (BitVec.ofNat 8 l.index)) s =
      .next (s.answered p 0x0C#8 tag (Reply.ok (s.lanes.get l).bytes))) ∧
    ∀ lane : Byte, 3 < lane.toNat →
      exec (.readLane p tag lane) s = .next (s.answered p 0x0C#8 tag (Reply.refuse .badField))

/-- NO-OP, READ PORT STATUS, READ SETTINGS and READ TIME; READ TIME clears the tick-seen flag, the others change no
record (R157, R173, R179). The codes of the profiles, the layout of the port's window, the sizes of the working options,
and the presence byte 0 for "no rollover lies within the range of ship time" are the model's choice: log 13. -/
def Obligations.DeviceReads : Prop :=
  (∀ (review : Bool) (folio serial number slot n cursor count : Nat) (gone : Bool) (start ending at' : Option Nat),
    (Window.chain review folio serial start ending at').bytes =
      [0x01#8] ++ u32 folio ++ [if review then 0x01#8 else 0x00#8] ++ u32 (start.getD 0) ++ optional u32 ending ++
        optional u32 at' ∧
    (Window.missing n ending cursor).bytes =
      [0x02#8] ++ u32 0 ++ [0x00#8] ++ u32 n ++ optional u32 ending ++ (0x01#8 :: u32 cursor) ∧
    (Window.history number slot n ending cursor count gone).bytes =
      [0x03#8] ++ u32 number ++ [0x00#8] ++ u32 n ++ optional u32 ending ++ (0x01#8 :: u32 cursor) ∧
    (Window.closures n ending cursor count).bytes =
      [0x04#8] ++ u32 0 ++ [0x00#8] ++ u32 n ++ optional u32 ending ++ (0x01#8 :: u32 cursor)) ∧
  ∀ (s : State) (p : Port) (tag : Byte), s.ready p →
    exec (.noOp p tag) s = .next (s.answered p 0x01#8 tag (Reply.ok [])) ∧
    exec (.readPortStatus p tag) s = .next (s.answered p 0x02#8 tag
      (Reply.ok (u8 p.index ++ u8 (s.ports.get p).profile.code ++ u8 s.ports.a0.profile.code ++
        u8 s.ports.a1.profile.code ++ u8 s.ports.a2.profile.code ++ u8 s.ports.a3.profile.code ++ [0x00#8] ++
        u8 (s.ports.get p).queue.length ++ u32 (s.ports.get p).mask.toNat ++ flag (s.ports.get p).lost ++
        optional Window.bytes (s.ports.get p).window))) ∧
    exec (.readSettings p tag) s = .next (s.answered p 0x0D#8 tag
      (Reply.ok (s.options.bytes ++ s.tariff.bytes ++ optional Tariff.bytes s.pendingTariff ++
        flag s.image.isSome ++ u8 s.store.code ++ flag s.loaded))) ∧
    exec (.readTime p tag) s = .next (({ s with tickSeen := false } : State).answered p 0x0B#8 tag
      (Reply.ok (u32 s.shipTime ++ u8 s.clock.code ++ flag s.tickSeen ++ u32 s.shipDay ++
        optional u32 (if s.nextRollover ≤ 4294967295 then some s.nextRollover else none) ++
        u8 s.options.rolloverHour ++ flag s.pendingTariff.isSome ++ u48 s.timer)))

/-! ## The roster (chapter 1) -/

/-- The lowest FREE slot of a table, or none (R1). ENROL CARDHOLDER: the checks of R5 in order, and the record of R6
in that slot; a guest joins its account's list and the NOT_BOARDED counter. The presence byte before the account
fields of the response is the model's reading: log 12. -/
def Obligations.Enrolment : Prop :=
  (∀ (t : Table Cardholder) (slots : Nat),
    (∀ slot, t.wf slots = true → t.freeSlot slots = some slot →
      slot < slots ∧ t.fetch slot = none ∧ ∀ j < slot, t.fetch j ≠ none) ∧
    (t.freeSlot slots = none → ∀ j < slots, t.fetch j ≠ none)) ∧
  ∀ (s : State) (p : Port) (tag : Byte) (card : BitVec 32) (kind : Byte) (folio : BitVec 32) (classMask : Byte)
    (deckMask : BitVec 32), s.readyAs p .purser →
    (card.toNat = 0 ∨ 2 < kind.toNat ∨ (kind = 0x02#8 ∧ 2 ^ 20 ≤ deckMask.toNat) →
      exec (.enrolCardholder p tag card kind folio classMask deckMask) s =
        .next (s.answered p 0x40#8 tag (Reply.refuse .badField))) ∧
    (card.toNat ≠ 0 →
      ((kind = 0x00#8 ∨ kind = 0x01#8) →
        ((s.findCard card.toNat).isSome = true →
          exec (.enrolCardholder p tag card kind folio classMask deckMask) s =
            .next (s.answered p 0x40#8 tag (Reply.refuse .duplicateCard))) ∧
        (s.findCard card.toNat = none → s.findFolio folio.toNat = none →
          exec (.enrolCardholder p tag card kind folio classMask deckMask) s =
            .next (s.answered p 0x40#8 tag (Reply.refuse .notFound))) ∧
        ∀ aslot a, s.findCard card.toNat = none → s.findFolio folio.toNat = some (aslot, a) →
          (a.state ≠ .opened → exec (.enrolCardholder p tag card kind folio classMask deckMask) s =
            .next (s.answered p 0x40#8 tag (Reply.refuse .slotState))) ∧
          (a.state = .opened → 8 ≤ a.holders.length →
            exec (.enrolCardholder p tag card kind folio classMask deckMask) s =
              .next (s.answered p 0x40#8 tag (Reply.refuse .accountFull))) ∧
          (a.state = .opened → a.holders.length < 8 → s.roster.freeSlot 8192 = none →
            exec (.enrolCardholder p tag card kind folio classMask deckMask) s =
              .next (s.answered p 0x40#8 tag (Reply.refuse .tableFull))) ∧
          ∀ slot, a.state = .opened → a.holders.length < 8 → s.roster.freeSlot 8192 = some slot →
            exec (.enrolCardholder p tag card kind folio classMask deckMask) s =
              .next ((({ s with counters := { s.counters with notBoarded := s.counters.notBoarded + 1 } } :
                State).withCard slot
                  { state := .active, card := card.toNat, gen := 0,
                    kind := if kind = 0x00#8 then .adult else .minor,
                    account := some { serial := a.serial, slot := aslot }, cabins := [], deckMask := 0,
                    classMask := classMask, capOffset := 0, spent := 0, spentDay := s.shipDay, held := 0,
                    presence := some .notBoarded, lastTransit := none, conflicts := 0 }).withAccount aslot
                  { a with holders := a.holders ++ [slot] } |>.answered p 0x40#8 tag
                (Reply.ok (u16 slot ++ (0x01#8 :: (u16 aslot ++ u8 (a.holders.length + 1))))))) ∧
      (kind = 0x02#8 → deckMask.toNat < 2 ^ 20 →
        ((s.findCard card.toNat).isSome = true →
          exec (.enrolCardholder p tag card kind folio classMask deckMask) s =
            .next (s.answered p 0x40#8 tag (Reply.refuse .duplicateCard))) ∧
        (s.findCard card.toNat = none → s.roster.freeSlot 8192 = none →
          exec (.enrolCardholder p tag card kind folio classMask deckMask) s =
            .next (s.answered p 0x40#8 tag (Reply.refuse .tableFull))) ∧
        ∀ slot, s.findCard card.toNat = none → s.roster.freeSlot 8192 = some slot →
          exec (.enrolCardholder p tag card kind folio classMask deckMask) s =
            .next ((s.withCard slot
              { state := .active, card := card.toNat, gen := 0, kind := .staff, account := none, cabins := [],
                deckMask := deckMask, classMask := 0, capOffset := 0, spent := 0, spentDay := 0, held := 0,
                presence := none, lastTransit := none, conflicts := 0 }).answered p 0x40#8 tag
              (Reply.ok (u16 slot ++ [0x00#8])))))

/-- SUSPEND and RESUME in every state found (R8). -/
def Obligations.SuspendAndResume : Prop :=
  ∀ (s : State) (p : Port) (tag : Byte) (card : BitVec 32), s.readyAs p .purser →
    (s.findCard card.toNat = none →
      exec (.suspend p tag card) s = .next (s.answered p 0x42#8 tag (Reply.refuse .notFound)) ∧
      exec (.resume p tag card) s = .next (s.answered p 0x43#8 tag (Reply.refuse .notFound))) ∧
    ∀ slot c, s.findCard card.toNat = some (slot, c) →
      (c.state = .active → exec (.suspend p tag card) s =
        .next ((s.withCard slot { c with state := .suspended }).answered p 0x42#8 tag
          (Reply.ok (u8 2 ++ u8 c.conflicts)))) ∧
      (c.state = .suspended → exec (.suspend p tag card) s =
        .next (s.answered p 0x42#8 tag (Reply.ok (u8 2 ++ u8 c.conflicts)))) ∧
      (c.state = .closed →
        exec (.suspend p tag card) s = .next (s.answered p 0x42#8 tag (Reply.refuse .slotState)) ∧
        exec (.resume p tag card) s = .next (s.answered p 0x43#8 tag (Reply.refuse .slotState))) ∧
      (c.state ≠ .closed → exec (.resume p tag card) s =
        .next ((s.withCard slot { c with state := .active, conflicts := 0 }).answered p 0x43#8 tag
          (Reply.ok (u8 1 ++ u8 0))))

/-- REISSUE CARD (R7), SET CLASS MASK and SET DECK MASK (R9), and PURGE CARDHOLDER (R10). The order of SET DECK
MASK's refusals is the model's choice: log 16. -/
def Obligations.CardLife : Prop :=
  ∀ (s : State) (p : Port) (tag : Byte) (card : BitVec 32), s.readyAs p .purser →
    (s.findCard card.toNat = none →
      exec (.reissueCard p tag card) s = .next (s.answered p 0x41#8 tag (Reply.refuse .notFound)) ∧
      exec (.purgeCardholder p tag card) s = .next (s.answered p 0x44#8 tag (Reply.refuse .notFound)) ∧
      (∀ mask, exec (.setClassMask p tag card mask) s = .next (s.answered p 0x45#8 tag (Reply.refuse .notFound))) ∧
      ∀ mask, exec (.setDeckMask p tag card mask) s = .next (s.answered p 0x46#8 tag (Reply.refuse .notFound))) ∧
    ∀ slot c, s.findCard card.toNat = some (slot, c) →
      (c.state = .closed →
        exec (.reissueCard p tag card) s = .next (s.answered p 0x41#8 tag (Reply.refuse .slotState)) ∧
        (∀ mask, exec (.setClassMask p tag card mask) s =
          .next (s.answered p 0x45#8 tag (Reply.refuse .slotState))) ∧
        ∀ mask, exec (.setDeckMask p tag card mask) s =
          .next (s.answered p 0x46#8 tag (Reply.refuse .slotState))) ∧
      (c.state ≠ .closed → c.gen = 255 →
        exec (.reissueCard p tag card) s = .next (s.answered p 0x41#8 tag (Reply.of .genLimit (u8 255)))) ∧
      (c.state ≠ .closed → c.gen < 255 →
        exec (.reissueCard p tag card) s = .next ((s.withCard slot { c with gen := c.gen + 1 }).answered p 0x41#8 tag
          (Reply.ok (u8 (c.gen + 1))))) ∧
      (c.state ≠ .closed → c.kind ≠ .staff → ∀ mask, exec (.setClassMask p tag card mask) s =
        .next ((s.withCard slot { c with classMask := mask }).answered p 0x45#8 tag (Reply.ok []))) ∧
      (c.kind = .staff → ∀ mask, exec (.setClassMask p tag card mask) s =
        .next (s.answered p 0x45#8 tag (Reply.refuse .slotState))) ∧
      (c.state ≠ .closed → c.kind = .staff → ∀ mask : BitVec 32,
        (mask.toNat < 2 ^ 20 → exec (.setDeckMask p tag card mask) s =
          .next ((s.withCard slot { c with deckMask := mask }).answered p 0x46#8 tag (Reply.ok []))) ∧
        (2 ^ 20 ≤ mask.toNat → exec (.setDeckMask p tag card mask) s =
          .next (s.answered p 0x46#8 tag (Reply.refuse .badField)))) ∧
      (c.kind ≠ .staff → ∀ mask, exec (.setDeckMask p tag card mask) s =
        .next (s.answered p 0x46#8 tag (Reply.refuse .slotState))) ∧
      (c.purgeable = false ∨ (∃ u ∈ s.unlocks, u.holder = slot) →
        exec (.purgeCardholder p tag card) s = .next (s.answered p 0x44#8 tag (Reply.refuse .slotState))) ∧
      ((∀ u ∈ s.unlocks, u.holder ≠ slot) →
        (c.kind = .staff → c.state = .suspended → c.presence = none → exec (.purgeCardholder p tag card) s =
          .next (({ s with roster := s.roster.remove slot } : State).answered p 0x44#8 tag (Reply.ok (u16 slot)))) ∧
        (c.kind ≠ .staff → c.state = .closed → c.presence = some .notBoarded →
          exec (.purgeCardholder p tag card) s =
            .next (({ s with
              roster := s.roster.remove slot
              counters := { s.counters with notBoarded := s.counters.notBoarded - 1 } } : State).answered p 0x44#8 tag
              (Reply.ok (u16 slot)))) ∧
        (c.kind ≠ .staff → c.state = .closed → c.presence = some .disembarked →
          exec (.purgeCardholder p tag card) s =
            .next (({ s with
              roster := s.roster.remove slot
              counters := { s.counters with disembarked := s.counters.disembarked - 1 } } : State).answered p 0x44#8
              tag (Reply.ok (u16 slot)))))

/-- Which records PURGE CARDHOLDER may free (R10), and the conflict report: the count rises to at most 15 and is
announced, and at the threshold an ACTIVE cardholder is suspended, announced after it (R11, R12). -/
def Obligations.ConflictReports : Prop :=
  (∀ c : Cardholder, c.purgeable = true ↔
    (c.kind = .staff ∧ c.state = .suspended) ∨
      (c.kind ≠ .staff ∧ c.state = .closed ∧ (c.presence = some .notBoarded ∨ c.presence = some .disembarked))) ∧
  ∀ (s : State) (slot : Nat) (c : Cardholder), s.roster.fetch slot = some c →
    (s.options.threshold ≠ 0 → s.options.threshold ≤ min 15 (c.conflicts + 1) → c.state = .active →
      s.reportConflict slot =
        ((s.withCard slot { c with conflicts := min 15 (c.conflicts + 1), state := .suspended }).raise purserAndWatch
          .cardAnomaly (some (.card c.card)) (some (min 15 (c.conflicts + 1) : Nat))).raise purserAndWatch
          .cardholderSuspended (some (.card c.card)) (some (min 15 (c.conflicts + 1) : Nat))) ∧
    (s.options.threshold = 0 ∨ min 15 (c.conflicts + 1) < s.options.threshold ∨ c.state ≠ .active →
      s.reportConflict slot =
        (s.withCard slot { c with conflicts := min 15 (c.conflicts + 1) }).raise purserAndWatch .cardAnomaly
          (some (.card c.card)) (some (min 15 (c.conflicts + 1) : Nat)))

/-- The lowest FREE account slot, or none (R1). OPEN ACCOUNT (R14), SET LIMIT and SET DEPOSIT (R15), SET PACKAGE and
SET MINOR RELEASE (R16). That SET LIMIT and SET DEPOSIT of an unknown folio number are answered NOT_FOUND for every
amount, one out of range included, is the model's choice of an order among the refusals of R15, as is BAD_FIELD before
NOT_FOUND of SET PACKAGE and of a flag byte: log 16. -/
def Obligations.AccountRequests : Prop :=
  (∀ (t : Table Account) (slots : Nat),
    (∀ slot, t.wf slots = true → t.freeSlot slots = some slot →
      slot < slots ∧ t.fetch slot = none ∧ ∀ j < slot, t.fetch j ≠ none) ∧
    (t.freeSlot slots = none → ∀ j < slots, t.fetch j ≠ none)) ∧
  ∀ (s : State) (p : Port) (tag : Byte) (folio : BitVec 32), s.readyAs p .purser →
    (∀ limit deposit : BitVec 32,
      (folio.toNat = 0 → exec (.openAccount p tag folio limit deposit) s =
        .next (s.answered p 0x50#8 tag (Reply.refuse .badField))) ∧
      (folio.toNat ≠ 0 → 50000000 < limit.toNat ∨ 99999999 < deposit.toNat →
        exec (.openAccount p tag folio limit deposit) s =
          .next (s.answered p 0x50#8 tag (Reply.refuse .amountRange))) ∧
      (folio.toNat ≠ 0 → limit.toNat ≤ 50000000 → deposit.toNat ≤ 99999999 →
        ((s.findFolio folio.toNat).isSome = true → exec (.openAccount p tag folio limit deposit) s =
          .next (s.answered p 0x50#8 tag (Reply.refuse .badField))) ∧
        (s.findFolio folio.toNat = none → s.nextSerial = 4294967296 ∨ s.accounts.freeSlot 4096 = none →
          exec (.openAccount p tag folio limit deposit) s =
            .next (s.answered p 0x50#8 tag (Reply.refuse .tableFull))) ∧
        ∀ slot, s.findFolio folio.toNat = none → s.nextSerial < 4294967296 → s.accounts.freeSlot 4096 = some slot →
          exec (.openAccount p tag folio limit deposit) s =
            .next ((({ s with nextSerial := s.nextSerial + 1 } : State).withAccount slot
              { state := .opened, folio := folio.toNat, serial := s.nextSerial, holders := [], limit := limit.toNat,
                deposit := deposit.toNat, package := 0, minorRelease := false, posted := 0, held := 0, settled := 0,
                first := none, last := none, count := 0, cursor := none }).answered p 0x50#8 tag
              (Reply.ok (u16 slot ++ u32 s.nextSerial))))) ∧
    (s.findFolio folio.toNat = none → ∀ amount : BitVec 32, ∀ b : Byte,
      exec (.setLimit p tag folio amount) s = .next (s.answered p 0x51#8 tag (Reply.refuse .notFound)) ∧
      exec (.setDeposit p tag folio amount) s = .next (s.answered p 0x52#8 tag (Reply.refuse .notFound)) ∧
      (b.toNat ≤ 15 → exec (.setPackage p tag folio b) s =
        .next (s.answered p 0x53#8 tag (Reply.refuse .notFound))) ∧
      (b.toNat ≤ 1 → exec (.setMinorRelease p tag folio b) s =
        .next (s.answered p 0x54#8 tag (Reply.refuse .notFound)))) ∧
    ∀ slot a, s.findFolio folio.toNat = some (slot, a) →
      (∀ amount : BitVec 32,
        (50000000 < amount.toNat → exec (.setLimit p tag folio amount) s =
          .next (s.answered p 0x51#8 tag (Reply.refuse .amountRange))) ∧
        (99999999 < amount.toNat → exec (.setDeposit p tag folio amount) s =
          .next (s.answered p 0x52#8 tag (Reply.refuse .amountRange))) ∧
        (amount.toNat ≤ 50000000 →
          (a.posted + a.held ≤ amount.toNat + a.deposit → exec (.setLimit p tag folio amount) s =
            .next ((s.withAccount slot { a with limit := amount.toNat }).answered p 0x51#8 tag
              (Reply.ok (i64 (amount.toNat + a.deposit - a.posted - a.held))))) ∧
          (amount.toNat + a.deposit < a.posted + a.held → exec (.setLimit p tag folio amount) s =
            .next (((s.withAccount slot { a with limit := amount.toNat }).raise purserPorts .overLimit
              (some (.folio a.folio)) (some (a.posted + a.held - (amount.toNat + a.deposit)))).answered p 0x51#8 tag
              (Reply.ok (i64 (amount.toNat + a.deposit - a.posted - a.held)))))) ∧
        (amount.toNat ≤ 99999999 →
          (a.posted + a.held ≤ a.limit + amount.toNat → exec (.setDeposit p tag folio amount) s =
            .next ((s.withAccount slot { a with deposit := amount.toNat }).answered p 0x52#8 tag
              (Reply.ok (i64 (a.limit + amount.toNat - a.posted - a.held))))) ∧
          (a.limit + amount.toNat < a.posted + a.held → exec (.setDeposit p tag folio amount) s =
            .next (((s.withAccount slot { a with deposit := amount.toNat }).raise purserPorts .overLimit
              (some (.folio a.folio)) (some (a.posted + a.held - (a.limit + amount.toNat)))).answered p 0x52#8 tag
              (Reply.ok (i64 (a.limit + amount.toNat - a.posted - a.held))))))) ∧
      ∀ b : Byte,
        (1 < b.toNat → exec (.setMinorRelease p tag folio b) s =
          .next (s.answered p 0x54#8 tag (Reply.refuse .badField))) ∧
        (b.toNat ≤ 15 → exec (.setPackage p tag folio b) s =
          .next ((s.withAccount slot { a with package := b.toNat }).answered p 0x53#8 tag (Reply.ok []))) ∧
        (15 < b.toNat → exec (.setPackage p tag folio b) s =
          .next (s.answered p 0x53#8 tag (Reply.refuse .badField))) ∧
        (b.toNat ≤ 1 → exec (.setMinorRelease p tag folio b) s =
          .next ((s.withAccount slot { a with minorRelease := decide (b = 0x01#8) }).answered p 0x54#8 tag
            (Reply.ok [])))

/-- The lowest cabin slot not defined, or none (R1). DEFINE CABIN (R18) and UNDEFINE CABIN (R19); undefining leaves no
item in a history window on the cabin and changes no other window (R176). That such a window stays open with its key,
marked ended, is the model's choice: log 31. -/
def Obligations.CabinsDefined : Prop :=
  (∀ (t : Table Cabin) (slots : Nat),
    (∀ slot, t.wf slots = true → t.freeSlot slots = some slot →
      slot < slots ∧ t.fetch slot = none ∧ ∀ j < slot, t.fetch j ≠ none) ∧
    (t.freeSlot slots = none → ∀ j < slots, t.fetch j ≠ none)) ∧
  ((∀ (s : State) (f : Window → Window), s.mapWindows f = { s with ports := (s.mapWindows f).ports } ∧
      ∀ p, (s.mapWindows f).ports.get p = { s.ports.get p with window := (s.ports.get p).window.map f }) ∧
    (∀ (slot number start : Nat) (ending : Option Nat) (cursor added : Nat) (gone : Bool),
      Window.cabinGone slot (.history number slot start ending cursor added gone) =
        .history number slot start ending cursor added true) ∧
    (∀ (slot : Nat) (w : Window), (∀ number start ending cursor added gone,
      w ≠ .history number slot start ending cursor added gone) → Window.cabinGone slot w = w) ∧
    ∀ (s : State) (slot number start : Nat) (ending : Option Nat) (cursor added : Nat),
      s.remaining (.history number slot start ending cursor added true) = []) ∧
  ∀ (s : State) (p : Port) (tag : Byte) (cabin : BitVec 16), s.readyAs p .purser →
    (∀ deck : Byte,
      (cabin.toNat = 0 ∨ deck.toNat = 0 ∨ 20 < deck.toNat → exec (.defineCabin p tag cabin deck) s =
        .next (s.answered p 0x60#8 tag (Reply.refuse .badField))) ∧
      (cabin.toNat ≠ 0 → 1 ≤ deck.toNat → deck.toNat ≤ 20 →
        ((s.findCabin cabin.toNat).isSome = true → exec (.defineCabin p tag cabin deck) s =
          .next (s.answered p 0x60#8 tag (Reply.refuse .badField))) ∧
        (s.findCabin cabin.toNat = none → s.cabins.freeSlot 3072 = none → exec (.defineCabin p tag cabin deck) s =
          .next (s.answered p 0x60#8 tag (Reply.refuse .tableFull))) ∧
        ∀ slot, s.findCabin cabin.toNat = none → s.cabins.freeSlot 3072 = some slot →
          exec (.defineCabin p tag cabin deck) s = .next ((s.withCabin slot
            { number := cabin.toNat, deck := deck.toNat, blocked := .none, privacy := false, grantees := [],
              history := [] }).answered p 0x60#8 tag (Reply.ok (u16 slot))))) ∧
    (s.findCabin cabin.toNat = none →
      exec (.undefineCabin p tag cabin) s = .next (s.answered p 0x61#8 tag (Reply.refuse .notFound))) ∧
    ∀ slot k, s.findCabin cabin.toNat = some (slot, k) →
      (k.grantees ≠ [] ∨ (∃ u ∈ s.unlocks, u.cabin = slot) →
        exec (.undefineCabin p tag cabin) s = .next (s.answered p 0x61#8 tag (Reply.refuse .slotState))) ∧
      (k.grantees = [] → (∀ u ∈ s.unlocks, u.cabin ≠ slot) →
        exec (.undefineCabin p tag cabin) s =
          .next ((({ s with cabins := s.cabins.remove slot } : State).mapWindows (Window.cabinGone slot)).answered p
            0x61#8 tag (Reply.ok [])))

/-- BLOCK CABIN and UNBLOCK CABIN from every value of the blocked field (R20). -/
def Obligations.CabinsBlocked : Prop :=
  ∀ (s : State) (p : Port) (tag : Byte) (cabin : BitVec 16), s.readyAs p .purser →
    (s.findCabin cabin.toNat = none →
      exec (.blockCabin p tag cabin) s = .next (s.answered p 0x65#8 tag (Reply.refuse .notFound)) ∧
      exec (.unblockCabin p tag cabin) s = .next (s.answered p 0x66#8 tag (Reply.refuse .notFound))) ∧
    ∀ slot k, s.findCabin cabin.toNat = some (slot, k) →
      (k.blocked = .none → exec (.blockCabin p tag cabin) s =
        .next ((s.withCabin slot { k with blocked := .maintenance }).answered p 0x65#8 tag (Reply.ok (u8 1)))) ∧
      (k.blocked = .maintenance → exec (.blockCabin p tag cabin) s =
        .next ((s.withCabin slot k).answered p 0x65#8 tag (Reply.ok (u8 1)))) ∧
      (k.blocked = .lockFault → exec (.blockCabin p tag cabin) s =
        .next ((s.withCabin slot k).answered p 0x65#8 tag (Reply.ok (u8 2)))) ∧
      exec (.unblockCabin p tag cabin) s =
        .next ((s.withCabin slot { k with blocked := .none }).answered p 0x66#8 tag (Reply.ok (u8 0)))

/-- GRANT CABIN (R22), REVOKE CABIN (R23) and REKEY CABIN (R24): both sides of the grant relation in one step. -/
def Obligations.CabinGrants : Prop :=
  ∀ (s : State) (p : Port) (tag : Byte) (card : BitVec 32) (cabin : BitVec 16), s.readyAs p .purser →
    (s.findCard card.toNat = none ∨ s.findCabin cabin.toNat = none →
      exec (.grantCabin p tag card cabin) s = .next (s.answered p 0x62#8 tag (Reply.refuse .notFound)) ∧
      exec (.revokeCabin p tag card cabin) s = .next (s.answered p 0x63#8 tag (Reply.refuse .notFound))) ∧
    (∀ slot c kslot k, s.findCard card.toNat = some (slot, c) → s.findCabin cabin.toNat = some (kslot, k) →
      (c.kind = .staff ∨ c.state = .closed →
        exec (.grantCabin p tag card cabin) s = .next (s.answered p 0x62#8 tag (Reply.refuse .slotState))) ∧
      (c.kind ≠ .staff → c.state ≠ .closed →
        (kslot ∈ c.cabins → exec (.grantCabin p tag card cabin) s =
          .next (s.answered p 0x62#8 tag (Reply.ok (u8 c.cabins.length ++ u8 k.grantees.length)))) ∧
        (kslot ∉ c.cabins → 4 ≤ c.cabins.length ∨ 8 ≤ k.grantees.length → exec (.grantCabin p tag card cabin) s =
          .next (s.answered p 0x62#8 tag (Reply.refuse .grantLimit))) ∧
        (kslot ∉ c.cabins → c.cabins.length < 4 → k.grantees.length < 8 → exec (.grantCabin p tag card cabin) s =
          .next (((s.withCard slot { c with cabins := c.cabins ++ [kslot] }).withCabin kslot
            { k with grantees := k.grantees ++ [slot] }).answered p 0x62#8 tag
            (Reply.ok (u8 (c.cabins.length + 1) ++ u8 (k.grantees.length + 1)))))) ∧
      (kslot ∉ c.cabins → exec (.revokeCabin p tag card cabin) s =
        .next (s.answered p 0x63#8 tag (Reply.ok (u8 c.cabins.length ++ u8 k.grantees.length)))) ∧
      (kslot ∈ c.cabins → exec (.revokeCabin p tag card cabin) s =
        .next (({ s with
          roster := s.roster.modify slot (fun x => { x with cabins := x.cabins.filter (fun y => y != kslot) })
          cabins := s.cabins.modify kslot (fun y => { y with
            grantees := y.grantees.filter (fun h => h != slot)
            privacy := if y.grantees.filter (fun h => h != slot) = [] then false else y.privacy }) } :
          State).answered p 0x63#8 tag
          (Reply.ok (u8 (c.cabins.filter (fun y => y != kslot)).length ++
            u8 (k.grantees.filter (fun h => h != slot)).length))))) ∧
    (s.findCabin cabin.toNat = none →
      exec (.rekeyCabin p tag cabin) s = .next (s.answered p 0x64#8 tag (Reply.refuse .notFound))) ∧
    ∀ kslot k, s.findCabin cabin.toNat = some (kslot, k) → s.cabins.fetch kslot = some k → s.tablesWf = true →
      ∃ r, exec (.rekeyCabin p tag cabin) s =
        .next (({ s with
          roster := r
          cabins := s.cabins.modify kslot (fun y => { y with
            grantees := []
            privacy := if y.grantees = [] then y.privacy else false }) } : State).answered p 0x64#8 tag
          (Reply.ok (u8 k.grantees.length))) ∧
        ∀ h, r.fetch h = if h ∈ k.grantees then
            (s.roster.fetch h).map (fun x => { x with cabins := x.cabins.filter (fun y => y != kslot) })
          else s.roster.fetch h

/-! ## Cabin access (chapter 2) -/

/-- ACCESS QUERY by a card that passes the checks of R33 and R34 or R35: a new entry with the counter's token, a
regrant that keeps token and place, or DENY_BUSY (R31, R36). The presence bytes of the groups in the response, that of
GRANT and that of kind and state, are the model's reading: log 12. -/
def Obligations.UnlocksGranted : Prop :=
  ∀ (s : State) (p : Port) (tag : Byte) (card : BitVec 32) (gen : Byte) (cabin : BitVec 16) (slot : Nat)
    (c : Cardholder) (kslot : Nat) (k : Cabin), s.readyAs p .access →
    s.findCard card.toNat = some (slot, c) → s.findCabin cabin.toNat = some (kslot, k) → c.gen = gen.toNat →
    c.state = .active →
    (c.kind ≠ .staff ∧ k.blocked = .none ∧ kslot ∈ c.cabins ∧ c.presence = some .aboard) ∨
      (c.kind = .staff ∧ hasDeck c.deckMask k.deck = true ∧ k.privacy = false) →
    (s.unlocks.find? (fun u => u.cabin == kslot) = none → s.unlocks.length < 64 →
      exec (.accessQuery p tag card gen cabin) s =
        .next (({ s with
          unlocks := s.unlocks ++
            [{ cabin := kslot, holder := slot, token := s.nextToken, port := p,
               deadline := s.timer + s.options.unlockDeadline * 1000 }]
          nextToken := if s.nextToken = 65535 then 1 else s.nextToken + 1 } : State).answered p 0x30#8 tag
          (Reply.ok (u8 0 ++ (0x01#8 :: (u16 s.nextToken ++ u16 (s.options.unlockDeadline * 1000) ++ [0x00#8])) ++
            (0x01#8 :: (u8 c.kind.code ++ u8 1)))))) ∧
    (∀ u, s.unlocks.find? (fun u => u.cabin == kslot) = some u → u.holder = slot →
      exec (.accessQuery p tag card gen cabin) s =
        .next (({ s with
          unlocks := s.unlocks.map (fun v => if v.cabin = kslot then
            { v with port := p, deadline := s.timer + s.options.unlockDeadline * 1000 } else v) } :
          State).answered p 0x30#8 tag
          (Reply.ok (u8 0 ++ (0x01#8 :: (u16 u.token ++ u16 (s.options.unlockDeadline * 1000) ++ [0x01#8])) ++
            (0x01#8 :: (u8 c.kind.code ++ u8 1)))))) ∧
    ((s.unlocks.find? (fun u => u.cabin == kslot) = none ∧ 64 ≤ s.unlocks.length) ∨
        (∃ u, s.unlocks.find? (fun u => u.cabin == kslot) = some u ∧ u.holder ≠ slot) →
      exec (.accessQuery p tag card gen cabin) s =
        .next ((s.addEvent kslot card.toNat (.denied .denyBusy)).answered p 0x30#8 tag
          (Reply.ok (u8 0x0B ++ [0x00#8] ++ (0x01#8 :: (u8 c.kind.code ++ u8 1))))))

/-- The refusals of ACCESS QUERY in the order of R33 to R35, each with its history event where the cabin is defined
(R38) and its side report (R37). The presence bytes of the groups in the response, that of GRANT and that of kind and
state, are the model's reading: log 12. -/
def Obligations.UnlocksDenied : Prop :=
  ∀ (s : State) (p : Port) (tag : Byte) (card : BitVec 32) (gen : Byte) (cabin : BitVec 16), s.readyAs p .access →
    (s.findCard card.toNat = none → exec (.accessQuery p tag card gen cabin) s =
      .next (s.answered p 0x30#8 tag (Reply.ok (u8 0x01 ++ [0x00#8] ++ [0x00#8])))) ∧
    ∀ slot c, s.findCard card.toNat = some (slot, c) →
      (s.findCabin cabin.toNat = none →
        (gen.toNat < c.gen → exec (.accessQuery p tag card gen cabin) s =
          .next (s.answered p 0x30#8 tag (denial .denySuperseded c))) ∧
        (c.gen < gen.toNat → exec (.accessQuery p tag card gen cabin) s =
          .next ((s.raise purserAndWatch .cardAnomaly (some (.card c.card)) none).answered p 0x30#8 tag
            (denial .denyGenAhead c))) ∧
        (c.gen = gen.toNat → c.state = .suspended → exec (.accessQuery p tag card gen cabin) s =
          .next (s.answered p 0x30#8 tag (denial .denySuspended c))) ∧
        (c.gen = gen.toNat → c.state = .closed → exec (.accessQuery p tag card gen cabin) s =
          .next (s.answered p 0x30#8 tag (denial .denyClosed c))) ∧
        (c.gen = gen.toNat → c.state = .active → exec (.accessQuery p tag card gen cabin) s =
          .next (s.answered p 0x30#8 tag (denial .denyNoCabin c)))) ∧
      ∀ kslot k, s.findCabin cabin.toNat = some (kslot, k) →
        (gen.toNat < c.gen → exec (.accessQuery p tag card gen cabin) s =
          .next ((s.addEvent kslot card.toNat (.denied .denySuperseded)).answered p 0x30#8 tag
            (denial .denySuperseded c))) ∧
        (c.gen < gen.toNat → exec (.accessQuery p tag card gen cabin) s =
          .next (((s.addEvent kslot card.toNat (.denied .denyGenAhead)).raise purserAndWatch .cardAnomaly
            (some (.card c.card)) none).answered p 0x30#8 tag (denial .denyGenAhead c))) ∧
        (c.gen = gen.toNat →
          (c.state = .suspended → exec (.accessQuery p tag card gen cabin) s =
            .next ((s.addEvent kslot card.toNat (.denied .denySuspended)).answered p 0x30#8 tag
              (denial .denySuspended c))) ∧
          (c.state = .closed → exec (.accessQuery p tag card gen cabin) s =
            .next ((s.addEvent kslot card.toNat (.denied .denyClosed)).answered p 0x30#8 tag
              (denial .denyClosed c))) ∧
          (c.state = .active → c.kind ≠ .staff →
            (k.blocked ≠ .none → exec (.accessQuery p tag card gen cabin) s =
              .next ((s.addEvent kslot card.toNat (.denied .denyBlocked)).answered p 0x30#8 tag
                (denial .denyBlocked c))) ∧
            (k.blocked = .none → kslot ∉ c.cabins → exec (.accessQuery p tag card gen cabin) s =
              .next ((s.addEvent kslot card.toNat (.denied .denyNotGranted)).answered p 0x30#8 tag
                (denial .denyNotGranted c))) ∧
            (k.blocked = .none → kslot ∈ c.cabins → c.presence ≠ some .aboard →
              exec (.accessQuery p tag card gen cabin) s =
                .next (((s.addEvent kslot card.toNat (.denied .denyPresence)).reportConflict slot).answered p 0x30#8
                  tag (denial .denyPresence c)))) ∧
          (c.state = .active → c.kind = .staff →
            (hasDeck c.deckMask k.deck = false → exec (.accessQuery p tag card gen cabin) s =
              .next ((s.addEvent kslot card.toNat (.denied .denyNotGranted)).answered p 0x30#8 tag
                (denial .denyNotGranted c))) ∧
            (hasDeck c.deckMask k.deck = true → k.privacy = true → exec (.accessQuery p tag card gen cabin) s =
              .next ((s.addEvent kslot card.toNat (.denied .denyPrivacy)).answered p 0x30#8 tag
                (denial .denyPrivacy c)))))

/-- LOCK REPORT: matched, TOKEN_MISMATCH and LATE, with the LOCK_FAULT and CABIN_FAULT of a JAMMED outcome (R40, R41,
R42); the end of a pending entry at its deadline (R43); and the event each adds to its cabin's history, which keeps 8
(R49) and raises by 1 the added count of a history window on the cabin and of no other window (R176). A deadline event
carries the timer to its instant, and one without an entry changes nothing: the model's choice, logs 4 and 7. -/
def Obligations.UnlocksEnd : Prop :=
  (∀ (s : State) (slot card : Nat) (r : HistoryResult),
      (∀ k, s.cabins.fetch slot = some k →
        (k.history.length < 8 → (s.addEvent slot card r).cabins.fetch slot =
          some { k with history := k.history ++ [{ time := s.shipTime, card := card, result := r }] }) ∧
        (8 ≤ k.history.length → (s.addEvent slot card r).cabins.fetch slot =
          some { k with history := k.history.drop 1 ++ [{ time := s.shipTime, card := card, result := r }] })) ∧
      (∀ other, other ≠ slot → (s.addEvent slot card r).cabins.fetch other = s.cabins.fetch other) ∧
      (s.addEvent slot card r) =
        { s with cabins := (s.addEvent slot card r).cabins, ports := (s.addEvent slot card r).ports } ∧
      ∀ p, (s.addEvent slot card r).ports.get p =
          { s.ports.get p with window := ((s.addEvent slot card r).ports.get p).window } ∧
        ((s.ports.get p).window = none → ((s.addEvent slot card r).ports.get p).window = none) ∧
        (∀ number start ending cursor added gone,
          (s.ports.get p).window = some (.history number slot start ending cursor added gone) →
          ((s.addEvent slot card r).ports.get p).window =
            some (.history number slot start ending cursor (added + 1) gone)) ∧
        ∀ w, (s.ports.get p).window = some w →
          (∀ number start ending cursor added gone, w ≠ .history number slot start ending cursor added gone) →
          ((s.addEvent slot card r).ports.get p).window = some w) ∧
  (∀ (s : State) (p : Port) (tag : Byte) (cabin token : BitVec 16) (outcome : Byte), s.readyAs p .access →
    (outcome.toNat = 0 ∨ 3 < outcome.toNat → exec (.lockReport p tag cabin token outcome) s =
      .next (s.answered p 0x31#8 tag (Reply.refuse .badField))) ∧
    ∀ result, lockOutcome outcome = some result →
      (s.findCabin cabin.toNat = none → exec (.lockReport p tag cabin token outcome) s =
        .next (s.answered p 0x31#8 tag (Reply.refuse .notFound))) ∧
      ∀ slot k, s.findCabin cabin.toNat = some (slot, k) →
        (∀ u, s.unlocks.find? (fun u => u.cabin == slot) = some u → u.token = token.toNat →
          (result ≠ .jammed → exec (.lockReport p tag cabin token outcome) s =
            .next ((({ s with unlocks := s.unlocks.filter (fun u => u.cabin != slot) } : State).addEvent slot
              ((s.cardNumber u.holder).getD 0) result).answered p 0x31#8 tag (Reply.ok (u8 k.blocked.code)))) ∧
          (result = .jammed → exec (.lockReport p tag cabin token outcome) s =
            .next ((((({ s with unlocks := s.unlocks.filter (fun u => u.cabin != slot) } : State).addEvent slot
              ((s.cardNumber u.holder).getD 0) .jammed).jam slot k.number token.toNat)).answered p 0x31#8 tag
              (Reply.ok (u8 2))))) ∧
        (∀ u, s.unlocks.find? (fun u => u.cabin == slot) = some u → u.token ≠ token.toNat →
          (result ≠ .jammed → exec (.lockReport p tag cabin token outcome) s =
            .next (s.answered p 0x31#8 tag (Reply.of .tokenMismatch (u8 k.blocked.code)))) ∧
          (result = .jammed → exec (.lockReport p tag cabin token outcome) s =
            .next ((s.jam slot k.number token.toNat).answered p 0x31#8 tag (Reply.of .tokenMismatch (u8 2))))) ∧
        (s.unlocks.find? (fun u => u.cabin == slot) = none →
          (result ≠ .jammed → exec (.lockReport p tag cabin token outcome) s =
            .next (s.answered p 0x31#8 tag (Reply.of .late (u8 k.blocked.code)))) ∧
          (result = .jammed → exec (.lockReport p tag cabin token outcome) s =
            .next ((s.jam slot k.number token.toNat).answered p 0x31#8 tag (Reply.of .late (u8 2)))))) ∧
  (∀ (s : State) (slot number token : Nat), s.jam slot number token =
    ({ s with cabins := s.cabins.modify slot (fun k => { k with blocked := .lockFault }) } : State).raise
      accessAndPurser .cabinFault (some (.cabin number)) (some (token : Int))) ∧
  ∀ (s : State) (slot : BitVec 16),
    (s.unlocks.find? (fun u => u.cabin == slot.toNat) = none → exec (.unlockDeadline slot) s = .next s) ∧
    ∀ u k, s.unlocks.find? (fun u => u.cabin == slot.toNat) = some u → s.cabins.fetch slot.toNat = some k →
      exec (.unlockDeadline slot) s =
        .next ((({ s with
          timer := max s.timer u.deadline
          unlocks := s.unlocks.filter (fun v => v.cabin != slot.toNat) } : State).addEvent slot.toNat
          ((s.cardNumber u.holder).getD 0) .unconfirmed).raiseTo u.port .accessUnconfirmed (some (.cabin k.number))
          (some (u.token : Int)))

/-- PRIVACY SET in every condition of R46, and PRIVACY CLEAR in every condition of R47. -/
def Obligations.PrivacyFlag : Prop :=
  ∀ (s : State) (p : Port) (tag : Byte) (cabin : BitVec 16), s.readyAs p .access →
    (s.findCabin cabin.toNat = none →
      exec (.privacySet p tag cabin) s = .next (s.answered p 0x32#8 tag (Reply.refuse .notFound)) ∧
      exec (.privacyClear p tag cabin) s = .next (s.answered p 0x33#8 tag (Reply.refuse .notFound))) ∧
    ∀ slot k, s.findCabin cabin.toNat = some (slot, k) →
      (k.grantees = [] → exec (.privacySet p tag cabin) s =
        .next (s.answered p 0x32#8 tag (Reply.refuse .slotState))) ∧
      (k.grantees ≠ [] → exec (.privacySet p tag cabin) s =
        .next ((s.withCabin slot { k with privacy := true }).answered p 0x32#8 tag (Reply.ok [0x01#8]))) ∧
      exec (.privacyClear p tag cabin) s =
        .next ((s.withCabin slot { k with privacy := false }).answered p 0x33#8 tag (Reply.ok [0x00#8]))

/-! ## Pricing (chapter 3) -/

/-- The effective daily cap: base and offset in steps, brought between floor and ceiling (R61). The four stages on a
tariff in its ranges: the formulas and bounds of R55 and R56, and shares that sum to the total, differ by at most 1 and
never rise (R57). -/
def Obligations.PricesAndShares : Prop :=
  (∀ (t : Tariff) (c : Cardholder), t.inRange = true →
      (t.capFloor : Int) ≤ effectiveCap t c ∧ effectiveCap t c ≤ t.capCeiling ∧
      (c.kind = .minor → t.capFloor ≤ t.minorBase + c.capOffset * t.capStep →
        t.minorBase + c.capOffset * t.capStep ≤ t.capCeiling →
        effectiveCap t c = t.minorBase + c.capOffset * t.capStep) ∧
      (c.kind = .adult → t.capFloor ≤ t.adultBase + c.capOffset * t.capStep →
        t.adultBase + c.capOffset * t.capStep ≤ t.capCeiling →
        effectiveCap t c = t.adultBase + c.capOffset * t.capStep) ∧
      (c.kind = .minor → t.minorBase + c.capOffset * t.capStep < t.capFloor → effectiveCap t c = t.capFloor) ∧
      (c.kind = .minor → t.capCeiling < t.minorBase + c.capOffset * t.capStep → effectiveCap t c = t.capCeiling) ∧
      (c.kind = .adult → t.adultBase + c.capOffset * t.capStep < t.capFloor → effectiveCap t c = t.capFloor) ∧
      (c.kind = .adult → t.capCeiling < t.adultBase + c.capOffset * t.capStep → effectiveCap t c = t.capCeiling)) ∧
  ∀ (t : Tariff) (cls package gross k : Nat), t.inRange = true → cls ≤ 7 → package ≤ 15 → gross ≤ 98999901 →
    1 ≤ k → k ≤ 4 →
    let x := t.price cls package gross k
    x.discountRate = t.discounts.getD (8 * package + cls) 0 ∧ x.serviceRate = t.rates.getD cls 0 ∧
    x.discount = (gross * x.discountRate + 5000) / 10000 ∧ x.discount ≤ gross ∧ x.net = gross - x.discount ∧
    x.service = (x.net * x.serviceRate + 5000) / 10000 ∧ x.service ≤ 24749975 ∧ x.total = x.net + x.service ∧
    x.total ≤ 123749876 ∧ x.shares.length = k ∧ x.shares.sum = x.total ∧
    ∀ i j, i ≤ j → j < k → x.shares.getD j 0 ≤ x.shares.getD i 0 ∧ x.shares.getD i 0 ≤ x.shares.getD j 0 + 1

/-- CAP UP, CAP DOWN (R63) and SET CAP OFFSET (R64), with SATURATED and CLAMPED. -/
def Obligations.CapOffsets : Prop :=
  ∀ (s : State) (p : Port) (tag : Byte) (card : BitVec 32) (offset : Byte), s.readyAs p .purser →
    (s.findCard card.toNat = none →
      exec (.capUp p tag card) s = .next (s.answered p 0x47#8 tag (Reply.refuse .notFound)) ∧
      exec (.capDown p tag card) s = .next (s.answered p 0x48#8 tag (Reply.refuse .notFound)) ∧
      exec (.setCapOffset p tag card offset) s = .next (s.answered p 0x49#8 tag (Reply.refuse .notFound))) ∧
    ∀ slot c, s.findCard card.toNat = some (slot, c) →
      (c.kind = .staff ∨ c.state = .closed →
        exec (.capUp p tag card) s = .next (s.answered p 0x47#8 tag (Reply.refuse .slotState)) ∧
        exec (.capDown p tag card) s = .next (s.answered p 0x48#8 tag (Reply.refuse .slotState)) ∧
        exec (.setCapOffset p tag card offset) s = .next (s.answered p 0x49#8 tag (Reply.refuse .slotState))) ∧
      (c.kind ≠ .staff → c.state ≠ .closed →
        (c.capOffset = 31 → exec (.capUp p tag card) s = .next (s.answered p 0x47#8 tag
          { Reply.ok (i8 31 ++ i32 (effectiveCap s.tariff c)) with saturated := true })) ∧
        (c.capOffset < 31 → exec (.capUp p tag card) s =
          .next ((s.withCard slot { c with capOffset := c.capOffset + 1 }).answered p 0x47#8 tag
            (Reply.ok (i8 (c.capOffset + 1) ++
              i32 (effectiveCap s.tariff { c with capOffset := c.capOffset + 1 }))))) ∧
        (c.capOffset = -32 → exec (.capDown p tag card) s = .next (s.answered p 0x48#8 tag
          { Reply.ok (i8 (-32) ++ i32 (effectiveCap s.tariff c)) with saturated := true })) ∧
        (-32 < c.capOffset → exec (.capDown p tag card) s =
          .next ((s.withCard slot { c with capOffset := c.capOffset - 1 }).answered p 0x48#8 tag
            (Reply.ok (i8 (c.capOffset - 1) ++
              i32 (effectiveCap s.tariff { c with capOffset := c.capOffset - 1 }))))) ∧
        (-32 ≤ offset.toInt → offset.toInt ≤ 31 → exec (.setCapOffset p tag card offset) s =
          .next ((s.withCard slot { c with capOffset := offset.toInt }).answered p 0x49#8 tag
            (Reply.ok (i8 offset.toInt ++ i32 (effectiveCap s.tariff { c with capOffset := offset.toInt }))))) ∧
        (offset.toInt < -32 → exec (.setCapOffset p tag card offset) s =
          .next ((s.withCard slot { c with capOffset := -32 }).answered p 0x49#8 tag
            { Reply.ok (i8 (-32) ++ i32 (effectiveCap s.tariff { c with capOffset := -32 })) with
              clamped := true })) ∧
        (31 < offset.toInt → exec (.setCapOffset p tag card offset) s =
          .next ((s.withCard slot { c with capOffset := 31 }).answered p 0x49#8 tag
            { Reply.ok (i8 31 ++ i32 (effectiveCap s.tariff { c with capOffset := 31 })) with clamped := true })))

/-- PRICE: the checks of R66 in order; a quote with the request's package, or with a named card's account's package,
cap and room, which changes no record (R67). The presence byte before the card's fields of the answer is the model's
reading: log 12. -/
def Obligations.PriceQuotes : Prop :=
  ∀ (s : State) (p : Port) (tag cls : Byte) (unit : BitVec 32) (qty k : Byte) (card : BitVec 32) (package : Byte),
    s.readyAs p .service →
    (7 < cls.toNat ∨ k.toNat = 0 ∨ 4 < k.toNat → exec (.price p tag cls unit qty k card package) s =
      .next (s.answered p 0x20#8 tag (Reply.refuse .badField))) ∧
    (cls.toNat ≤ 7 → 1 ≤ k.toNat → k.toNat ≤ 4 →
      (999999 < unit.toNat ∨ qty.toNat = 0 ∨ 99 < qty.toNat → exec (.price p tag cls unit qty k card package) s =
        .next (s.answered p 0x20#8 tag (Reply.refuse .amountRange))) ∧
      (unit.toNat ≤ 999999 → 1 ≤ qty.toNat → qty.toNat ≤ 99 →
        (card.toNat = 0 → 15 < package.toNat → exec (.price p tag cls unit qty k card package) s =
          .next (s.answered p 0x20#8 tag (Reply.refuse .badField))) ∧
        (card.toNat = 0 → package.toNat ≤ 15 → exec (.price p tag cls unit qty k card package) s =
          .next (s.answered p 0x20#8 tag (Reply.ok ((s.tariff.price cls.toNat package.toNat
            (unit.toNat * qty.toNat) k.toNat).bytes ++ [0x00#8])))) ∧
        (card.toNat ≠ 0 → s.findCard card.toNat = none → exec (.price p tag cls unit qty k card package) s =
          .next (s.answered p 0x20#8 tag (Reply.refuse .notFound))) ∧
        ∀ slot c, card.toNat ≠ 0 → s.findCard card.toNat = some (slot, c) →
          (c.kind = .staff ∨ s.accountOf c = none → exec (.price p tag cls unit qty k card package) s =
            .next (s.answered p 0x20#8 tag (Reply.refuse .slotState))) ∧
          ∀ aslot a, c.kind ≠ .staff → s.accountOf c = some (aslot, a) →
            exec (.price p tag cls unit qty k card package) s =
              .next (s.answered p 0x20#8 tag (Reply.ok ((s.tariff.price cls.toNat a.package
                (unit.toNat * qty.toNat) k.toNat).bytes ++
                (0x01#8 :: (i32 (effectiveCap s.tariff c) ++ u32 (c.spentToday s.shipDay) ++ u32 c.held ++
                  i32 (effectiveCap s.tariff c - c.spentToday s.shipDay - c.held))))))))

/-! ## Charges, holds, voids and adjustments (chapter 4) -/

/-- A CHARGE of one card that passes every check of R75 to R78 with a place in the log posts one entry, joins it to
the account's chain, moves the posted total and the cardholder's spent today (R70, R72, R79, R4); in a full log the
oldest entry, which is reclaimable, is freed for it (R73). -/
def Obligations.OneCardIsCharged : Prop :=
  ∀ (s : State) (p : Port) (tag : Byte) (outlet : BitVec 16) (cls : Byte) (unit : BitVec 32) (qty : Byte)
    (card : BitVec 32) (gen : Byte) (slot : Nat) (c : Cardholder) (aslot : Nat) (a : Account),
    s.readyAs p .service → outlet.toNat ≤ 1023 → cls.toNat ≤ 7 → unit.toNat ≤ 999999 → 1 ≤ qty.toNat →
    qty.toNat ≤ 99 → s.findCard card.toNat = some (slot, c) → c.gen = gen.toNat → c.state = .active →
    c.kind ≠ .staff → s.accountOf c = some (aslot, a) → a.state = .opened → c.presence = some .aboard →
    hasClass c.classMask cls.toNat = true → (c.kind = .minor → cls.toNat ≠ 2 ∧ cls.toNat ≠ 5) →
    let x := s.tariff.price cls.toNat a.package (unit.toNat * qty.toNat) 1
    (c.spentToday s.shipDay + c.held + x.total : Nat) ≤ effectiveCap s.tariff c →
    x.total ≤ a.limit + a.deposit - a.posted - a.held → s.nextSeq < 4294967296 → 1 ≤ s.places →
    exec (.charge p tag outlet cls unit qty [{ card := card, gen := gen }]) s =
      .next (({ s with
        log := linkFrom (if 131072 ≤ s.log.length then s.log.drop 1 else s.log) a.last s.nextSeq ++
          [{ seq := s.nextSeq, kind := .charge, state := .posted, serial := a.serial, link := none,
             amount := x.total, time := s.shipTime, day := s.shipDay,
             origin := some { holder := slot, port := p, outlet := outlet.toNat }, cls := cls.toNat,
             detail := some { gross := x.gross, discount := x.discount, service := x.service }, hold := none,
             split := none }]
        nextSeq := s.nextSeq + 1
        accounts := s.accounts.store aslot { a with
          posted := a.posted + x.total
          first := some (a.first.getD s.nextSeq)
          last := some s.nextSeq
          count := a.count + 1 }
        roster := s.roster.modify slot (fun y => { y with
          spent := (if y.spentDay = s.shipDay then y.spent else 0) + x.total
          spentDay := s.shipDay }) } : State).answered p 0x21#8 tag
        (Reply.ok (x.bytes ++ (u32 s.nextSeq ++ u32 x.total ++
          i64 (a.limit + a.deposit - (a.posted + x.total) - a.held)))))

/-- A CHARGE of 1 to 4 cards whose every share passes takes as many sequences as it names cards, its shares, those of
the pricing on the cards in listed order, sum to the priced total, and the sum of all posted totals it moves is that
total (R57, R71, R79). It leaves the posted + held of every account it reaches within L + D, and the spent today +
held sum of every cardholder it charges within its effective cap (R77). It posts the shares one after the other, each
with its response fields; each is its own entry of the log after, with the pricing detail on the first alone, its
split part, and the link to the next share on the same account (R70, R72). -/
def Obligations.EveryShareIsPosted : Prop :=
  (∀ (s : State) (p : Port) (outlet cls : Nat) (x : Priced) (first i : Nat) (rest : List Share) (y : Share)
    (a : Account), s.accounts.fetch y.account = some a →
    s.postShares p outlet cls x first [] i = (s, []) ∧
    let t : State := { s with
      log := linkFrom (if 131072 ≤ s.log.length then s.log.drop 1 else s.log) a.last s.nextSeq ++
        [{ seq := s.nextSeq, kind := .charge, state := .posted, serial := a.serial, link := none, amount := y.amount,
           time := s.shipTime, day := s.shipDay, origin := some { holder := y.holder, port := p, outlet := outlet },
           cls := cls,
           detail := if i = 1 then some { gross := x.gross, discount := x.discount, service := x.service } else none,
           hold := none, split := if 2 ≤ x.k then some { first := first, index := i, count := x.k } else none }]
      nextSeq := s.nextSeq + 1
      accounts := s.accounts.store y.account { a with
        posted := a.posted + y.amount
        first := some (a.first.getD s.nextSeq)
        last := some s.nextSeq
        count := a.count + 1
        cursor := if a.state = .settling ∧ a.cursor = none then some s.nextSeq else a.cursor }
      roster := s.roster.modify y.holder (fun c => { c with
        spent := (if c.spentDay = s.shipDay then c.spent else 0) + y.amount
        spentDay := s.shipDay }) }
    s.postShares p outlet cls x first (y :: rest) i =
      ((t.postShares p outlet cls x first rest (i + 1)).1,
        u32 s.nextSeq ++ u32 y.amount ++ i64 (a.limit + a.deposit - (a.posted + y.amount) - a.held) ++
          (t.postShares p outlet cls x first rest (i + 1)).2)) ∧
  ∀ (s : State) (p : Port) (tag : Byte) (outlet : BitVec 16) (cls : Byte) (unit : BitVec 32) (qty : Byte)
    (cards : List Presentation) (shares : List Share) (x : Priced),
    s.readyAs p .service → s.tablesWf = true → chargeBadField outlet.toNat cls.toNat cards = false →
    priceOutOfRange unit.toNat qty.toNat = false →
    s.authorize cls.toNat (unit.toNat * qty.toNat) cards.length cards 1 [] none = .passed shares (some x) →
    s.logRefusal cards.length = none →
    ∃ (t : State) (body : List Byte), exec (.charge p tag outlet cls unit qty cards) s = .next (t.answered p 0x21#8 tag
        (Reply.ok (x.bytes ++ body))) ∧
      t.nextSeq = s.nextSeq + cards.length ∧ shares.length = cards.length ∧
      (shares.map (·.amount)).sum = x.total ∧ x.k = cards.length ∧
      (t.accounts.map (fun e => e.2.posted)).sum = (s.accounts.map (fun e => e.2.posted)).sum + x.total ∧
      t.holds = s.holds ∧ t.cabins = s.cabins ∧ t.counters = s.counters ∧ t.missing = s.missing ∧ t.call = s.call ∧
      (t, body) = s.postShares p outlet.toNat cls.toNat x s.nextSeq shares 1 ∧
      (∀ y ∈ shares,
        (∃ a, t.accounts.fetch y.account = some a ∧ a.posted + a.held ≤ a.limit + a.deposit) ∧
        ∃ c, t.roster.fetch y.holder = some c ∧
          (c.spentToday s.shipDay + c.held : Nat) ≤ effectiveCap s.tariff c) ∧
      (∀ (n : Nat) (y : Presentation), cards[n]? = some y → ∃ (slot : Nat) (c : Cardholder) (aslot : Nat) (a : Account),
        s.findCard y.card.toNat = some (slot, c) ∧ s.accountOf c = some (aslot, a) ∧
        shares[n]? = some { holder := slot, account := aslot, amount := x.shares.getD n 0 } ∧
        (n = 0 → x = s.tariff.price cls.toNat a.package (unit.toNat * qty.toNat) cards.length)) ∧
      (s.ledgerOk → ∀ (n : Nat) (y : Share) (a : Account), shares[n]? = some y → s.accounts.fetch y.account = some a →
        ({ seq := s.nextSeq + n, kind := .charge, state := .posted, serial := a.serial,
           link := ((shares.drop (n + 1)).findIdx? (fun z => z.account == y.account)).map
             (fun j => s.nextSeq + (n + 1 + j)),
           amount := y.amount, time := s.shipTime, day := s.shipDay,
           origin := some { holder := y.holder, port := p, outlet := outlet.toNat }, cls := cls.toNat,
           detail := if n = 0 then some { gross := x.gross, discount := x.discount, service := x.service } else none,
           hold := none,
           split := if 2 ≤ cards.length then
               some { first := s.nextSeq, index := n + 1, count := cards.length }
             else none } : Entry) ∈ t.log)

/-- Checks 2 to 12 in order, each with its result and its effect, for a HOLD OPEN and for a CHARGE of one card (R76,
R77, R82), and check 1 (R75, R82). Then a CHARGE of 1 to 4 cards, presentation by presentation: the first that fails
declines the charge with its place in the list and no later one is looked at, and one that passes leads to the next
with its share, which check 12 of a later share on the same account counts in (R76, R77, R78). Check 13 of a CHARGE
that passes them, LOG_FULL with its notice, which names the account whose entry stops reclaim (R74, R78). A CHARGE
that is declined leaves every account, the log and the sequence counter as they stood, and every cardholder's spent
today, stamp and held sum (R74, R78); so does a declined HOLD OPEN, with the hold table (R82). The body of a decline
is the model's reading: log 15; that an exhausted counter is named before the places, and that a request with places
enough whose sequences would pass the counter's last is refused as at an exhausted counter, is the model's: log 17;
BAD_FIELD before AMOUNT_RANGE in check 1: log 16. -/
def Obligations.DeclinesMoveNoMoney : Prop :=
  (∀ (s : State) (p : Port) (tag : Byte) (outlet : BitVec 16) (cls : Byte), s.readyAs p .service →
    (∀ (unit : BitVec 32) (qty : Byte) (cards : List Presentation),
      (1023 < outlet.toNat ∨ 7 < cls.toNat ∨ cards = [] ∨ 4 < cards.length ∨ ¬ (cards.map (·.card)).Nodup →
        exec (.charge p tag outlet cls unit qty cards) s =
          .next (s.answered p 0x21#8 tag (Reply.of .badField [0x00#8, 0x00#8]))) ∧
      (outlet.toNat ≤ 1023 → cls.toNat ≤ 7 → cards ≠ [] → cards.length ≤ 4 → (cards.map (·.card)).Nodup →
        999999 < unit.toNat ∨ qty.toNat = 0 ∨ 99 < qty.toNat →
        exec (.charge p tag outlet cls unit qty cards) s =
          .next (s.answered p 0x21#8 tag (Reply.of .amountRange [0x00#8, 0x00#8])))) ∧
    ∀ (card : BitVec 32) (gen : Byte) (gross lifetime : BitVec 32),
      (1023 < outlet.toNat ∨ 7 < cls.toNat ∨ (1 ≤ lifetime.toNat ∧ lifetime.toNat ≤ 59) ∨ 86400 < lifetime.toNat →
        exec (.holdOpen p tag card gen outlet cls gross lifetime) s =
          .next (s.answered p 0x22#8 tag (Reply.of .badField [0x00#8, 0x00#8]))) ∧
      (outlet.toNat ≤ 1023 → cls.toNat ≤ 7 →
        lifetime.toNat = 0 ∨ (60 ≤ lifetime.toNat ∧ lifetime.toNat ≤ 86400) → 98999901 < gross.toNat →
        exec (.holdOpen p tag card gen outlet cls gross lifetime) s =
          .next (s.answered p 0x22#8 tag (Reply.of .amountRange [0x00#8, 0x00#8])))) ∧
  (∀ (s : State) (p : Port) (tag : Byte) (card : BitVec 32) (gen : Byte) (outlet : BitVec 16) (cls : Byte)
    (gross : Nat) (c : Instr) (code : Byte), s.readyAs p .service → outlet.toNat ≤ 1023 → cls.toNat ≤ 7 →
    (∃ amount lifetime : BitVec 32, c = .holdOpen p tag card gen outlet cls amount lifetime ∧ code = 0x22#8 ∧
        gross = amount.toNat ∧ gross ≤ 98999901 ∧
        (lifetime.toNat = 0 ∨ (60 ≤ lifetime.toNat ∧ lifetime.toNat ≤ 86400))) ∨
      (∃ (unit : BitVec 32) (qty : Byte), c = .charge p tag outlet cls unit qty [{ card := card, gen := gen }] ∧
        code = 0x21#8 ∧ gross = unit.toNat * qty.toNat ∧ unit.toNat ≤ 999999 ∧ 1 ≤ qty.toNat ∧ qty.toNat ≤ 99) →
    (s.findCard card.toNat = none →
      exec c s = .next (s.answered p code tag (Reply.of .cardUnknown [0x01#8, 0x00#8]))) ∧
    ∀ slot x, s.findCard card.toNat = some (slot, x) →
      (gen.toNat < x.gen →
        exec c s = .next (s.answered p code tag (Reply.of .cardSuperseded [0x01#8, 0x00#8]))) ∧
      (x.gen < gen.toNat →
        exec c s = .next ((s.raise purserAndWatch .cardAnomaly (some (.card card.toNat)) none).answered p code tag
          (Reply.of .cardGenAhead [0x01#8, 0x00#8]))) ∧
      (x.gen = gen.toNat → x.state = .suspended →
        exec c s = .next (s.answered p code tag (Reply.of .cardSuspended [0x01#8, 0x00#8]))) ∧
      (x.gen = gen.toNat → x.state = .closed →
        exec c s = .next (s.answered p code tag (Reply.of .cardClosed [0x01#8, 0x00#8]))) ∧
      (x.gen = gen.toNat → x.state = .active → x.kind = .staff →
        exec c s = .next (s.answered p code tag (Reply.of .noAccount [0x01#8, 0x00#8]))) ∧
      (x.gen = gen.toNat → x.state = .active → x.kind ≠ .staff → ∀ aslot a, s.accountOf x = some (aslot, a) →
        (a.state ≠ .opened →
          exec c s = .next (s.answered p code tag (Reply.of .accountNotOpen [0x01#8, 0x00#8]))) ∧
        (a.state = .opened →
          let priced := s.tariff.price cls.toNat a.package gross 1
          let body : List Byte := 0x01#8 :: 0x01#8 :: priced.bytes
          (x.presence ≠ some .aboard →
            exec c s = .next ((s.reportConflict slot).answered p code tag (Reply.of .presenceConflict body))) ∧
          (x.presence = some .aboard →
            (hasClass x.classMask cls.toNat = false ∨ (x.kind = .minor ∧ (cls.toNat = 2 ∨ cls.toNat = 5)) →
              exec c s = .next (s.answered p code tag (Reply.of .classDenied body))) ∧
            (hasClass x.classMask cls.toNat = true → (x.kind = .minor → cls.toNat ≠ 2 ∧ cls.toNat ≠ 5) →
              (effectiveCap s.tariff x < (x.spentToday s.shipDay + x.held + priced.total : Nat) →
                exec c s = .next (s.answered p code tag (Reply.of .overCap body))) ∧
              ((x.spentToday s.shipDay + x.held + priced.total : Nat) ≤ effectiveCap s.tariff x →
                a.limit + a.deposit - a.posted - a.held < priced.total →
                exec c s = .next (s.answered p code tag (Reply.of .overLimit body)))))))) ∧
  (∀ (s : State) (cls gross k i : Nat) (done : List Share) (priced : Option Priced),
    s.authorize cls gross k [] i done priced = .passed done priced ∧
    ∀ (y : Presentation) (rest : List Presentation),
      let verdict := s.authorize cls gross k (y :: rest) i done priced
      (s.findCard y.card.toNat = none → verdict = .declined i y.card.toNat .cardUnknown priced) ∧
      ∀ slot x, s.findCard y.card.toNat = some (slot, x) →
        (y.gen.toNat < x.gen → verdict = .declined i y.card.toNat .cardSuperseded priced) ∧
        (x.gen < y.gen.toNat → verdict = .declined i y.card.toNat .cardGenAhead priced) ∧
        (x.gen = y.gen.toNat →
          (x.state = .suspended → verdict = .declined i y.card.toNat .cardSuspended priced) ∧
          (x.state = .closed → verdict = .declined i y.card.toNat .cardClosed priced) ∧
          (x.state = .active → x.kind = .staff → verdict = .declined i y.card.toNat .noAccount priced) ∧
          (x.state = .active → x.kind ≠ .staff → ∀ aslot a, s.accountOf x = some (aslot, a) →
            (a.state ≠ .opened → verdict = .declined i y.card.toNat .accountNotOpen priced) ∧
            (a.state = .opened →
              let pr := priced.getD (s.tariff.price cls a.package gross k)
              let share := pr.shares.getD (i - 1) 0
              let passed := ((done.filter (fun d => d.account == aslot)).map (·.amount)).sum
              (x.presence ≠ some .aboard → verdict = .declined i y.card.toNat .presenceConflict (some pr)) ∧
              (x.presence = some .aboard →
                (hasClass x.classMask cls = false ∨ (x.kind = .minor ∧ (cls = 2 ∨ cls = 5)) →
                  verdict = .declined i y.card.toNat .classDenied (some pr)) ∧
                (hasClass x.classMask cls = true → (x.kind = .minor → cls ≠ 2 ∧ cls ≠ 5) →
                  (effectiveCap s.tariff x < (x.spentToday s.shipDay + x.held + share : Nat) →
                    verdict = .declined i y.card.toNat .overCap (some pr)) ∧
                  ((x.spentToday s.shipDay + x.held + share : Nat) ≤ effectiveCap s.tariff x →
                    (a.limit + a.deposit - a.posted - a.held < (share + passed : Nat) →
                      verdict = .declined i y.card.toNat .overLimit (some pr)) ∧
                    ((share + passed : Nat) ≤ a.limit + a.deposit - a.posted - a.held →
                      verdict = s.authorize cls gross k rest (i + 1)
                        (done ++ [{ holder := slot, account := aslot, amount := share }]) (some pr))))))))) ∧
  (∀ (s : State) (p : Port) (tag : Byte) (outlet : BitVec 16) (cls : Byte) (unit : BitVec 32) (qty : Byte)
    (cards : List Presentation), s.readyAs p .service → outlet.toNat ≤ 1023 → cls.toNat ≤ 7 → cards ≠ [] →
    cards.length ≤ 4 → (cards.map (·.card)).Nodup → unit.toNat ≤ 999999 → 1 ≤ qty.toNat → qty.toNat ≤ 99 →
    ∀ (i card : Nat) (r : Result) (priced : Option Priced),
      s.authorize cls.toNat (unit.toNat * qty.toNat) cards.length cards 1 [] none = .declined i card r priced →
      let reply := Reply.of r (u8 i ++ (match priced with
        | none => [0x00#8]
        | some x => 0x01#8 :: x.bytes))
      (r = .cardGenAhead → exec (.charge p tag outlet cls unit qty cards) s =
        .next ((s.raise purserAndWatch .cardAnomaly (some (.card card)) none).answered p 0x21#8 tag reply)) ∧
      (r = .presenceConflict → ∀ slot x, s.findCard card = some (slot, x) →
        exec (.charge p tag outlet cls unit qty cards) s =
          .next ((s.reportConflict slot).answered p 0x21#8 tag reply)) ∧
      (r ≠ .cardGenAhead → r ≠ .presenceConflict → exec (.charge p tag outlet cls unit qty cards) s =
        .next (s.answered p 0x21#8 tag reply))) ∧
  (∀ (s : State) (p : Port) (tag : Byte) (outlet : BitVec 16) (cls : Byte) (unit : BitVec 32) (qty : Byte)
    (cards : List Presentation) (shares : List Share) (x : Priced), s.readyAs p .service →
    chargeBadField outlet.toNat cls.toNat cards = false → priceOutOfRange unit.toNat qty.toNat = false →
    s.authorize cls.toNat (unit.toNat * qty.toNat) cards.length cards 1 [] none = .passed shares (some x) →
    (4294967296 ≤ s.nextSeq → exec (.charge p tag outlet cls unit qty cards) s =
      .next ((s.raise purserAndService .logFull none (some 0)).answered p 0x21#8 tag
        (Reply.of .logFull (0x00#8 :: 0x01#8 :: x.bytes)))) ∧
    (s.nextSeq < 4294967296 → s.places < cards.length →
      exec (.charge p tag outlet cls unit qty cards) s =
        .next ((s.raise purserAndService .logFull s.reclaimStop (some (s.places : Int))).answered p 0x21#8 tag
          (Reply.of .logFull (0x00#8 :: 0x01#8 :: x.bytes)))) ∧
    (s.nextSeq < 4294967296 → cards.length ≤ s.places → 4294967296 < s.nextSeq + cards.length →
      exec (.charge p tag outlet cls unit qty cards) s =
        .next ((s.raise purserAndService .logFull none (some 0)).answered p 0x21#8 tag
          (Reply.of .logFull (0x00#8 :: 0x01#8 :: x.bytes))))) ∧
  (∀ (s : State) (run rest : List Entry) (e : Entry), s.log = run ++ e :: rest →
    (∀ d ∈ run, s.reclaimable d = true) → s.reclaimable e = false →
    s.reclaimStop = (s.findSerial e.serial).map (fun y => Subject.folio y.2.folio)) ∧
  (∀ (s : State) (p : Port) (outlet : BitVec 16) (cls : Byte) (unit : BitVec 32) (qty : Byte)
    (cards : List Presentation), (serveCharge p outlet cls unit qty cards s).2.result ≠ .ok →
    (serveCharge p outlet cls unit qty cards s).1.accounts = s.accounts ∧
    (serveCharge p outlet cls unit qty cards s).1.log = s.log ∧
    (serveCharge p outlet cls unit qty cards s).1.nextSeq = s.nextSeq ∧
    ∀ i, ((serveCharge p outlet cls unit qty cards s).1.roster.fetch i).map (fun c => (c.spent, c.spentDay, c.held)) =
      (s.roster.fetch i).map (fun c => (c.spent, c.spentDay, c.held))) ∧
  ∀ (s : State) (p : Port) (card : BitVec 32) (gen : Byte) (outlet : BitVec 16) (cls : Byte)
    (gross lifetime : BitVec 32), (serveHoldOpen p card gen outlet cls gross lifetime s).2.result ≠ .ok →
    (serveHoldOpen p card gen outlet cls gross lifetime s).1.accounts = s.accounts ∧
    (serveHoldOpen p card gen outlet cls gross lifetime s).1.holds = s.holds ∧
    ∀ i, ((serveHoldOpen p card gen outlet cls gross lifetime s).1.roster.fetch i).map (fun c => (c.spent, c.held)) =
      (s.roster.fetch i).map (fun c => (c.spent, c.held))

/-- HOLD OPEN that passes every check of R82, with a FREE slot (R83) or with none, HOLDS_FULL; HOLD COMPLETE and HOLD
RELEASE of a LIVE hold and of a handle that names none (R84, R85, R86), with LOG_FULL at an exhausted counter or
without a place (R71, R74), and the oldest entry freed in a full log (R73). The presence byte of the pricing block in the
body of a decline is the model's reading: log 15. That HOLD COMPLETE at an exhausted counter is refused with no subject
and value 0 when no place is left either (an exhausted counter is named before the places) is the model's choice: log 17. -/
def Obligations.HoldRequests : Prop :=
  (∀ (s : State) (p : Port) (tag : Byte) (card : BitVec 32) (gen : Byte) (outlet : BitVec 16) (cls : Byte)
    (gross lifetime : BitVec 32) (slot : Nat) (c : Cardholder) (aslot : Nat) (a : Account),
    s.readyAs p .service → outlet.toNat ≤ 1023 → cls.toNat ≤ 7 → gross.toNat ≤ 98999901 →
    lifetime.toNat = 0 ∨ (60 ≤ lifetime.toNat ∧ lifetime.toNat ≤ 86400) →
    s.findCard card.toNat = some (slot, c) → c.gen = gen.toNat → c.state = .active → c.kind ≠ .staff →
    s.accountOf c = some (aslot, a) → a.state = .opened → c.presence = some .aboard →
    hasClass c.classMask cls.toNat = true → (c.kind = .minor → cls.toNat ≠ 2 ∧ cls.toNat ≠ 5) →
    let x := s.tariff.price cls.toNat a.package gross.toNat 1
    let expiry := min 4294967295
      (s.shipTime + if lifetime.toNat = 0 then s.options.holdLifetime else lifetime.toNat)
    (c.spentToday s.shipDay + c.held + x.total : Nat) ≤ effectiveCap s.tariff c →
    x.total ≤ a.limit + a.deposit - a.posted - a.held →
    ((∀ i, i < 256 → ∃ y h, s.holds.fetch i = some y ∧ y.live = some h) →
      exec (.holdOpen p tag card gen outlet cls gross lifetime) s =
        .next (s.answered p 0x22#8 tag (Reply.of .holdsFull (0x00#8 :: 0x01#8 :: x.bytes)))) ∧
    ∀ free, free < 256 → (s.holdSlot free).live = none → (∀ i, i < free → (s.holdSlot i).live ≠ none) →
    exec (.holdOpen p tag card gen outlet cls gross lifetime) s =
      .next (({ s with
        holds := s.holds.store free
          { reuse := ((s.holdSlot free).reuse + 1) % 256
            live := some { serial := a.serial, account := aslot, holder := slot, port := p, outlet := outlet.toNat,
                           cls := cls.toNat, amount := x.total, expiry := expiry } }
        accounts := s.accounts.modify aslot (fun b => { b with held := b.held + x.total })
        roster := s.roster.modify slot (fun b => { b with held := b.held + x.total }) } : State).answered p 0x22#8 tag
        (Reply.ok (u8 free ++ u8 (((s.holdSlot free).reuse + 1) % 256) ++ x.bytes ++ u32 expiry ++
          i64 (a.limit + a.deposit - a.posted - (a.held + x.total : Nat)))))) ∧
  ∀ (s : State) (p : Port) (tag slot reuse : Byte), s.readyAs p .service →
    (∀ gross : BitVec 32, 98999901 < gross.toNat → exec (.holdComplete p tag slot reuse gross) s =
      .next (s.answered p 0x23#8 tag (Reply.of .amountRange [0x00#8, 0x00#8]))) ∧
    (s.liveHold slot.toNat reuse.toNat = none →
      exec (.holdRelease p tag slot reuse) s = .next (s.answered p 0x24#8 tag (Reply.refuse .holdGone)) ∧
      ∀ gross : BitVec 32, gross.toNat ≤ 98999901 → exec (.holdComplete p tag slot reuse gross) s =
        .next (s.answered p 0x23#8 tag (Reply.of .holdGone [0x00#8, 0x00#8]))) ∧
    ∀ h, s.liveHold slot.toNat reuse.toNat = some h →
      (h.port ≠ p →
        exec (.holdRelease p tag slot reuse) s = .next (s.answered p 0x24#8 tag (Reply.refuse .notOwner)) ∧
        ∀ gross : BitVec 32, gross.toNat ≤ 98999901 → exec (.holdComplete p tag slot reuse gross) s =
          .next (s.answered p 0x23#8 tag (Reply.of .notOwner [0x00#8, 0x00#8]))) ∧
      (h.port = p →
        exec (.holdRelease p tag slot reuse) s =
          .next ((s.endHold slot.toNat h).answered p 0x24#8 tag (Reply.ok (u32 h.amount))) ∧
        ∀ (gross : BitVec 32) (a : Account), gross.toNat ≤ 98999901 → s.accounts.fetch h.account = some a →
          let x := s.tariff.price h.cls a.package gross.toNat 1
          (h.amount < x.total → exec (.holdComplete p tag slot reuse gross) s =
            .next (s.answered p 0x23#8 tag (Reply.of .overHold (u8 0 ++ (0x01#8 :: x.bytes))))) ∧
          (x.total ≤ h.amount → s.nextSeq = 4294967296 → exec (.holdComplete p tag slot reuse gross) s =
            .next ((s.raise purserAndService .logFull none (some 0)).answered p 0x23#8 tag
              (Reply.of .logFull (u8 0 ++ (0x01#8 :: x.bytes))))) ∧
          (x.total ≤ h.amount → s.nextSeq < 4294967296 → s.places = 0 →
            exec (.holdComplete p tag slot reuse gross) s =
              .next ((s.raise purserAndService .logFull s.reclaimStop (some 0)).answered p 0x23#8 tag
                (Reply.of .logFull (u8 0 ++ (0x01#8 :: x.bytes))))) ∧
          (x.total ≤ h.amount → s.nextSeq < 4294967296 → 1 ≤ s.places → a.state = .opened →
            exec (.holdComplete p tag slot reuse gross) s =
              .next (({ s.endHold slot.toNat h with
                log := linkFrom (if 131072 ≤ s.log.length then s.log.drop 1 else s.log) a.last s.nextSeq ++
                  [{ seq := s.nextSeq, kind := .charge, state := .posted, serial := a.serial, link := none,
                     amount := x.total, time := s.shipTime, day := s.shipDay,
                     origin := some { holder := h.holder, port := h.port, outlet := h.outlet }, cls := h.cls,
                     detail := some { gross := x.gross, discount := x.discount, service := x.service },
                     hold := some { slot := slot.toNat, reuse := reuse.toNat }, split := none }]
                nextSeq := s.nextSeq + 1
                accounts := (s.endHold slot.toNat h).accounts.store h.account { a with
                  held := a.held - h.amount
                  posted := a.posted + x.total
                  first := some (a.first.getD s.nextSeq)
                  last := some s.nextSeq
                  count := a.count + 1 }
                roster := (s.endHold slot.toNat h).roster.modify h.holder (fun y => { y with
                  spent := (if y.spentDay = s.shipDay then y.spent else 0) + x.total
                  spentDay := s.shipDay }) } : State).answered p 0x23#8 tag
                (Reply.ok (u32 s.nextSeq ++ u32 x.total ++ u32 h.amount ++
                  i64 (a.limit + a.deposit - (a.posted + x.total) - (a.held - h.amount : Nat)))))))

/-- What the end of a hold does (R85, R86, R87); its expiry, once ship time has reached it, announces it to its
port. An expiry event not due, or of a FREE slot, changes nothing: the model's choice, logs 6 and 7. -/
def Obligations.HoldsEnd : Prop :=
  ∀ (s : State) (slot : Byte) (x : HoldSlot) (h : Hold),
    (s.holds.fetch slot.toNat = none → exec (.holdExpiry slot) s = .next s) ∧
    (s.holds.fetch slot.toNat = some x → x.live = none → exec (.holdExpiry slot) s = .next s) ∧
    (s.holds.fetch slot.toNat = some x → x.live = some h →
      (s.shipTime < h.expiry → exec (.holdExpiry slot) s = .next s) ∧
      (h.expiry ≤ s.shipTime → exec (.holdExpiry slot) s =
        .next ((s.endHold slot.toNat h).raiseTo h.port .holdExpired
          (some (.handle { slot := slot.toNat, reuse := x.reuse })) (some (h.amount : Int)))) ∧
      (x.reuse ≠ 0 → s.endHold slot.toNat h =
        { s with
          holds := s.holds.store slot.toNat { x with live := none }
          accounts := s.accounts.modify h.account (fun a => { a with held := a.held - h.amount })
          roster := s.roster.modify h.holder (fun c => { c with held := c.held - h.amount }) }) ∧
      (x.reuse = 0 → s.endHold slot.toNat h =
        { s with
          holds := s.holds.remove slot.toNat
          accounts := s.accounts.modify h.account (fun a => { a with held := a.held - h.amount })
          roster := s.roster.modify h.holder (fun c => { c with held := c.held - h.amount }) }))

/-- VOID: the checks of R89 in order, and a group that passes them: it is voided and answered with its first sequence
and count, and each entry's sequence, amount and account's posted total after. Its entries become VOIDED, each
account's posted total falls by the amounts of its own entries of the group, a cardholder's spent today by those of
the present ship day and not below 0, and nothing else changes (R90). -/
def Obligations.GroupsAreVoided : Prop :=
  (∀ (s : State) (p : Port) (tag : Byte) (seq : BitVec 32) (outlet : BitVec 16), s.readyAs p .service →
    (1023 < outlet.toNat → exec (.void p tag seq outlet) s =
      .next (s.answered p 0x25#8 tag (Reply.refuse .badField))) ∧
    (outlet.toNat ≤ 1023 →
      (s.findEntry seq.toNat = none → exec (.void p tag seq outlet) s =
        .next (s.answered p 0x25#8 tag (Reply.refuse .notFound))) ∧
      ∀ e, s.findEntry seq.toNat = some e →
        (e.state ≠ .posted → exec (.void p tag seq outlet) s =
          .next (s.answered p 0x25#8 tag (Reply.refuse .entryState))) ∧
        (e.state = .posted → e.origin = none → exec (.void p tag seq outlet) s =
          .next (s.answered p 0x25#8 tag (Reply.refuse .notOwner))) ∧
        ∀ o, e.state = .posted → e.origin = some o →
          (o.port ≠ p ∨ o.outlet ≠ outlet.toNat → exec (.void p tag seq outlet) s =
            .next (s.answered p 0x25#8 tag (Reply.refuse .notOwner))) ∧
          (o.port = p → o.outlet = outlet.toNat →
            (s.options.voidWindow < s.shipTime - e.time → exec (.void p tag seq outlet) s =
              .next (s.answered p 0x25#8 tag (Reply.refuse .late))) ∧
            ∀ seqs : List Nat, s.shipTime - e.time ≤ s.options.voidWindow →
              (e.split = none → seqs = [e.seq]) →
              (∀ x, e.split = some x → seqs = (List.range x.count).map (fun i => x.first + i)) →
              ((∃ q ∈ seqs, ∀ d, s.findEntry q = some d → d.state ≠ .posted) → exec (.void p tag seq outlet) s =
                .next (s.answered p 0x25#8 tag (Reply.refuse .entryState))) ∧
              ∀ g : List Entry, g.map (·.seq) = seqs → (∀ d ∈ g, s.findEntry d.seq = some d ∧ d.state = .posted) →
                let share (serial : Nat) : Nat := ((g.filter (fun d => d.serial == serial)).map (·.amount)).sum
                ((∃ d ∈ g, ∀ slot a, s.findSerial d.serial = some (slot, a) → a.state ≠ .opened) →
                  exec (.void p tag seq outlet) s =
                    .next (s.answered p 0x25#8 tag (Reply.refuse .accountNotOpen))) ∧
                ((∀ d ∈ g, ∃ slot a, s.findSerial d.serial = some (slot, a) ∧ a.state = .opened) →
                  ((∃ d ∈ g, ∃ slot a, s.findSerial d.serial = some (slot, a) ∧
                      a.posted - share d.serial < -2000000000) →
                    exec (.void p tag seq outlet) s =
                      .next (s.answered p 0x25#8 tag (Reply.refuse .amountRange))) ∧
                  ((∀ d ∈ g, ∀ slot a, s.findSerial d.serial = some (slot, a) →
                      -2000000000 ≤ a.posted - share d.serial) →
                    exec (.void p tag seq outlet) s = .next ((s.voidAll g).answered p 0x25#8 tag
                      (Reply.ok (u32 (seqs.headD 0) ++ u8 g.length ++ itemsOf (fun d : Entry =>
                        u32 d.seq ++ u32 d.amount ++
                          i32 ((((s.voidAll g).findSerial d.serial).map (fun x => x.2.posted)).getD 0)) g)))))))) ∧
  ∀ (s : State) (g : List Entry),
    s.voidAll g =
      { s with log := (s.voidAll g).log, accounts := (s.voidAll g).accounts, roster := (s.voidAll g).roster } ∧
    (s.voidAll g).log = s.log.map (fun d => if d.seq ∈ g.map (·.seq) then { d with state := .voided } else d) ∧
    (∀ i, (s.voidAll g).accounts.fetch i = (s.accounts.fetch i).map (fun a => { a with
      posted := a.posted -
        ((g.filter (fun d => (s.findSerial d.serial).map (·.1) == some i)).map (·.amount)).sum })) ∧
    ∀ i, (s.voidAll g).roster.fetch i = (s.roster.fetch i).map (fun c => { c with
      spent := c.spent -
        ((g.filter (fun d => d.day == s.shipDay && d.origin.map (·.holder) == some i)).map (·.amount)).sum })

/-- ADJUST: the checks of R92 in order, and its entry, which carries no cardholder, port, outlet, detail, hold or
split, joins the chain and moves the posted total alone (R70, R72); in SETTLING a cursor at the chain's end takes
the entry (R98). Without a place, or at an exhausted counter, it is refused LOG_FULL with its notice (R71, R74); that an
exhausted counter is named, with no subject and value 0, when no place is left either is the model's choice: log 17.
Before them, the places of the log (R73) and the link an append writes (R72). -/
def Obligations.Adjustments : Prop :=
  ((∀ (s : State) (e : Entry), s.reclaimable e = true ↔
      e.state ≠ .posted ∧ ∀ i a, (i, a) ∈ s.accounts → a.serial ≠ e.serial) ∧
    (∀ (s : State) (run rest : List Entry), s.log = run ++ rest → s.log.length ≤ 131072 →
      (∀ e ∈ run, s.reclaimable e = true) → (∀ e, rest.head? = some e → s.reclaimable e = false) →
      s.places + s.log.length = 131072 + run.length) ∧
    (∀ (log : List Entry) (seq : Nat), linkFrom log none seq = log) ∧
    ∀ (log : List Entry) (q seq : Nat),
      linkFrom log (some q) seq = log.map (fun e => if e.seq = q then { e with link := some seq } else e)) ∧
  ∀ (s : State) (p : Port) (tag : Byte) (folio : BitVec 32) (kind : Byte) (amount : BitVec 32),
    s.readyAs p .purser →
    (1 < kind.toNat → exec (.adjust p tag folio kind amount) s =
      .next (s.answered p 0x55#8 tag (Reply.refuse .badField))) ∧
    ∀ k, EntryKind.ofCode kind = some k →
      (amount.toNat = 0 ∨ 99999999 < amount.toNat → exec (.adjust p tag folio kind amount) s =
        .next (s.answered p 0x55#8 tag (Reply.refuse .amountRange))) ∧
      (1 ≤ amount.toNat → amount.toNat ≤ 99999999 →
        (s.findFolio folio.toNat = none → exec (.adjust p tag folio kind amount) s =
          .next (s.answered p 0x55#8 tag (Reply.refuse .notFound))) ∧
        ∀ slot a, s.findFolio folio.toNat = some (slot, a) → s.accounts.fetch slot = some a →
          (a.state = .settled → exec (.adjust p tag folio kind amount) s =
            .next (s.answered p 0x55#8 tag (Reply.refuse .accountSettled))) ∧
          (a.state ≠ .settled →
            ((k = .charge ∧ 2000000000 < a.posted + a.held + amount.toNat) ∨
                (k = .credit ∧ a.posted - amount.toNat < -2000000000) →
              exec (.adjust p tag folio kind amount) s =
                .next (s.answered p 0x55#8 tag (Reply.refuse .amountRange))) ∧
            ((k = .charge → a.posted + a.held + amount.toNat ≤ 2000000000) →
              (k = .credit → -2000000000 ≤ a.posted - amount.toNat) →
              (s.nextSeq = 4294967296 → exec (.adjust p tag folio kind amount) s =
                .next ((s.raise purserAndService .logFull none (some 0)).answered p 0x55#8 tag
                  (Reply.refuse .logFull))) ∧
              (s.nextSeq < 4294967296 → s.places = 0 → exec (.adjust p tag folio kind amount) s =
                .next ((s.raise purserAndService .logFull s.reclaimStop (some 0)).answered p 0x55#8 tag
                  (Reply.refuse .logFull))) ∧
              (s.nextSeq < 4294967296 → 1 ≤ s.places →
                let x : Int := if k = .charge then (amount.toNat : Int) else -(amount.toNat : Int)
                exec (.adjust p tag folio kind amount) s =
                  .next (({ s with
                    log := linkFrom (if 131072 ≤ s.log.length then s.log.drop 1 else s.log) a.last s.nextSeq ++
                      [{ seq := s.nextSeq, kind := k, state := .posted, serial := a.serial, link := none,
                         amount := amount.toNat, time := s.shipTime, day := s.shipDay, origin := none, cls := 7,
                         detail := none, hold := none, split := none }]
                    nextSeq := s.nextSeq + 1
                    accounts := s.accounts.store slot { a with
                      posted := a.posted + x
                      first := some (a.first.getD s.nextSeq)
                      last := some s.nextSeq
                      count := a.count + 1
                      cursor := if a.state = .settling ∧ a.cursor = none then some s.nextSeq else a.cursor } } :
                    State).answered p 0x55#8 tag
                    (Reply.ok (u32 s.nextSeq ++ i32 (a.posted + x) ++
                      i64 (a.limit + a.deposit - a.posted - a.held - x))))))))

/-! ## Settlement and closure (chapter 5) -/

/-- SETTLE BEGIN (R97) and REOPEN (R103). The layout of their responses is the model's choice: log 14. -/
def Obligations.SettlementsBeginAndReopen : Prop :=
  ∀ (s : State) (p : Port) (tag : Byte) (folio : BitVec 32), s.readyAs p .purser →
    (s.findFolio folio.toNat = none →
      exec (.settleBegin p tag folio) s = .next (s.answered p 0x56#8 tag (Reply.refuse .notFound)) ∧
      exec (.reopen p tag folio) s = .next (s.answered p 0x58#8 tag (Reply.refuse .notFound))) ∧
    ∀ slot a, s.findFolio folio.toNat = some (slot, a) →
      (a.state ≠ .opened → exec (.settleBegin p tag folio) s =
        .next (s.answered p 0x56#8 tag (Reply.refuse .slotState))) ∧
      (a.state = .opened → s.liveHolds a.serial ≠ 0 → exec (.settleBegin p tag folio) s =
        .next (s.answered p 0x56#8 tag (Reply.of .holdsOpen (u16 (s.liveHolds a.serial))))) ∧
      (a.state = .opened → s.liveHolds a.serial = 0 →
        (∀ q, a.first = some q → exec (.settleBegin p tag folio) s =
          .next ((s.withAccount slot { a with state := .settling, cursor := some q }).answered p 0x56#8 tag
            (Reply.ok (i32 a.posted ++ i32 a.settled ++ u32 a.count ++ (0x01#8 :: u32 q))))) ∧
        (a.first = none → exec (.settleBegin p tag folio) s =
          .next ((s.withAccount slot { a with state := .settling, cursor := none }).answered p 0x56#8 tag
            { Reply.ok (i32 a.posted ++ i32 a.settled ++ u32 a.count ++ [0x00#8]) with ended := true }))) ∧
      (a.state = .opened → exec (.reopen p tag folio) s =
        .next (s.answered p 0x58#8 tag (Reply.refuse .slotState))) ∧
      (a.state ≠ .opened → a.posted + a.held ≤ a.limit + a.deposit → exec (.reopen p tag folio) s =
        .next ((s.withAccount slot { a with state := .opened, cursor := none }).answered p 0x58#8 tag
          (Reply.ok (i32 a.posted ++ i32 a.settled ++ i64 (a.limit + a.deposit - a.posted - a.held))))) ∧
      (a.state ≠ .opened → a.limit + a.deposit < a.posted + a.held → exec (.reopen p tag folio) s =
        .next (((s.withAccount slot { a with state := .opened, cursor := none }).raise purserPorts .overLimit
          (some (.folio a.folio)) (some (a.posted + a.held - (a.limit + a.deposit)))).answered p 0x58#8 tag
          (Reply.ok (i32 a.posted ++ i32 a.settled ++ i64 (a.limit + a.deposit - a.posted - a.held)))))

/-- SETTLE STEP in every state (R102) and, on a SETTLING account, one walk: posted and settled totals keep their sum,
entries only go from POSTED to SETTLED, and the account becomes SETTLED exactly when MORE is clear (R100, R101). Over
a run of at most 32 entries from the cursor along the links, exactly its POSTED entries become SETTLED and their
signed amounts move; the step ends at the chain's end, after 32 entries with the cursor at the next, or at the first
entry whose settling would leave the range, which stays POSTED (R100, R101). The layout of its response is the model's
choice: log 14. -/
def Obligations.SettlementWalks : Prop :=
  ∀ (s : State) (p : Port) (tag : Byte) (folio : BitVec 32), s.readyAs p .purser →
    (s.findFolio folio.toNat = none →
      exec (.settleStep p tag folio) s = .next (s.answered p 0x57#8 tag (Reply.refuse .notFound))) ∧
    ∀ slot a, s.findFolio folio.toNat = some (slot, a) →
      (a.state = .opened → exec (.settleStep p tag folio) s =
        .next (s.answered p 0x57#8 tag (Reply.refuse .slotState))) ∧
      (a.state = .settled → exec (.settleStep p tag folio) s =
        .next (s.answered p 0x57#8 tag (Reply.ok (u8 0 ++ u8 3 ++ i32 a.posted ++ i32 a.settled)))) ∧
      (a.state = .settling → a.cursor = none → exec (.settleStep p tag folio) s =
        .next ((s.withAccount slot { a with state := .settled }).answered p 0x57#8 tag
          (Reply.ok (u8 0 ++ u8 3 ++ i32 a.posted ++ i32 a.settled)))) ∧
      (a.state = .settling → s.logOk = true →
        ∃ (log : List Entry) (b : Account) (r : Reply),
          exec (.settleStep p tag folio) s =
            .next (({ s with log := log, accounts := s.accounts.store slot b } : State).answered p 0x57#8 tag r) ∧
          b = { a with state := b.state, posted := b.posted, settled := b.settled, cursor := b.cursor } ∧
          b.posted + b.settled = a.posted + a.settled ∧
          List.Forall₂ (fun d e => e = d ∨ (d.state = .posted ∧ e = { d with state := .settled })) s.log log ∧
          (r.more = false → r.result = .ok ∧ b.state = .settled ∧ b.cursor = none) ∧
          (r.more = true → b.state = .settling ∧ b.cursor ≠ none ∧ (r.result = .ok ∨ r.result = .amountRange))) ∧
      ∀ (run : List Entry) (next : Option Nat), a.state = .settling → run.length ≤ 32 → (run.map (·.seq)).Nodup →
        (∀ e ∈ run, s.findEntry e.seq = some e) →
        a.cursor :: run.map (·.link) = run.map (fun e => some e.seq) ++ [next] →
        let moved (l : List Entry) : Int := ((l.filter (fun e => e.state == .posted)).map Entry.signed).sum
        let fits (x : Int) : Prop := -2000000000 ≤ a.posted - x ∧ a.posted - x ≤ 2000000000 ∧
          -2000000000 ≤ a.settled + x ∧ a.settled + x ≤ 2000000000
        (∀ n e, run[n]? = some e → e.state = .posted → fits (moved (run.take (n + 1)))) →
        let log := s.log.map (fun d =>
          if d.seq ∈ (run.filter (fun e => e.state == .posted)).map (·.seq) then { d with state := .settled } else d)
        let b : Account :=
          { a with posted := a.posted - moved run, settled := a.settled + moved run, cursor := next }
        (next = none → exec (.settleStep p tag folio) s =
          .next (({ s with log := log, accounts := s.accounts.store slot { b with state := .settled } } :
            State).answered p 0x57#8 tag (Reply.ok (u8 run.length ++ u8 3 ++ i32 b.posted ++ i32 b.settled)))) ∧
        (∀ q, next = some q → run.length = 32 → exec (.settleStep p tag folio) s =
          .next (({ s with log := log, accounts := s.accounts.store slot b } : State).answered p 0x57#8 tag
            { Reply.ok (u8 32 ++ u32 q ++ i32 b.posted ++ i32 b.settled) with more := true })) ∧
        ∀ q e, next = some q → run.length < 32 → q ∉ run.map (·.seq) → s.findEntry q = some e → e.state = .posted →
          ¬ fits (moved run + e.signed) → exec (.settleStep p tag folio) s =
            .next (({ s with log := log, accounts := s.accounts.store slot b } : State).answered p 0x57#8 tag
              { Reply.of .amountRange (u8 run.length ++ u32 q) with more := true })

/-- CLOSE: its checks in order (R105); what a close that passes leaves: the summary of the account as it stood at the
newest end of the queue, the slot FREE, the listed cardholders CLOSED without cabins, the cabins without them (R106,
R108, R25). TAKE CLOSURE (R109), which raises by 1 the taken count of every window on the queue and changes no other
window (R176). -/
def Obligations.AccountsCloseIntoSummaries : Prop :=
  (∀ (s : State) (p : Port) (tag : Byte) (folio : BitVec 32), s.readyAs p .purser →
    (s.findFolio folio.toNat = none →
      exec (.close p tag folio) s = .next (s.answered p 0x59#8 tag (Reply.refuse .notFound))) ∧
    ∀ slot a, s.findFolio folio.toNat = some (slot, a) →
      (a.state ≠ .settled → exec (.close p tag folio) s =
        .next (s.answered p 0x59#8 tag (Reply.refuse .slotState))) ∧
      (a.state = .settled → 32 ≤ s.closures.length → exec (.close p tag folio) s =
        .next (s.answered p 0x59#8 tag (Reply.refuse .queueFull))) ∧
      (a.state = .settled → s.closures.length < 32 → s.grantsOk →
        ∃ (roster : Table Cardholder) (cabins : Table Cabin),
          exec (.close p tag folio) s =
            .next (({ s with
              roster := roster
              cabins := cabins
              accounts := s.accounts.remove slot
              closures := s.closures ++
                [{ folio := a.folio, serial := a.serial, settled := a.settled, deposit := a.deposit,
                   balance := a.settled - a.deposit, count := a.count, first := a.first, last := a.last,
                   time := s.shipTime, cards := s.cardNumbers a.holders }] } : State).answered p 0x59#8 tag
              (Reply.ok (u8 (s.closures.length + 1) ++ u32 a.folio ++ u32 a.serial ++ i32 a.settled ++
                i32 (a.settled - a.deposit)))) ∧
          (∀ h, roster.fetch h = if h ∈ a.holders then
              (s.roster.fetch h).map (fun c => { c with state := .closed, cabins := [] })
            else s.roster.fetch h) ∧
          ∀ k, cabins.fetch k = (s.cabins.fetch k).map (fun r => { r with
            grantees := r.grantees.filter (fun h => decide (h ∉ a.holders))
            privacy := r.privacy && !(r.grantees.filter (fun h => decide (h ∉ a.holders))).isEmpty }))) ∧
  ∀ (s : State) (p : Port) (tag : Byte), s.readyAs p .purser →
    (s.closures = [] → exec (.takeClosure p tag) s = .next (s.answered p 0x5A#8 tag (Reply.refuse .empty))) ∧
    ∀ x rest, s.closures = x :: rest → exec (.takeClosure p tag) s =
      .next ((({ s with closures := rest } : State).mapWindows Window.closureTaken).answered p 0x5A#8 tag
        (Reply.ok (x.bytes ++ u8 rest.length))) ∧
      ∀ q, ((({ s with closures := rest } : State).mapWindows Window.closureTaken).ports.get q) =
          { s.ports.get q with window := (s.ports.get q).window.map Window.closureTaken } ∧
        (∀ start ending cursor taken, Window.closureTaken (.closures start ending cursor taken) =
          .closures start ending cursor (taken + 1)) ∧
        ∀ w, (∀ start ending cursor taken, w ≠ .closures start ending cursor taken) → Window.closureTaken w = w

/-! ## Gangway lanes (chapter 6) -/

/-- A complete message on a lane: not received in LOOP (R128); CRC and FORMAT faults (R118, R119); a valid read is
taken, held or discarded as an OVERRUN (R121), and a read taken is answered STOP/HALTED, as its repeat record,
STOP/WRONG_LANE, or as the Presence Unit decides (R123, R124). That the command carries the complete message, and the
receiver is IDLE after it whatever it held, is the model's choice: log 11. -/
def Obligations.ReadMessagesAreAnswered : Prop :=
  ∀ (s : State) (l : Lane) (kind : Byte) (card : BitVec 32) (gen direction seq : Byte) (crc : BitVec 16),
    ((s.lanes.get l).mode = .loop → exec (.readMessage l kind card gen direction seq crc) s = .next s) ∧
    ((s.lanes.get l).mode ≠ .loop →
      (crc ≠ crc16 ([0xA6#8, kind] ++ leBytes 4 card.toNat ++ [gen, direction, seq]) →
        exec (.readMessage l kind card gen direction seq crc) s = .next (s.modLane l (fun x => x.fault .crc))) ∧
      (crc = crc16 ([0xA6#8, kind] ++ leBytes 4 card.toNat ++ [gen, direction, seq]) →
        (kind ≠ 0x01#8 ∨ direction.toNat = 0 ∨ 2 < direction.toNat →
          exec (.readMessage l kind card gen direction seq crc) s = .next (s.modLane l (fun x => x.fault .format))) ∧
        ∀ dir, kind = 0x01#8 → Direction.ofCode direction = some dir →
          let r : LaneRead := { card := card.toNat, gen := gen.toNat, dir := dir, seq := seq.toNat }
          (2 ≤ (s.lanes.get l).verdicts.length → (s.lanes.get l).holding = none →
            exec (.readMessage l kind card gen direction seq crc) s =
              .next (s.modLane l (fun x => { x with receiver := .idle, holding := some r }))) ∧
          (2 ≤ (s.lanes.get l).verdicts.length → (s.lanes.get l).holding ≠ none →
            exec (.readMessage l kind card gen direction seq crc) s =
              .next (s.modLane l (fun x => { x with
                receiver := .idle
                faults := min 255 (x.faults + 1)
                lastFault := some .overrun }))) ∧
          ((s.lanes.get l).verdicts.length < 2 →
            ((s.lanes.get l).mode = .halt → exec (.readMessage l kind card gen direction seq crc) s =
              .next (s.modLane l (fun x => { x with
                receiver := .idle
                verdicts := x.verdicts ++ [{ seq := seq.toNat, verdict := .stop, cause := .halted }] }))) ∧
            ((s.lanes.get l).mode = .normal →
              (∀ m, (s.lanes.get l).lastRead = some m → seq.toNat ≠ 0 → m.read = r → s.timer < m.decidedAt + 5000 →
                exec (.readMessage l kind card gen direction seq crc) s =
                  .next (s.modLane l (fun x => { x with
                    receiver := .idle
                    verdicts := x.verdicts ++ [{ seq := seq.toNat, verdict := m.verdict, cause := m.cause }] }))) ∧
              ((∀ m, (s.lanes.get l).lastRead = some m → seq.toNat = 0 ∨ m.read ≠ r ∨ m.decidedAt + 5000 ≤ s.timer) →
                ((s.lanes.get l).dirSetting.refuses dir = true →
                  exec (.readMessage l kind card gen direction seq crc) s =
                    .next (s.modLane l (fun x => { x with
                      receiver := .idle
                      verdicts := x.verdicts ++ [{ seq := seq.toNat, verdict := .stop, cause := .wrongLane }]
                      lastRead := some
                        { read := r, verdict := .stop, cause := .wrongLane, decidedAt := s.timer } }))) ∧
                ((s.lanes.get l).dirSetting.refuses dir = false →
                  exec (.readMessage l kind card gen direction seq crc) s =
                    .next (((s.modLane l (fun x => { x with receiver := .idle })).applyRead l
                      (s.decideRead card.toNat gen.toNat dir).effect).modLane l (fun x => { x with
                        verdicts := x.verdicts ++
                          [{ seq := seq.toNat, verdict := (s.decideRead card.toNat gen.toNat dir).verdict,
                             cause := (s.decideRead card.toNat gen.toNat dir).cause }]
                        lastRead := some
                          { read := r, verdict := (s.decideRead card.toNat gen.toNat dir).verdict,
                            cause := (s.decideRead card.toNat gen.toNat dir).cause,
                            decidedAt := s.timer } }))))))))

/-- What a fault does (R119); bytes, framing and gap faults at the receiver (R117); the end of a transmission, which
serves the holding slot (R120, R122); the lane line (R120, R127). A timer event carries the timer to its instant,
and one with nothing to act on changes nothing: the model's choice, logs 4 and 7. -/
def Obligations.LaneLines : Prop :=
  (∀ (x : LaneState) (c : Cause),
    (x.verdicts.length < 2 → x.fault c = { x with
      receiver := .idle
      faults := min 255 (x.faults + 1)
      lastFault := some c
      verdicts := x.verdicts ++ [{ seq := 0, verdict := .resend, cause := c }] }) ∧
    (2 ≤ x.verdicts.length → x.fault c = { x with
      receiver := .idle
      faults := min 255 (x.faults + 1)
      lastFault := some c })) ∧
  ∀ (s : State) (l : Lane),
    ((s.lanes.get l).mode = .loop → (∀ b, exec (.laneByteReceived l b) s = .next s) ∧
      exec (.framingFault l) s = .next s ∧ exec (.gapFault l) s = .next s) ∧
    ((s.lanes.get l).mode ≠ .loop →
      ((s.lanes.get l).receiver = .idle →
        exec (.laneByteReceived l 0xA6#8) s =
          .next (s.modLane l (fun x => { x with receiver := .assembling [0xA6#8] s.timer })) ∧
        (∀ b, b ≠ 0xA6#8 → exec (.laneByteReceived l b) s = .next s) ∧
        exec (.framingFault l) s = .next s ∧ exec (.gapFault l) s = .next s) ∧
      ∀ bytes last, (s.lanes.get l).receiver = .assembling bytes last →
        (bytes.length < 10 → ∀ b, exec (.laneByteReceived l b) s =
          .next (s.modLane l (fun x => { x with receiver := .assembling (bytes ++ [b]) s.timer }))) ∧
        (∀ (kind : Byte) (card : BitVec 32) (gen direction seq : Byte) (crc : BitVec 16),
          bytes ++ [BitVec.ofNat 8 (crc.toNat / 256)] =
            [0xA6#8, kind] ++ leBytes 4 card.toNat ++ [gen, direction, seq] ++ leBytes 2 crc.toNat →
          exec (.laneByteReceived l (BitVec.ofNat 8 (crc.toNat / 256))) s =
            exec (.readMessage l kind card gen direction seq crc) s) ∧
        exec (.framingFault l) s = .next (s.modLane l (fun x => x.fault .framing)) ∧
        exec (.gapFault l) s =
          .next (({ s with timer := max s.timer (last + 20) } : State).modLane l (fun x => x.fault .gap))) ∧
    ((s.lanes.get l).verdicts = [] → exec (.endOfTransmission l) s = .next s ∧
      (s.laneLine l = .breaking ↔ (s.lanes.get l).mode = .halt)) ∧
    (∀ v rest, (s.lanes.get l).verdicts = v :: rest → s.laneLine l = .sending ∧
      ((s.lanes.get l).holding = none → exec (.endOfTransmission l) s =
        .next (s.modLane l (fun x => { x with verdicts := rest }))) ∧
      ∀ r, (s.lanes.get l).holding = some r → exec (.endOfTransmission l) s =
        .next ((s.modLane l (fun x => { x with verdicts := rest, holding := none })).takeRead l r)) ∧
    ((s.lanes.get l).lastRead = none → exec (.repeatRecordExpiry l) s = .next s) ∧
    ∀ m, (s.lanes.get l).lastRead = some m →
      exec (.repeatRecordExpiry l) s = .next { s with timer := max s.timer (m.decidedAt + 5000) }

/-- LANE MODE, with the entry effects of its mode (R126 to R128), and INJECT READ, which changes nothing (R129). The
body of LANE MODE is the lane's fields as LedgerAndGangwayReads lays them out. -/
def Obligations.LaneModesAndDryRuns : Prop :=
  ∀ (s : State) (p : Port) (tag lane : Byte), s.readyAs p .purser →
    (∀ mode direction clear : Byte,
      (3 < lane.toNat ∨ 2 < mode.toNat ∨ 2 < direction.toNat ∨ 1 < clear.toNat →
        exec (.laneMode p tag lane mode direction clear) s =
          .next (s.answered p 0x73#8 tag (Reply.refuse .badField))) ∧
      ∀ l m d, Four.ofIndex lane.toNat = some l → LaneMode.ofCode mode = some m →
        DirSetting.ofCode direction = some d →
        let x := s.lanes.get l
        let y : LaneState :=
          if x.mode = m then { x with dirSetting := d }
          else if m = .loop then
            { x with dirSetting := d, mode := m, lastRead := none, receiver := .idle, holding := none }
          else { x with dirSetting := d, mode := m, lastRead := none }
        (clear = 0x00#8 → exec (.laneMode p tag lane mode direction clear) s =
          .next ((s.modLane l (fun _ => y)).answered p 0x73#8 tag (Reply.ok y.bytes))) ∧
        (clear = 0x01#8 → exec (.laneMode p tag lane mode direction clear) s =
          .next ((s.modLane l (fun _ => { y with faults := 0, lastFault := none })).answered p 0x73#8 tag
            (Reply.ok ({ y with faults := 0, lastFault := none } : LaneState).bytes)))) ∧
    ∀ (card : BitVec 32) (gen direction seq : Byte),
      (3 < lane.toNat ∨ direction.toNat = 0 ∨ 2 < direction.toNat →
        exec (.injectRead p tag lane card gen direction seq) s =
          .next (s.answered p 0x74#8 tag (Reply.refuse .badField))) ∧
      ∀ l dir, Four.ofIndex lane.toNat = some l → Direction.ofCode direction = some dir →
        ((s.lanes.get l).mode ≠ .loop → exec (.injectRead p tag lane card gen direction seq) s =
          .next (s.answered p 0x74#8 tag (Reply.refuse .slotState))) ∧
        ((s.lanes.get l).mode = .loop →
          ((s.lanes.get l).dirSetting.refuses dir = true → exec (.injectRead p tag lane card gen direction seq) s =
            .next (s.answered p 0x74#8 tag (Reply.ok (u8 0x02 ++ u8 0x12)))) ∧
          ((s.lanes.get l).dirSetting.refuses dir = false → exec (.injectRead p tag lane card gen direction seq) s =
            .next (s.answered p 0x74#8 tag (Reply.ok (u8 (s.decideRead card.toNat gen.toNat dir).verdict.code ++
              u8 (s.decideRead card.toNat gen.toNat dir).cause.code)))))

/-! ## Presence and port calls (chapter 7) -/

/-- The gates of R134, the OUT rules of R135 with the escort condition of R136, the IN rules of R138, and what a PASS
applies (R137, R139) with the effects of the missing list becoming empty (R144, R145). -/
def Obligations.GangwayReadsAreDecided : Prop :=
  (∀ (s : State) (card gen : Nat) (dir : Direction), s.call.state = .atSea →
    s.decideRead card gen dir = { verdict := .stop, cause := .gangwayClosed, effect := .nothing }) ∧
  (∀ (s : State) (card gen : Nat) (dir : Direction), s.call.state ≠ .atSea →
    (s.findCard card = none →
      s.decideRead card gen dir = { verdict := .refer, cause := .unknown, effect := .nothing }) ∧
    ∀ slot c, s.findCard card = some (slot, c) →
      (c.gen ≠ gen → s.decideRead card gen dir = { verdict := .refer, cause := .unknown, effect := .nothing }) ∧
      (c.gen = gen → c.kind = .staff →
        s.decideRead card gen dir = { verdict := .refer, cause := .crew, effect := .nothing }) ∧
      (c.gen = gen → c.kind ≠ .staff → c.state = .suspended →
        s.decideRead card gen dir = { verdict := .refer, cause := .purser, effect := .nothing }) ∧
      (c.gen = gen → c.kind ≠ .staff → c.state ≠ .suspended →
        (c.presence ≠ some .aboard → s.decideRead card gen .outward =
          { verdict := .refer, cause := .notAboard, effect := .conflict slot }) ∧
        (c.presence = some .aboard →
          (s.call.state = .allAboard → s.decideRead card gen .outward =
            { verdict := .stop, cause := .allAboard, effect := .nothing }) ∧
          (s.call.state = .alongside → c.kind = .minor → s.escorted c = false → s.decideRead card gen .outward =
            { verdict := .refer, cause := .escort, effect := .nothing }) ∧
          (s.call.state = .alongside → (c.kind = .minor → s.escorted c = true) →
            (∀ aslot a, s.call.kind = some .final → c.state = .active → s.accountOf c = some (aslot, a) →
              a.state ≠ .settled → s.decideRead card gen .outward =
                { verdict := .refer, cause := .purser, effect := .nothing }) ∧
            (∀ aslot a, s.call.kind = some .final → c.state = .active → s.accountOf c = some (aslot, a) →
              a.state = .settled → s.decideRead card gen .outward =
                { verdict := .pass, cause := .disembarked, effect := .leaves slot .disembarked }) ∧
            (c.state = .closed → s.decideRead card gen .outward =
              { verdict := .pass, cause := .disembarked, effect := .leaves slot .disembarked }) ∧
            (s.call.kind ≠ some .final → c.state = .active → s.decideRead card gen .outward =
              { verdict := .pass, cause := .ashore, effect := .leaves slot .ashore }))) ∧
        (c.state = .closed → s.decideRead card gen .inward =
          { verdict := .refer, cause := .purser, effect := .nothing }) ∧
        (c.state = .active → c.presence = some .aboard → s.decideRead card gen .inward =
          { verdict := .refer, cause := .alreadyAboard, effect := .conflict slot }) ∧
        (c.state = .active → c.presence = some .disembarked → s.decideRead card gen .inward =
          { verdict := .refer, cause := .purser, effect := .nothing }) ∧
        (∀ former, c.state = .active → c.presence = some former → former = .ashore ∨ former = .notBoarded →
          (s.call.kind = some .final → s.decideRead card gen .inward =
            { verdict := .refer, cause := .purser, effect := .nothing }) ∧
          (s.call.kind ≠ some .final → s.decideRead card gen .inward =
            { verdict := .pass, cause := .aboard, effect := .boards slot former })))) ∧
  (∀ (s : State) (c : Cardholder) (ref : AccountRef), c.account = some ref →
    (s.escorted c = true ↔
      (∃ aslot a, s.accountOf c = some (aslot, a) ∧ a.minorRelease = true) ∨
      ∃ i d r t, (i, d) ∈ s.roster ∧ d.kind = .adult ∧ d.account = some r ∧ r.serial = ref.serial ∧
        d.lastTransit = some t ∧ t.dir = .outward ∧ s.shipTime - t.time ≤ s.options.escortWindow)) ∧
  (∀ (s : State) (l : Lane) (slot : Nat),
    s.applyRead l .nothing = s ∧ s.applyRead l (.conflict slot) = s.reportConflict slot ∧
    (∀ goal, s.applyRead l (.leaves slot goal) = { s with
      roster := s.roster.modify slot (fun c => { c with
        presence := some goal
        lastTransit := some { time := s.shipTime, lane := some l, dir := .outward } })
      counters := (s.counters.down .aboard).up goal }) ∧
    ∀ former, s.applyRead l (.boards slot former) = ({ s with
      roster := s.roster.modify slot (fun c => { c with
        presence := some .aboard
        lastTransit := some { time := s.shipTime, lane := some l, dir := .inward } })
      counters := (s.counters.down former).up .aboard } : State).leaveMissing slot) ∧
  ∀ (s : State) (slot : Nat),
    (slot ∉ s.missing → s.leaveMissing slot = s) ∧
    (slot ∈ s.missing → s.missing.filter (fun x => x != slot) ≠ [] →
      s.leaveMissing slot = { s with missing := s.missing.filter (fun x => x != slot) }) ∧
    (slot ∈ s.missing → s.missing.filter (fun x => x != slot) = [] →
      (s.call.closeHeld = false → s.leaveMissing slot =
        ({ s with missing := [] } : State).raise purserAndWatch .allReturned none (some 0)) ∧
      (s.call.closeHeld = true → s.leaveMissing slot =
        ({ ({ s with missing := [] } : State).raise purserAndWatch .allReturned none (some 0) with
          call := { state := .atSea, kind := none, allAboard := none, closeMode := .manual, closeTime := none,
                    closeHeld := false } } : State).raise purserAndWatch .callClosed none (some 0)))

/-- SET PRESENCE (R141): the counters, the last transit, and in ALL_ABOARD the missing list follow the presence. -/
def Obligations.PresenceIsSet : Prop :=
  (∀ (slot : Nat) (l : List Nat), l.Pairwise (· < ·) →
    (insertSlot slot l).Pairwise (· < ·) ∧ ∀ x, x ∈ insertSlot slot l ↔ x = slot ∨ x ∈ l) ∧
  ∀ (s : State) (p : Port) (tag : Byte) (card : BitVec 32) (value : Byte), s.readyAs p .purser →
    (3 < value.toNat → exec (.setPresence p tag card value) s =
      .next (s.answered p 0x70#8 tag (Reply.refuse .badField))) ∧
    ∀ q, Presence.ofCode value = some q →
      (s.findCard card.toNat = none → exec (.setPresence p tag card value) s =
        .next (s.answered p 0x70#8 tag (Reply.refuse .notFound))) ∧
      ∀ slot c, s.findCard card.toNat = some (slot, c) →
        (c.presence = none → exec (.setPresence p tag card value) s =
          .next (s.answered p 0x70#8 tag (Reply.refuse .slotState))) ∧
        (c.presence = some q → exec (.setPresence p tag card value) s =
          .next (s.answered p 0x70#8 tag (Reply.ok (u8 q.code ++ u8 q.code ++ u16 s.missing.length)))) ∧
        ∀ former, c.presence = some former → former ≠ q →
          let moved : State := { s with
            roster := s.roster.modify slot (fun d => { d with
              presence := some q
              lastTransit :=
                if q = .notBoarded then none
                else some
                  { time := s.shipTime, lane := none, dir := if q = .aboard then .inward else .outward } })
            counters := (s.counters.down former).up q }
          (s.call.state ≠ .allAboard → exec (.setPresence p tag card value) s =
            .next (moved.answered p 0x70#8 tag
              (Reply.ok (u8 former.code ++ u8 q.code ++ u16 s.missing.length)))) ∧
          (s.call.state = .allAboard → q = .ashore → exec (.setPresence p tag card value) s =
            .next (({ moved with missing := insertSlot slot s.missing } : State).answered p 0x70#8 tag
              (Reply.ok (u8 former.code ++ u8 q.code ++ u16 (insertSlot slot s.missing).length)))) ∧
          (s.call.state = .allAboard → q ≠ .ashore → exec (.setPresence p tag card value) s =
            .next ((moved.leaveMissing slot).answered p 0x70#8 tag
              (Reply.ok (u8 former.code ++ u8 q.code ++ u16 (moved.leaveMissing slot).missing.length))))

/-- OPEN CALL (R142), CLOSE CALL (R146), and the all-aboard and close deadlines (R143, R145). A deadline event that is
not due changes nothing: the model's choice, log 6. A FINAL call is accepted whatever its close mode byte, which R142
does not read: the model's reading, log 34. CLOSE CALL with a force byte above 1 is BAD_FIELD before CALL_STATE: the
model's choice, log 16. -/
def Obligations.PortCalls : Prop :=
  (∀ (s : State) (p : Port) (tag kind : Byte) (allAboard : BitVec 32) (mode : Byte) (closeTime : BitVec 32),
    s.readyAs p .purser →
    (s.call.state ≠ .atSea → exec (.openCall p tag kind allAboard mode closeTime) s =
      .next (s.answered p 0x71#8 tag (Reply.refuse .callState))) ∧
    (s.call.state = .atSea →
      (kind.toNat = 0 ∨ 3 < kind.toNat → exec (.openCall p tag kind allAboard mode closeTime) s =
        .next (s.answered p 0x71#8 tag (Reply.refuse .badField))) ∧
      (kind = 0x03#8 → ∀ record : CallRecord,
        record = { state := .alongside, kind := some .final, allAboard := none, closeMode := .manual,
                   closeTime := none, closeHeld := false } →
        exec (.openCall p tag kind allAboard mode closeTime) s =
          .next (({ s with call := record } : State).answered p 0x71#8 tag (Reply.ok record.bytes))) ∧
      (kind = 0x01#8 ∨ kind = 0x02#8 →
        (1 < mode.toNat ∨ allAboard.toNat ≤ s.shipTime ∨ (mode = 0x01#8 ∧ closeTime.toNat < allAboard.toNat) →
          exec (.openCall p tag kind allAboard mode closeTime) s =
            .next (s.answered p 0x71#8 tag (Reply.refuse .badField))) ∧
        (mode.toNat ≤ 1 → s.shipTime < allAboard.toNat →
          (mode = 0x01#8 → allAboard.toNat ≤ closeTime.toNat) → ∀ record : CallRecord,
          record = { state := .alongside, kind := some (if kind = 0x01#8 then .embark else .port),
                     allAboard := some allAboard.toNat, closeMode := if mode = 0x01#8 then .timed else .manual,
                     closeTime := if mode = 0x01#8 then some closeTime.toNat else none, closeHeld := false } →
          exec (.openCall p tag kind allAboard mode closeTime) s =
            .next (({ s with call := record } : State).answered p 0x71#8 tag (Reply.ok record.bytes)))))) ∧
  (∀ (s : State) (p : Port) (tag force : Byte), s.readyAs p .purser →
    let closed (n : Nat) : State :=
      (({ s with
        call := { state := .atSea, kind := none, allAboard := none, closeMode := .manual, closeTime := none,
                  closeHeld := false }
        missing := [] } : State).raise purserAndWatch .callClosed none (some (n : Int))).answered p 0x72#8 tag
        (Reply.ok (u16 n))
    (1 < force.toNat → exec (.closeCall p tag force) s =
      .next (s.answered p 0x72#8 tag (Reply.refuse .badField))) ∧
    (force.toNat ≤ 1 →
      (s.call.state = .atSea → exec (.closeCall p tag force) s =
        .next (s.answered p 0x72#8 tag (Reply.refuse .callState))) ∧
      (s.call.state = .alongside →
        (s.call.kind = some .final ∨ s.counters.ashore = 0 ∨ force = 0x01#8 →
          exec (.closeCall p tag force) s = .next (closed s.counters.ashore)) ∧
        (s.call.kind ≠ some .final → s.counters.ashore ≠ 0 → force = 0x00#8 → exec (.closeCall p tag force) s =
          .next (s.answered p 0x72#8 tag (Reply.of .missing (u16 s.counters.ashore))))) ∧
      (s.call.state = .allAboard →
        (s.missing = [] ∨ force = 0x01#8 → exec (.closeCall p tag force) s = .next (closed s.missing.length)) ∧
        (s.missing ≠ [] → force = 0x00#8 → exec (.closeCall p tag force) s =
          .next (s.answered p 0x72#8 tag (Reply.of .missing (u16 s.missing.length))))))) ∧
  (∀ (s : State),
    (∀ t, s.call.state = .alongside → s.call.allAboard = some t → t ≤ s.shipTime →
      ∀ list, list = (s.roster.filter (fun e => e.2.presence == some .ashore)).map (·.1) →
      exec .allAboardDeadline s =
        .next (({ s with call := { s.call with state := .allAboard }, missing := list } : State).raise purserAndWatch
          .allAboard none (some (list.length : Int)))) ∧
    (s.call.state ≠ .alongside ∨ s.call.allAboard = none ∨ (∃ t, s.call.allAboard = some t ∧ s.shipTime < t) →
      exec .allAboardDeadline s = .next s)) ∧
  ∀ (s : State),
    (∀ t, s.call.state = .allAboard → s.call.closeMode = .timed → s.call.closeHeld = false →
      s.call.closeTime = some t → t ≤ s.shipTime →
      (s.missing = [] → exec .closeDeadline s =
        .next (({ s with
          call := { state := .atSea, kind := none, allAboard := none, closeMode := .manual, closeTime := none,
                    closeHeld := false } } : State).raise purserAndWatch .callClosed none (some 0))) ∧
      (s.missing ≠ [] → exec .closeDeadline s =
        .next (({ s with call := { s.call with closeHeld := true } } : State).raise purserAndWatch .closeHeld none
          (some (s.missing.length : Int))))) ∧
    (s.call.state ≠ .allAboard ∨ s.call.closeMode ≠ .timed ∨ s.call.closeHeld = true ∨ s.call.closeTime = none ∨
        (∃ t, s.call.closeTime = some t ∧ s.shipTime < t) →
      exec .closeDeadline s = .next s)

/-! ## Ship clock (chapter 8) -/

/-- Ship time by a tick in either clock state, the loss of the tick line, a freewheel second and SET TIME (R151, R153
to R156, R158), with every rollover it reaches (R159, R160). That a timer event carries the timer to its instant, that
one without its clock state changes nothing, and that DAY_ROLLED is raised before CLOCK_FREEWHEEL or CLOCK_RESTORED in
one step, is the model's choice: logs 4, 7 and 26. -/
def Obligations.ShipTimeAdvances : Prop :=
  (∀ t hour : Nat, hour ≤ 23 →
    t < nextRolloverAfter t hour ∧ nextRolloverAfter t hour ≤ max (t + 86400) (hour * 3600) ∧
      nextRolloverAfter t hour % 86400 = hour * 3600) ∧
  (∀ (s : State) (time : Nat), time < s.nextRollover → s.advanceTo time = { s with shipTime := time }) ∧
  (∀ (s : State) (time n : Nat), s.nextRollover + n * 86400 ≤ time → time < s.nextRollover + (n + 1) * 86400 →
    s.advanceTo time =
      ({ s with
        shipTime := time
        shipDay := s.shipDay + (n + 1)
        nextRollover := s.nextRollover + (n + 1) * 86400
        tariff := s.pendingTariff.getD s.tariff
        pendingTariff := none } : State).raise everyPort .dayRolled none (some ((s.shipDay + (n + 1) : Nat) : Int))) ∧
  (∀ s : State,
    let a : State := if s.shipTime < 4294967295 then s.advanceTo (s.shipTime + 1) else s
    (s.clock = .ticked → exec .tick s = .next { a with tickSeen := true, lastTick := s.timer } ∧
      exec .freewheelSecond s = .next s) ∧
    (∀ next, s.clock = .freewheel next → exec .tick s =
      .next (({ a with tickSeen := true, lastTick := s.timer, clock := .ticked } : State).raise purserAndWatch
        .clockRestored none none) ∧
      exec .freewheelSecond s = .next { a with clock := .freewheel (next + 1000), timer := max s.timer next } ∧
      exec .tickLoss s = .next s) ∧
    (s.clock = .ticked → exec .tickLoss s =
      .next (({ a with
        timer := max s.timer (s.lastTick + 1500)
        clock := .freewheel (max s.timer (s.lastTick + 1500) + 1000) } : State).raise purserAndWatch .clockFreewheel
        none none))) ∧
  ∀ (s : State) (p : Port) (tag : Byte) (time : BitVec 32), s.readyAs p .purser →
    (time.toNat < s.shipTime → exec (.setTime p tag time) s =
      .next (s.answered p 0x80#8 tag (Reply.refuse .timeBackward))) ∧
    (time.toNat = s.shipTime → exec (.setTime p tag time) s =
      .next (s.answered p 0x80#8 tag (Reply.ok (u32 s.shipTime ++ u32 s.shipDay)))) ∧
    (s.shipTime < time.toNat → exec (.setTime p tag time) s =
      .next ((s.advanceTo time.toNat).answered p 0x80#8 tag
        (Reply.ok (u32 time.toNat ++ u32 (s.advanceTo time.toNat).shipDay))))

/-! ## Settings (chapter 10) -/

/-- SET OPTIONS (R178, R161) and the two parts of SET TARIFF (R179, R192): every value brought into its range, CLAMPED
when one was. CLAMPED on a refused tariff is the model's choice: log 21. That the cap fields are read signed, so that
a negative one becomes 0 with CLAMPED, is the model's reading: log 28. The sizes of the options in the response are the
model's choice: log 13. -/
def Obligations.SettingsAreWritten : Prop :=
  (∀ (s : State) (p : Port) (tag : Byte) (f : OptionFields), s.readyAs p .purser →
    ∀ o : Options,
      o = { unlockDeadline := max 2 (min 30 f.unlockDeadline.toNat)
            holdLifetime := max 60 (min 86400 f.holdLifetime.toNat)
            voidWindow := min 3600 f.voidWindow.toNat
            escortWindow := min 900 f.escortWindow.toNat
            threshold := min 15 f.threshold.toNat
            rolloverHour := min 23 f.rolloverHour.toNat } →
      exec (.setOptions p tag f) s =
        .next (({ s with options := o, nextRollover := nextRolloverAfter s.shipTime o.rolloverHour } :
          State).answered p 0x82#8 tag
          { Reply.ok o.bytes with
            clamped := !(2 ≤ f.unlockDeadline.toNat && f.unlockDeadline.toNat ≤ 30 && 60 ≤ f.holdLifetime.toNat &&
              f.holdLifetime.toNat ≤ 86400 && f.voidWindow.toNat ≤ 3600 && f.escortWindow.toNat ≤ 900 &&
              f.threshold.toNat ≤ 15 && f.rolloverHour.toNat ≤ 23) })) ∧
  (∀ (s : State) (p : Port) (tag : Byte) (part : TariffPart1) (clamped : Bool), s.readyAs p .purser →
    part.rates.length = 8 → part.rows.length = 64 →
    (clamped = true ↔ (∃ r ∈ part.rates, 2500 < r.toNat) ∨ (∃ d ∈ part.rows, 10000 < d.toNat) ∨
      (∃ x ∈ [part.adultBase, part.minorBase, part.capFloor, part.capCeiling], x.toInt < 0 ∨ 50000000 < x.toInt) ∨
      part.capStep.toInt < 0 ∨ 1000000 < part.capStep.toInt) →
    let t : Tariff :=
      { rates := part.rates.map (fun r => min 2500 r.toNat)
        discounts := part.rows.map (fun d => min 10000 d.toNat) ++ s.tariff.discounts.drop 64
        adultBase := min 50000000 part.adultBase.toInt.toNat
        minorBase := min 50000000 part.minorBase.toInt.toNat
        capStep := min 1000000 part.capStep.toInt.toNat
        capFloor := min 50000000 part.capFloor.toInt.toNat
        capCeiling := min 50000000 part.capCeiling.toInt.toNat }
    (t.capCeiling < t.capFloor → exec (.setTariffPart1 p tag part) s =
      .next (s.answered p 0x81#8 tag { Reply.refuse .badField with clamped := clamped })) ∧
    (t.capFloor ≤ t.capCeiling → exec (.setTariffPart1 p tag part) s =
      .next (({ s with pendingTariff := some t } : State).answered p 0x81#8 tag
        { Reply.ok t.bytes with clamped := clamped }))) ∧
  ∀ (s : State) (p : Port) (tag : Byte) (rows : List (BitVec 16)) (clamped : Bool), s.readyAs p .purser →
    rows.length = 64 → (clamped = true ↔ ∃ d ∈ rows, 10000 < d.toNat) →
    (s.pendingTariff = none → exec (.setTariffPart2 p tag rows) s =
      .next (s.answered p 0x81#8 tag (Reply.refuse .slotState))) ∧
    ∀ t, s.pendingTariff = some t → exec (.setTariffPart2 p tag rows) s =
      .next (({ s with pendingTariff := some { t with
        discounts := t.discounts.take 64 ++ rows.map (fun d => min 10000 d.toNat) } } : State).answered p 0x81#8 tag
        { Reply.ok [] with clamped := clamped })

/-- LOAD SETTINGS (R181), SAVE SETTINGS (R182), and the two ends of a save (R183). An end without a save in progress
changes nothing: the model's choice, log 7. -/
def Obligations.SettingsImage : Prop :=
  (∀ (s : State) (p : Port) (tag : Byte), s.readyAs p .purser →
    (∀ q x, s.store = .busy q x →
      exec (.loadSettings p tag) s = .next (s.answered p 0x83#8 tag (Reply.refuse .storeBusy)) ∧
      exec (.saveSettings p tag) s = .next (s.answered p 0x84#8 tag (Reply.refuse .storeBusy))) ∧
    (s.store = .idle → s.image = none → exec (.loadSettings p tag) s =
      .next (s.answered p 0x83#8 tag (Reply.refuse .storeInvalid))) ∧
    (∀ x, s.store = .idle → s.image = some x → exec (.loadSettings p tag) s =
      .next (({ s with
        options := x.options
        nextRollover := nextRolloverAfter s.shipTime x.options.rolloverHour
        tariff := x.tariff
        pendingTariff := none
        loaded := true } : State).answered p 0x83#8 tag (Reply.ok []))) ∧
    (∀ x, s.store = .idle → s.image = some x → s.loaded = false → exec (.saveSettings p tag) s =
      .next (s.answered p 0x84#8 tag (Reply.refuse .notLoaded))) ∧
    (s.store = .idle → s.image = none ∨ s.loaded = true → exec (.saveSettings p tag) s =
      .next (({ s with
        store := .busy p { options := s.options, tariff := s.pendingTariff.getD s.tariff }
        image := none } : State).answered p 0x84#8 tag (Reply.of .accepted [])))) ∧
  ∀ (s : State),
    (s.store = .idle → exec .saveCompletion s = .next s ∧ exec .saveFailure s = .next s) ∧
    ∀ p x, s.store = .busy p x →
      exec .saveCompletion s =
        .next (({ s with image := some x, loaded := true, store := .idle } : State).raiseTo p .settingsSaved none none) ∧
      exec .saveFailure s = .next (({ s with store := .idle } : State).raiseTo p .saveFailed none none)

/-- VOYAGE CLEAR: refused away from sea or with an account, else record memory initialized with the settings, the
image, the clock, the ports' requests and notices and the lanes kept (R185). -/
def Obligations.VoyagesAreCleared : Prop :=
  ∀ (s : State) (p : Port) (tag : Byte), s.readyAs p .purser →
    (s.call.state ≠ .atSea ∨ s.accounts ≠ [] → exec (.voyageClear p tag) s =
      .next (s.answered p 0x85#8 tag (Reply.refuse .notClear))) ∧
    (s.call.state = .atSea → s.accounts = [] → exec (.voyageClear p tag) s =
      .next (({ State.reset with
        nextRollover := nextRolloverAfter 0 s.options.rolloverHour
        options := s.options
        tariff := s.tariff
        pendingTariff := s.pendingTariff
        marker := s.marker
        ports := s.ports.map (fun q => { q with window := none })
        lanes := s.lanes.map (fun l => { l with lastRead := none })
        clock := s.clock
        lastTick := s.lastTick
        tickSeen := s.tickSeen
        timer := s.timer
        store := s.store
        loaded := s.loaded
        image := s.image
        pending := s.pending } : State).answered p 0x85#8 tag (Reply.ok [])))

/-! ## What every step keeps -/

/-- No step takes a port past its bounds or leaves an entry waiting at an empty slot (R164, R167, R168), and none takes
a lane past its own (R116, R117, R120, R121, R128). -/
def Obligations.PortsAndLanesStayBounded : Prop :=
  ∀ s t : State, step s = .next t →
    (s.portsBounded = true → t.portsBounded = true) ∧ (s.lanesBounded = true → t.lanesBounded = true)

/-- Every step keeps the tables in their canonical form and their slots (R2, R13, R17, R81), the cardholders'
generation, cap offset and conflict count in range, with a presence and an account for guests alone (R2, R11, R61),
the unlock list and token counter (R30, R31), the order and size of the log (R69, R71), and the closure queue's size
(R108). With settings in range (R52), keys unique and held figures exact, it keeps every amount in range too: an
account's limit, deposit, package code, posted, held and settled totals, with posted + held together at most
2,000,000,000, and a cardholder's spent today and held sum (R2, R13, R93, section 6.2), with every cardholder that is
not CLOSED on its account's list. -/
def Obligations.RecordsStayInRange : Prop :=
  ∀ s t : State, step s = .next t → s.tablesWf = true →
    t.tablesWf = true ∧ (s.cardsInRange = true → t.cardsInRange = true) ∧
      (s.unlocksOk = true → t.unlocksOk = true) ∧ (s.logOk = true → t.logOk = true) ∧
      (s.closuresOk = true → t.closuresOk = true) ∧
      (s.settingsOk = true → s.foliosOk → s.holdsOk → s.amountsOk → t.amountsOk)

/-- Every step keeps the grant relation two-sided, within its limits and without duplicates, and the privacy flag clear
on a cabin without grantees (R21, R46, R25). -/
def Obligations.GrantsStayTwoSided : Prop :=
  ∀ s t : State, step s = .next t → s.tablesWf = true → s.grantsOk → t.grantsOk

/-- Every step keeps keys and serials unique and accounts' lists true (section 1.1, R6, R13, R14), and held totals and
held sums equal to the amounts of the LIVE holds, whose accounts are OPEN (R81, R86, R98). -/
def Obligations.HeldFiguresStayExact : Prop :=
  ∀ s t : State, step s = .next t → s.tablesWf = true → s.foliosOk →
    t.foliosOk ∧ (s.holdsOk → t.holdsOk)

/-- Every step keeps every account's posted and settled totals equal to its POSTED and its SETTLED entries (R72). -/
def Obligations.TotalsStayExact : Prop :=
  ∀ s t : State, step s = .next t → s.tablesWf = true → s.foliosOk → s.logOk = true → s.ledgerOk → t.ledgerOk

/-- Every step keeps the call record's shape, the missing list empty but in ALL_ABOARD and there exactly the guests
ASHORE (R142, R144), and the counters equal to the guests of each presence (R133). -/
def Obligations.PresenceStaysCounted : Prop :=
  ∀ s t : State, step s = .next t → s.tablesWf = true → s.cardsInRange = true →
    (s.countersExact = true → t.countersExact = true) ∧ (s.callOk = true → t.callOk = true) ∧
      (s.callOk = true → s.missingExact = true → t.missingExact = true)

/-- Every step keeps ship time in its range with the next rollover strictly after it (R151, R159), and the options,
tariffs, image and snapshot in theirs (R52, R178, R179, R182). -/
def Obligations.ClockAndSettingsStayInRange : Prop :=
  ∀ s t : State, step s = .next t →
    (s.clockOk = true → t.clockOk = true) ∧ (s.settingsOk = true → t.settingsOk = true)

end
end

