-- ==== Sys2Proof/Laws/State.lean ====
section
/-! SUPPORT. Laws/State.lean: for each update of the state, one lemma for each field it leaves; and how the
table of four ports or lanes reads after a write. -/

namespace Sys2Proof

/-! ## Tables of four -/

@[simp] theorem Quad.get_set_same {α : Type} (q : Quad α) (i : Four) (x : α) : (q.set i x).get i = x := by
  cases i <;> rfl

theorem Quad.get_set_ne {α : Type} (q : Quad α) {i j : Four} (x : α) (h : j ≠ i) : (q.set i x).get j = q.get j := by
  cases i <;> cases j <;> first | rfl | exact absurd rfl h

@[simp] theorem Quad.get_map {α β : Type} (f : α → β) (q : Quad α) (i : Four) : (q.map f).get i = f (q.get i) := by
  cases i <;> rfl

@[simp] theorem Quad.set_get {α : Type} (q : Quad α) (i : Four) : q.set i (q.get i) = q := by
  cases i <;> rfl

@[simp] theorem Quad.set_set {α : Type} (q : Quad α) (i : Four) (x y : α) : (q.set i x).set i y = q.set i y := by
  cases i <;> rfl

@[simp] theorem Quad.get_fill {α : Type} (x : α) (i : Four) : (Quad.fill x).get i = x := by
  cases i <;> rfl

/-- Two tables of four that read alike are equal. -/
theorem Quad.ext_get {α : Type} {q r : Quad α} (h : ∀ i, q.get i = r.get i) : q = r := by
  cases q
  cases r
  have h0 := h .n0
  have h1 := h .n1
  have h2 := h .n2
  have h3 := h .n3
  simp only [Quad.get] at h0 h1 h2 h3
  subst h0 h1 h2 h3
  rfl

namespace Machine

/-! ## Ports and lanes -/

@[simp] theorem State.modPort_get (s : State) (p : Port) (f : PortState → PortState) :
    (s.modPort p f).ports.get p = f (s.ports.get p) := by simp [State.modPort]

theorem State.modPort_get_ne (s : State) {p q : Port} (f : PortState → PortState) (h : q ≠ p) :
    (s.modPort p f).ports.get q = s.ports.get q := by simp [State.modPort, Quad.get_set_ne _ _ h]

@[simp] theorem State.modLane_get (s : State) (l : Lane) (f : LaneState → LaneState) :
    (s.modLane l f).lanes.get l = f (s.lanes.get l) := by simp [State.modLane]

theorem State.modLane_get_ne (s : State) {l m : Lane} (f : LaneState → LaneState) (h : m ≠ l) :
    (s.modLane l f).lanes.get m = s.lanes.get m := by simp [State.modLane, Quad.get_set_ne _ _ h]

/-- Two changes of one port are one. -/
@[simp] theorem State.modPort_modPort (s : State) (p : Port) (f g : PortState → PortState) :
    (s.modPort p f).modPort p g = s.modPort p (fun q => g (f q)) := by simp [State.modPort]

/-- A change of a port that leaves it as it is changes nothing. -/
theorem State.modPort_self (s : State) (p : Port) (f : PortState → PortState)
    (h : f (s.ports.get p) = s.ports.get p) : s.modPort p f = s := by simp [State.modPort, h]

/-! ## Fields an update leaves -/

@[simp] theorem State.modPort_roster (s : State) (p : Port) (f : PortState → PortState) : (s.modPort p f).roster = s.roster := rfl
@[simp] theorem State.modPort_accounts (s : State) (p : Port) (f : PortState → PortState) : (s.modPort p f).accounts = s.accounts := rfl
@[simp] theorem State.modPort_nextSerial (s : State) (p : Port) (f : PortState → PortState) : (s.modPort p f).nextSerial = s.nextSerial := rfl
@[simp] theorem State.modPort_cabins (s : State) (p : Port) (f : PortState → PortState) : (s.modPort p f).cabins = s.cabins := rfl
@[simp] theorem State.modPort_unlocks (s : State) (p : Port) (f : PortState → PortState) : (s.modPort p f).unlocks = s.unlocks := rfl
@[simp] theorem State.modPort_nextToken (s : State) (p : Port) (f : PortState → PortState) : (s.modPort p f).nextToken = s.nextToken := rfl
@[simp] theorem State.modPort_log (s : State) (p : Port) (f : PortState → PortState) : (s.modPort p f).log = s.log := rfl
@[simp] theorem State.modPort_nextSeq (s : State) (p : Port) (f : PortState → PortState) : (s.modPort p f).nextSeq = s.nextSeq := rfl
@[simp] theorem State.modPort_holds (s : State) (p : Port) (f : PortState → PortState) : (s.modPort p f).holds = s.holds := rfl
@[simp] theorem State.modPort_closures (s : State) (p : Port) (f : PortState → PortState) : (s.modPort p f).closures = s.closures := rfl
@[simp] theorem State.modPort_counters (s : State) (p : Port) (f : PortState → PortState) : (s.modPort p f).counters = s.counters := rfl
@[simp] theorem State.modPort_call (s : State) (p : Port) (f : PortState → PortState) : (s.modPort p f).call = s.call := rfl
@[simp] theorem State.modPort_missing (s : State) (p : Port) (f : PortState → PortState) : (s.modPort p f).missing = s.missing := rfl
@[simp] theorem State.modPort_shipTime (s : State) (p : Port) (f : PortState → PortState) : (s.modPort p f).shipTime = s.shipTime := rfl
@[simp] theorem State.modPort_shipDay (s : State) (p : Port) (f : PortState → PortState) : (s.modPort p f).shipDay = s.shipDay := rfl
@[simp] theorem State.modPort_nextRollover (s : State) (p : Port) (f : PortState → PortState) : (s.modPort p f).nextRollover = s.nextRollover := rfl
@[simp] theorem State.modPort_options (s : State) (p : Port) (f : PortState → PortState) : (s.modPort p f).options = s.options := rfl
@[simp] theorem State.modPort_tariff (s : State) (p : Port) (f : PortState → PortState) : (s.modPort p f).tariff = s.tariff := rfl
@[simp] theorem State.modPort_pendingTariff (s : State) (p : Port) (f : PortState → PortState) : (s.modPort p f).pendingTariff = s.pendingTariff := rfl
@[simp] theorem State.modPort_marker (s : State) (p : Port) (f : PortState → PortState) : (s.modPort p f).marker = s.marker := rfl
@[simp] theorem State.modPort_lanes (s : State) (p : Port) (f : PortState → PortState) : (s.modPort p f).lanes = s.lanes := rfl
@[simp] theorem State.modPort_clock (s : State) (p : Port) (f : PortState → PortState) : (s.modPort p f).clock = s.clock := rfl
@[simp] theorem State.modPort_lastTick (s : State) (p : Port) (f : PortState → PortState) : (s.modPort p f).lastTick = s.lastTick := rfl
@[simp] theorem State.modPort_tickSeen (s : State) (p : Port) (f : PortState → PortState) : (s.modPort p f).tickSeen = s.tickSeen := rfl
@[simp] theorem State.modPort_timer (s : State) (p : Port) (f : PortState → PortState) : (s.modPort p f).timer = s.timer := rfl
@[simp] theorem State.modPort_store (s : State) (p : Port) (f : PortState → PortState) : (s.modPort p f).store = s.store := rfl
@[simp] theorem State.modPort_loaded (s : State) (p : Port) (f : PortState → PortState) : (s.modPort p f).loaded = s.loaded := rfl
@[simp] theorem State.modPort_image (s : State) (p : Port) (f : PortState → PortState) : (s.modPort p f).image = s.image := rfl
@[simp] theorem State.modPort_pending (s : State) (p : Port) (f : PortState → PortState) : (s.modPort p f).pending = s.pending := rfl

@[simp] theorem State.modLane_roster (s : State) (l : Lane) (f : LaneState → LaneState) : (s.modLane l f).roster = s.roster := rfl
@[simp] theorem State.modLane_accounts (s : State) (l : Lane) (f : LaneState → LaneState) : (s.modLane l f).accounts = s.accounts := rfl
@[simp] theorem State.modLane_nextSerial (s : State) (l : Lane) (f : LaneState → LaneState) : (s.modLane l f).nextSerial = s.nextSerial := rfl
@[simp] theorem State.modLane_cabins (s : State) (l : Lane) (f : LaneState → LaneState) : (s.modLane l f).cabins = s.cabins := rfl
@[simp] theorem State.modLane_unlocks (s : State) (l : Lane) (f : LaneState → LaneState) : (s.modLane l f).unlocks = s.unlocks := rfl
@[simp] theorem State.modLane_nextToken (s : State) (l : Lane) (f : LaneState → LaneState) : (s.modLane l f).nextToken = s.nextToken := rfl
@[simp] theorem State.modLane_log (s : State) (l : Lane) (f : LaneState → LaneState) : (s.modLane l f).log = s.log := rfl
@[simp] theorem State.modLane_nextSeq (s : State) (l : Lane) (f : LaneState → LaneState) : (s.modLane l f).nextSeq = s.nextSeq := rfl
@[simp] theorem State.modLane_holds (s : State) (l : Lane) (f : LaneState → LaneState) : (s.modLane l f).holds = s.holds := rfl
@[simp] theorem State.modLane_closures (s : State) (l : Lane) (f : LaneState → LaneState) : (s.modLane l f).closures = s.closures := rfl
@[simp] theorem State.modLane_counters (s : State) (l : Lane) (f : LaneState → LaneState) : (s.modLane l f).counters = s.counters := rfl
@[simp] theorem State.modLane_call (s : State) (l : Lane) (f : LaneState → LaneState) : (s.modLane l f).call = s.call := rfl
@[simp] theorem State.modLane_missing (s : State) (l : Lane) (f : LaneState → LaneState) : (s.modLane l f).missing = s.missing := rfl
@[simp] theorem State.modLane_shipTime (s : State) (l : Lane) (f : LaneState → LaneState) : (s.modLane l f).shipTime = s.shipTime := rfl
@[simp] theorem State.modLane_shipDay (s : State) (l : Lane) (f : LaneState → LaneState) : (s.modLane l f).shipDay = s.shipDay := rfl
@[simp] theorem State.modLane_nextRollover (s : State) (l : Lane) (f : LaneState → LaneState) : (s.modLane l f).nextRollover = s.nextRollover := rfl
@[simp] theorem State.modLane_options (s : State) (l : Lane) (f : LaneState → LaneState) : (s.modLane l f).options = s.options := rfl
@[simp] theorem State.modLane_tariff (s : State) (l : Lane) (f : LaneState → LaneState) : (s.modLane l f).tariff = s.tariff := rfl
@[simp] theorem State.modLane_pendingTariff (s : State) (l : Lane) (f : LaneState → LaneState) : (s.modLane l f).pendingTariff = s.pendingTariff := rfl
@[simp] theorem State.modLane_marker (s : State) (l : Lane) (f : LaneState → LaneState) : (s.modLane l f).marker = s.marker := rfl
@[simp] theorem State.modLane_ports (s : State) (l : Lane) (f : LaneState → LaneState) : (s.modLane l f).ports = s.ports := rfl
@[simp] theorem State.modLane_clock (s : State) (l : Lane) (f : LaneState → LaneState) : (s.modLane l f).clock = s.clock := rfl
@[simp] theorem State.modLane_lastTick (s : State) (l : Lane) (f : LaneState → LaneState) : (s.modLane l f).lastTick = s.lastTick := rfl
@[simp] theorem State.modLane_tickSeen (s : State) (l : Lane) (f : LaneState → LaneState) : (s.modLane l f).tickSeen = s.tickSeen := rfl
@[simp] theorem State.modLane_timer (s : State) (l : Lane) (f : LaneState → LaneState) : (s.modLane l f).timer = s.timer := rfl
@[simp] theorem State.modLane_store (s : State) (l : Lane) (f : LaneState → LaneState) : (s.modLane l f).store = s.store := rfl
@[simp] theorem State.modLane_loaded (s : State) (l : Lane) (f : LaneState → LaneState) : (s.modLane l f).loaded = s.loaded := rfl
@[simp] theorem State.modLane_image (s : State) (l : Lane) (f : LaneState → LaneState) : (s.modLane l f).image = s.image := rfl
@[simp] theorem State.modLane_pending (s : State) (l : Lane) (f : LaneState → LaneState) : (s.modLane l f).pending = s.pending := rfl

@[simp] theorem State.closeWindow_roster (s : State) (p : Port) : (s.closeWindow p).roster = s.roster := rfl
@[simp] theorem State.closeWindow_accounts (s : State) (p : Port) : (s.closeWindow p).accounts = s.accounts := rfl
@[simp] theorem State.closeWindow_nextSerial (s : State) (p : Port) : (s.closeWindow p).nextSerial = s.nextSerial := rfl
@[simp] theorem State.closeWindow_cabins (s : State) (p : Port) : (s.closeWindow p).cabins = s.cabins := rfl
@[simp] theorem State.closeWindow_unlocks (s : State) (p : Port) : (s.closeWindow p).unlocks = s.unlocks := rfl
@[simp] theorem State.closeWindow_nextToken (s : State) (p : Port) : (s.closeWindow p).nextToken = s.nextToken := rfl
@[simp] theorem State.closeWindow_log (s : State) (p : Port) : (s.closeWindow p).log = s.log := rfl
@[simp] theorem State.closeWindow_nextSeq (s : State) (p : Port) : (s.closeWindow p).nextSeq = s.nextSeq := rfl
@[simp] theorem State.closeWindow_holds (s : State) (p : Port) : (s.closeWindow p).holds = s.holds := rfl
@[simp] theorem State.closeWindow_closures (s : State) (p : Port) : (s.closeWindow p).closures = s.closures := rfl
@[simp] theorem State.closeWindow_counters (s : State) (p : Port) : (s.closeWindow p).counters = s.counters := rfl
@[simp] theorem State.closeWindow_call (s : State) (p : Port) : (s.closeWindow p).call = s.call := rfl
@[simp] theorem State.closeWindow_missing (s : State) (p : Port) : (s.closeWindow p).missing = s.missing := rfl
@[simp] theorem State.closeWindow_shipTime (s : State) (p : Port) : (s.closeWindow p).shipTime = s.shipTime := rfl
@[simp] theorem State.closeWindow_shipDay (s : State) (p : Port) : (s.closeWindow p).shipDay = s.shipDay := rfl
@[simp] theorem State.closeWindow_nextRollover (s : State) (p : Port) : (s.closeWindow p).nextRollover = s.nextRollover := rfl
@[simp] theorem State.closeWindow_options (s : State) (p : Port) : (s.closeWindow p).options = s.options := rfl
@[simp] theorem State.closeWindow_tariff (s : State) (p : Port) : (s.closeWindow p).tariff = s.tariff := rfl
@[simp] theorem State.closeWindow_pendingTariff (s : State) (p : Port) : (s.closeWindow p).pendingTariff = s.pendingTariff := rfl
@[simp] theorem State.closeWindow_marker (s : State) (p : Port) : (s.closeWindow p).marker = s.marker := rfl
@[simp] theorem State.closeWindow_lanes (s : State) (p : Port) : (s.closeWindow p).lanes = s.lanes := rfl
@[simp] theorem State.closeWindow_clock (s : State) (p : Port) : (s.closeWindow p).clock = s.clock := rfl
@[simp] theorem State.closeWindow_lastTick (s : State) (p : Port) : (s.closeWindow p).lastTick = s.lastTick := rfl
@[simp] theorem State.closeWindow_tickSeen (s : State) (p : Port) : (s.closeWindow p).tickSeen = s.tickSeen := rfl
@[simp] theorem State.closeWindow_timer (s : State) (p : Port) : (s.closeWindow p).timer = s.timer := rfl
@[simp] theorem State.closeWindow_store (s : State) (p : Port) : (s.closeWindow p).store = s.store := rfl
@[simp] theorem State.closeWindow_loaded (s : State) (p : Port) : (s.closeWindow p).loaded = s.loaded := rfl
@[simp] theorem State.closeWindow_image (s : State) (p : Port) : (s.closeWindow p).image = s.image := rfl
@[simp] theorem State.closeWindow_pending (s : State) (p : Port) : (s.closeWindow p).pending = s.pending := rfl

@[simp] theorem State.setWindow_roster (s : State) (p : Port) (w : Window) : (s.setWindow p w).roster = s.roster := rfl
@[simp] theorem State.setWindow_accounts (s : State) (p : Port) (w : Window) : (s.setWindow p w).accounts = s.accounts := rfl
@[simp] theorem State.setWindow_nextSerial (s : State) (p : Port) (w : Window) : (s.setWindow p w).nextSerial = s.nextSerial := rfl
@[simp] theorem State.setWindow_cabins (s : State) (p : Port) (w : Window) : (s.setWindow p w).cabins = s.cabins := rfl
@[simp] theorem State.setWindow_unlocks (s : State) (p : Port) (w : Window) : (s.setWindow p w).unlocks = s.unlocks := rfl
@[simp] theorem State.setWindow_nextToken (s : State) (p : Port) (w : Window) : (s.setWindow p w).nextToken = s.nextToken := rfl
@[simp] theorem State.setWindow_log (s : State) (p : Port) (w : Window) : (s.setWindow p w).log = s.log := rfl
@[simp] theorem State.setWindow_nextSeq (s : State) (p : Port) (w : Window) : (s.setWindow p w).nextSeq = s.nextSeq := rfl
@[simp] theorem State.setWindow_holds (s : State) (p : Port) (w : Window) : (s.setWindow p w).holds = s.holds := rfl
@[simp] theorem State.setWindow_closures (s : State) (p : Port) (w : Window) : (s.setWindow p w).closures = s.closures := rfl
@[simp] theorem State.setWindow_counters (s : State) (p : Port) (w : Window) : (s.setWindow p w).counters = s.counters := rfl
@[simp] theorem State.setWindow_call (s : State) (p : Port) (w : Window) : (s.setWindow p w).call = s.call := rfl
@[simp] theorem State.setWindow_missing (s : State) (p : Port) (w : Window) : (s.setWindow p w).missing = s.missing := rfl
@[simp] theorem State.setWindow_shipTime (s : State) (p : Port) (w : Window) : (s.setWindow p w).shipTime = s.shipTime := rfl
@[simp] theorem State.setWindow_shipDay (s : State) (p : Port) (w : Window) : (s.setWindow p w).shipDay = s.shipDay := rfl
@[simp] theorem State.setWindow_nextRollover (s : State) (p : Port) (w : Window) : (s.setWindow p w).nextRollover = s.nextRollover := rfl
@[simp] theorem State.setWindow_options (s : State) (p : Port) (w : Window) : (s.setWindow p w).options = s.options := rfl
@[simp] theorem State.setWindow_tariff (s : State) (p : Port) (w : Window) : (s.setWindow p w).tariff = s.tariff := rfl
@[simp] theorem State.setWindow_pendingTariff (s : State) (p : Port) (w : Window) : (s.setWindow p w).pendingTariff = s.pendingTariff := rfl
@[simp] theorem State.setWindow_marker (s : State) (p : Port) (w : Window) : (s.setWindow p w).marker = s.marker := rfl
@[simp] theorem State.setWindow_lanes (s : State) (p : Port) (w : Window) : (s.setWindow p w).lanes = s.lanes := rfl
@[simp] theorem State.setWindow_clock (s : State) (p : Port) (w : Window) : (s.setWindow p w).clock = s.clock := rfl
@[simp] theorem State.setWindow_lastTick (s : State) (p : Port) (w : Window) : (s.setWindow p w).lastTick = s.lastTick := rfl
@[simp] theorem State.setWindow_tickSeen (s : State) (p : Port) (w : Window) : (s.setWindow p w).tickSeen = s.tickSeen := rfl
@[simp] theorem State.setWindow_timer (s : State) (p : Port) (w : Window) : (s.setWindow p w).timer = s.timer := rfl
@[simp] theorem State.setWindow_store (s : State) (p : Port) (w : Window) : (s.setWindow p w).store = s.store := rfl
@[simp] theorem State.setWindow_loaded (s : State) (p : Port) (w : Window) : (s.setWindow p w).loaded = s.loaded := rfl
@[simp] theorem State.setWindow_image (s : State) (p : Port) (w : Window) : (s.setWindow p w).image = s.image := rfl
@[simp] theorem State.setWindow_pending (s : State) (p : Port) (w : Window) : (s.setWindow p w).pending = s.pending := rfl

@[simp] theorem State.mapWindows_roster (s : State) (f : Window → Window) : (s.mapWindows f).roster = s.roster := rfl
@[simp] theorem State.mapWindows_accounts (s : State) (f : Window → Window) : (s.mapWindows f).accounts = s.accounts := rfl
@[simp] theorem State.mapWindows_nextSerial (s : State) (f : Window → Window) : (s.mapWindows f).nextSerial = s.nextSerial := rfl
@[simp] theorem State.mapWindows_cabins (s : State) (f : Window → Window) : (s.mapWindows f).cabins = s.cabins := rfl
@[simp] theorem State.mapWindows_unlocks (s : State) (f : Window → Window) : (s.mapWindows f).unlocks = s.unlocks := rfl
@[simp] theorem State.mapWindows_nextToken (s : State) (f : Window → Window) : (s.mapWindows f).nextToken = s.nextToken := rfl
@[simp] theorem State.mapWindows_log (s : State) (f : Window → Window) : (s.mapWindows f).log = s.log := rfl
@[simp] theorem State.mapWindows_nextSeq (s : State) (f : Window → Window) : (s.mapWindows f).nextSeq = s.nextSeq := rfl
@[simp] theorem State.mapWindows_holds (s : State) (f : Window → Window) : (s.mapWindows f).holds = s.holds := rfl
@[simp] theorem State.mapWindows_closures (s : State) (f : Window → Window) : (s.mapWindows f).closures = s.closures := rfl
@[simp] theorem State.mapWindows_counters (s : State) (f : Window → Window) : (s.mapWindows f).counters = s.counters := rfl
@[simp] theorem State.mapWindows_call (s : State) (f : Window → Window) : (s.mapWindows f).call = s.call := rfl
@[simp] theorem State.mapWindows_missing (s : State) (f : Window → Window) : (s.mapWindows f).missing = s.missing := rfl
@[simp] theorem State.mapWindows_shipTime (s : State) (f : Window → Window) : (s.mapWindows f).shipTime = s.shipTime := rfl
@[simp] theorem State.mapWindows_shipDay (s : State) (f : Window → Window) : (s.mapWindows f).shipDay = s.shipDay := rfl
@[simp] theorem State.mapWindows_nextRollover (s : State) (f : Window → Window) : (s.mapWindows f).nextRollover = s.nextRollover := rfl
@[simp] theorem State.mapWindows_options (s : State) (f : Window → Window) : (s.mapWindows f).options = s.options := rfl
@[simp] theorem State.mapWindows_tariff (s : State) (f : Window → Window) : (s.mapWindows f).tariff = s.tariff := rfl
@[simp] theorem State.mapWindows_pendingTariff (s : State) (f : Window → Window) : (s.mapWindows f).pendingTariff = s.pendingTariff := rfl
@[simp] theorem State.mapWindows_marker (s : State) (f : Window → Window) : (s.mapWindows f).marker = s.marker := rfl
@[simp] theorem State.mapWindows_lanes (s : State) (f : Window → Window) : (s.mapWindows f).lanes = s.lanes := rfl
@[simp] theorem State.mapWindows_clock (s : State) (f : Window → Window) : (s.mapWindows f).clock = s.clock := rfl
@[simp] theorem State.mapWindows_lastTick (s : State) (f : Window → Window) : (s.mapWindows f).lastTick = s.lastTick := rfl
@[simp] theorem State.mapWindows_tickSeen (s : State) (f : Window → Window) : (s.mapWindows f).tickSeen = s.tickSeen := rfl
@[simp] theorem State.mapWindows_timer (s : State) (f : Window → Window) : (s.mapWindows f).timer = s.timer := rfl
@[simp] theorem State.mapWindows_store (s : State) (f : Window → Window) : (s.mapWindows f).store = s.store := rfl
@[simp] theorem State.mapWindows_loaded (s : State) (f : Window → Window) : (s.mapWindows f).loaded = s.loaded := rfl
@[simp] theorem State.mapWindows_image (s : State) (f : Window → Window) : (s.mapWindows f).image = s.image := rfl
@[simp] theorem State.mapWindows_pending (s : State) (f : Window → Window) : (s.mapWindows f).pending = s.pending := rfl

@[simp] theorem State.raise_roster (s : State) (g : Profile → Bool) (k : NoticeKind) (x : Option Subject) (v : Option Int) : (s.raise g k x v).roster = s.roster := rfl
@[simp] theorem State.raise_accounts (s : State) (g : Profile → Bool) (k : NoticeKind) (x : Option Subject) (v : Option Int) : (s.raise g k x v).accounts = s.accounts := rfl
@[simp] theorem State.raise_nextSerial (s : State) (g : Profile → Bool) (k : NoticeKind) (x : Option Subject) (v : Option Int) : (s.raise g k x v).nextSerial = s.nextSerial := rfl
@[simp] theorem State.raise_cabins (s : State) (g : Profile → Bool) (k : NoticeKind) (x : Option Subject) (v : Option Int) : (s.raise g k x v).cabins = s.cabins := rfl
@[simp] theorem State.raise_unlocks (s : State) (g : Profile → Bool) (k : NoticeKind) (x : Option Subject) (v : Option Int) : (s.raise g k x v).unlocks = s.unlocks := rfl
@[simp] theorem State.raise_nextToken (s : State) (g : Profile → Bool) (k : NoticeKind) (x : Option Subject) (v : Option Int) : (s.raise g k x v).nextToken = s.nextToken := rfl
@[simp] theorem State.raise_log (s : State) (g : Profile → Bool) (k : NoticeKind) (x : Option Subject) (v : Option Int) : (s.raise g k x v).log = s.log := rfl
@[simp] theorem State.raise_nextSeq (s : State) (g : Profile → Bool) (k : NoticeKind) (x : Option Subject) (v : Option Int) : (s.raise g k x v).nextSeq = s.nextSeq := rfl
@[simp] theorem State.raise_holds (s : State) (g : Profile → Bool) (k : NoticeKind) (x : Option Subject) (v : Option Int) : (s.raise g k x v).holds = s.holds := rfl
@[simp] theorem State.raise_closures (s : State) (g : Profile → Bool) (k : NoticeKind) (x : Option Subject) (v : Option Int) : (s.raise g k x v).closures = s.closures := rfl
@[simp] theorem State.raise_counters (s : State) (g : Profile → Bool) (k : NoticeKind) (x : Option Subject) (v : Option Int) : (s.raise g k x v).counters = s.counters := rfl
@[simp] theorem State.raise_call (s : State) (g : Profile → Bool) (k : NoticeKind) (x : Option Subject) (v : Option Int) : (s.raise g k x v).call = s.call := rfl
@[simp] theorem State.raise_missing (s : State) (g : Profile → Bool) (k : NoticeKind) (x : Option Subject) (v : Option Int) : (s.raise g k x v).missing = s.missing := rfl
@[simp] theorem State.raise_shipTime (s : State) (g : Profile → Bool) (k : NoticeKind) (x : Option Subject) (v : Option Int) : (s.raise g k x v).shipTime = s.shipTime := rfl
@[simp] theorem State.raise_shipDay (s : State) (g : Profile → Bool) (k : NoticeKind) (x : Option Subject) (v : Option Int) : (s.raise g k x v).shipDay = s.shipDay := rfl
@[simp] theorem State.raise_nextRollover (s : State) (g : Profile → Bool) (k : NoticeKind) (x : Option Subject) (v : Option Int) : (s.raise g k x v).nextRollover = s.nextRollover := rfl
@[simp] theorem State.raise_options (s : State) (g : Profile → Bool) (k : NoticeKind) (x : Option Subject) (v : Option Int) : (s.raise g k x v).options = s.options := rfl
@[simp] theorem State.raise_tariff (s : State) (g : Profile → Bool) (k : NoticeKind) (x : Option Subject) (v : Option Int) : (s.raise g k x v).tariff = s.tariff := rfl
@[simp] theorem State.raise_pendingTariff (s : State) (g : Profile → Bool) (k : NoticeKind) (x : Option Subject) (v : Option Int) : (s.raise g k x v).pendingTariff = s.pendingTariff := rfl
@[simp] theorem State.raise_marker (s : State) (g : Profile → Bool) (k : NoticeKind) (x : Option Subject) (v : Option Int) : (s.raise g k x v).marker = s.marker := rfl
@[simp] theorem State.raise_lanes (s : State) (g : Profile → Bool) (k : NoticeKind) (x : Option Subject) (v : Option Int) : (s.raise g k x v).lanes = s.lanes := rfl
@[simp] theorem State.raise_clock (s : State) (g : Profile → Bool) (k : NoticeKind) (x : Option Subject) (v : Option Int) : (s.raise g k x v).clock = s.clock := rfl
@[simp] theorem State.raise_lastTick (s : State) (g : Profile → Bool) (k : NoticeKind) (x : Option Subject) (v : Option Int) : (s.raise g k x v).lastTick = s.lastTick := rfl
@[simp] theorem State.raise_tickSeen (s : State) (g : Profile → Bool) (k : NoticeKind) (x : Option Subject) (v : Option Int) : (s.raise g k x v).tickSeen = s.tickSeen := rfl
@[simp] theorem State.raise_timer (s : State) (g : Profile → Bool) (k : NoticeKind) (x : Option Subject) (v : Option Int) : (s.raise g k x v).timer = s.timer := rfl
@[simp] theorem State.raise_store (s : State) (g : Profile → Bool) (k : NoticeKind) (x : Option Subject) (v : Option Int) : (s.raise g k x v).store = s.store := rfl
@[simp] theorem State.raise_loaded (s : State) (g : Profile → Bool) (k : NoticeKind) (x : Option Subject) (v : Option Int) : (s.raise g k x v).loaded = s.loaded := rfl
@[simp] theorem State.raise_image (s : State) (g : Profile → Bool) (k : NoticeKind) (x : Option Subject) (v : Option Int) : (s.raise g k x v).image = s.image := rfl
@[simp] theorem State.raise_pending (s : State) (g : Profile → Bool) (k : NoticeKind) (x : Option Subject) (v : Option Int) : (s.raise g k x v).pending = s.pending := rfl

@[simp] theorem State.raiseTo_roster (s : State) (p : Port) (k : NoticeKind) (x : Option Subject) (v : Option Int) : (s.raiseTo p k x v).roster = s.roster := rfl
@[simp] theorem State.raiseTo_accounts (s : State) (p : Port) (k : NoticeKind) (x : Option Subject) (v : Option Int) : (s.raiseTo p k x v).accounts = s.accounts := rfl
@[simp] theorem State.raiseTo_nextSerial (s : State) (p : Port) (k : NoticeKind) (x : Option Subject) (v : Option Int) : (s.raiseTo p k x v).nextSerial = s.nextSerial := rfl
@[simp] theorem State.raiseTo_cabins (s : State) (p : Port) (k : NoticeKind) (x : Option Subject) (v : Option Int) : (s.raiseTo p k x v).cabins = s.cabins := rfl
@[simp] theorem State.raiseTo_unlocks (s : State) (p : Port) (k : NoticeKind) (x : Option Subject) (v : Option Int) : (s.raiseTo p k x v).unlocks = s.unlocks := rfl
@[simp] theorem State.raiseTo_nextToken (s : State) (p : Port) (k : NoticeKind) (x : Option Subject) (v : Option Int) : (s.raiseTo p k x v).nextToken = s.nextToken := rfl
@[simp] theorem State.raiseTo_log (s : State) (p : Port) (k : NoticeKind) (x : Option Subject) (v : Option Int) : (s.raiseTo p k x v).log = s.log := rfl
@[simp] theorem State.raiseTo_nextSeq (s : State) (p : Port) (k : NoticeKind) (x : Option Subject) (v : Option Int) : (s.raiseTo p k x v).nextSeq = s.nextSeq := rfl
@[simp] theorem State.raiseTo_holds (s : State) (p : Port) (k : NoticeKind) (x : Option Subject) (v : Option Int) : (s.raiseTo p k x v).holds = s.holds := rfl
@[simp] theorem State.raiseTo_closures (s : State) (p : Port) (k : NoticeKind) (x : Option Subject) (v : Option Int) : (s.raiseTo p k x v).closures = s.closures := rfl
@[simp] theorem State.raiseTo_counters (s : State) (p : Port) (k : NoticeKind) (x : Option Subject) (v : Option Int) : (s.raiseTo p k x v).counters = s.counters := rfl
@[simp] theorem State.raiseTo_call (s : State) (p : Port) (k : NoticeKind) (x : Option Subject) (v : Option Int) : (s.raiseTo p k x v).call = s.call := rfl
@[simp] theorem State.raiseTo_missing (s : State) (p : Port) (k : NoticeKind) (x : Option Subject) (v : Option Int) : (s.raiseTo p k x v).missing = s.missing := rfl
@[simp] theorem State.raiseTo_shipTime (s : State) (p : Port) (k : NoticeKind) (x : Option Subject) (v : Option Int) : (s.raiseTo p k x v).shipTime = s.shipTime := rfl
@[simp] theorem State.raiseTo_shipDay (s : State) (p : Port) (k : NoticeKind) (x : Option Subject) (v : Option Int) : (s.raiseTo p k x v).shipDay = s.shipDay := rfl
@[simp] theorem State.raiseTo_nextRollover (s : State) (p : Port) (k : NoticeKind) (x : Option Subject) (v : Option Int) : (s.raiseTo p k x v).nextRollover = s.nextRollover := rfl
@[simp] theorem State.raiseTo_options (s : State) (p : Port) (k : NoticeKind) (x : Option Subject) (v : Option Int) : (s.raiseTo p k x v).options = s.options := rfl
@[simp] theorem State.raiseTo_tariff (s : State) (p : Port) (k : NoticeKind) (x : Option Subject) (v : Option Int) : (s.raiseTo p k x v).tariff = s.tariff := rfl
@[simp] theorem State.raiseTo_pendingTariff (s : State) (p : Port) (k : NoticeKind) (x : Option Subject) (v : Option Int) : (s.raiseTo p k x v).pendingTariff = s.pendingTariff := rfl
@[simp] theorem State.raiseTo_marker (s : State) (p : Port) (k : NoticeKind) (x : Option Subject) (v : Option Int) : (s.raiseTo p k x v).marker = s.marker := rfl
@[simp] theorem State.raiseTo_lanes (s : State) (p : Port) (k : NoticeKind) (x : Option Subject) (v : Option Int) : (s.raiseTo p k x v).lanes = s.lanes := rfl
@[simp] theorem State.raiseTo_clock (s : State) (p : Port) (k : NoticeKind) (x : Option Subject) (v : Option Int) : (s.raiseTo p k x v).clock = s.clock := rfl
@[simp] theorem State.raiseTo_lastTick (s : State) (p : Port) (k : NoticeKind) (x : Option Subject) (v : Option Int) : (s.raiseTo p k x v).lastTick = s.lastTick := rfl
@[simp] theorem State.raiseTo_tickSeen (s : State) (p : Port) (k : NoticeKind) (x : Option Subject) (v : Option Int) : (s.raiseTo p k x v).tickSeen = s.tickSeen := rfl
@[simp] theorem State.raiseTo_timer (s : State) (p : Port) (k : NoticeKind) (x : Option Subject) (v : Option Int) : (s.raiseTo p k x v).timer = s.timer := rfl
@[simp] theorem State.raiseTo_store (s : State) (p : Port) (k : NoticeKind) (x : Option Subject) (v : Option Int) : (s.raiseTo p k x v).store = s.store := rfl
@[simp] theorem State.raiseTo_loaded (s : State) (p : Port) (k : NoticeKind) (x : Option Subject) (v : Option Int) : (s.raiseTo p k x v).loaded = s.loaded := rfl
@[simp] theorem State.raiseTo_image (s : State) (p : Port) (k : NoticeKind) (x : Option Subject) (v : Option Int) : (s.raiseTo p k x v).image = s.image := rfl
@[simp] theorem State.raiseTo_pending (s : State) (p : Port) (k : NoticeKind) (x : Option Subject) (v : Option Int) : (s.raiseTo p k x v).pending = s.pending := rfl

@[simp] theorem State.respond_roster (s : State) (p : Port) (code tag : Byte) (r : Reply) : (s.respond p code tag r).roster = s.roster := rfl
@[simp] theorem State.respond_accounts (s : State) (p : Port) (code tag : Byte) (r : Reply) : (s.respond p code tag r).accounts = s.accounts := rfl
@[simp] theorem State.respond_nextSerial (s : State) (p : Port) (code tag : Byte) (r : Reply) : (s.respond p code tag r).nextSerial = s.nextSerial := rfl
@[simp] theorem State.respond_cabins (s : State) (p : Port) (code tag : Byte) (r : Reply) : (s.respond p code tag r).cabins = s.cabins := rfl
@[simp] theorem State.respond_unlocks (s : State) (p : Port) (code tag : Byte) (r : Reply) : (s.respond p code tag r).unlocks = s.unlocks := rfl
@[simp] theorem State.respond_nextToken (s : State) (p : Port) (code tag : Byte) (r : Reply) : (s.respond p code tag r).nextToken = s.nextToken := rfl
@[simp] theorem State.respond_log (s : State) (p : Port) (code tag : Byte) (r : Reply) : (s.respond p code tag r).log = s.log := rfl
@[simp] theorem State.respond_nextSeq (s : State) (p : Port) (code tag : Byte) (r : Reply) : (s.respond p code tag r).nextSeq = s.nextSeq := rfl
@[simp] theorem State.respond_holds (s : State) (p : Port) (code tag : Byte) (r : Reply) : (s.respond p code tag r).holds = s.holds := rfl
@[simp] theorem State.respond_closures (s : State) (p : Port) (code tag : Byte) (r : Reply) : (s.respond p code tag r).closures = s.closures := rfl
@[simp] theorem State.respond_counters (s : State) (p : Port) (code tag : Byte) (r : Reply) : (s.respond p code tag r).counters = s.counters := rfl
@[simp] theorem State.respond_call (s : State) (p : Port) (code tag : Byte) (r : Reply) : (s.respond p code tag r).call = s.call := rfl
@[simp] theorem State.respond_missing (s : State) (p : Port) (code tag : Byte) (r : Reply) : (s.respond p code tag r).missing = s.missing := rfl
@[simp] theorem State.respond_shipTime (s : State) (p : Port) (code tag : Byte) (r : Reply) : (s.respond p code tag r).shipTime = s.shipTime := rfl
@[simp] theorem State.respond_shipDay (s : State) (p : Port) (code tag : Byte) (r : Reply) : (s.respond p code tag r).shipDay = s.shipDay := rfl
@[simp] theorem State.respond_nextRollover (s : State) (p : Port) (code tag : Byte) (r : Reply) : (s.respond p code tag r).nextRollover = s.nextRollover := rfl
@[simp] theorem State.respond_options (s : State) (p : Port) (code tag : Byte) (r : Reply) : (s.respond p code tag r).options = s.options := rfl
@[simp] theorem State.respond_tariff (s : State) (p : Port) (code tag : Byte) (r : Reply) : (s.respond p code tag r).tariff = s.tariff := rfl
@[simp] theorem State.respond_pendingTariff (s : State) (p : Port) (code tag : Byte) (r : Reply) : (s.respond p code tag r).pendingTariff = s.pendingTariff := rfl
@[simp] theorem State.respond_marker (s : State) (p : Port) (code tag : Byte) (r : Reply) : (s.respond p code tag r).marker = s.marker := rfl
@[simp] theorem State.respond_lanes (s : State) (p : Port) (code tag : Byte) (r : Reply) : (s.respond p code tag r).lanes = s.lanes := rfl
@[simp] theorem State.respond_clock (s : State) (p : Port) (code tag : Byte) (r : Reply) : (s.respond p code tag r).clock = s.clock := rfl
@[simp] theorem State.respond_lastTick (s : State) (p : Port) (code tag : Byte) (r : Reply) : (s.respond p code tag r).lastTick = s.lastTick := rfl
@[simp] theorem State.respond_tickSeen (s : State) (p : Port) (code tag : Byte) (r : Reply) : (s.respond p code tag r).tickSeen = s.tickSeen := rfl
@[simp] theorem State.respond_timer (s : State) (p : Port) (code tag : Byte) (r : Reply) : (s.respond p code tag r).timer = s.timer := rfl
@[simp] theorem State.respond_store (s : State) (p : Port) (code tag : Byte) (r : Reply) : (s.respond p code tag r).store = s.store := rfl
@[simp] theorem State.respond_loaded (s : State) (p : Port) (code tag : Byte) (r : Reply) : (s.respond p code tag r).loaded = s.loaded := rfl
@[simp] theorem State.respond_image (s : State) (p : Port) (code tag : Byte) (r : Reply) : (s.respond p code tag r).image = s.image := rfl
@[simp] theorem State.respond_pending (s : State) (p : Port) (code tag : Byte) (r : Reply) : (s.respond p code tag r).pending = s.pending := rfl

@[simp] theorem State.reach_roster (s : State) (t : Nat) : (s.reach t).roster = s.roster := rfl
@[simp] theorem State.reach_accounts (s : State) (t : Nat) : (s.reach t).accounts = s.accounts := rfl
@[simp] theorem State.reach_nextSerial (s : State) (t : Nat) : (s.reach t).nextSerial = s.nextSerial := rfl
@[simp] theorem State.reach_cabins (s : State) (t : Nat) : (s.reach t).cabins = s.cabins := rfl
@[simp] theorem State.reach_unlocks (s : State) (t : Nat) : (s.reach t).unlocks = s.unlocks := rfl
@[simp] theorem State.reach_nextToken (s : State) (t : Nat) : (s.reach t).nextToken = s.nextToken := rfl
@[simp] theorem State.reach_log (s : State) (t : Nat) : (s.reach t).log = s.log := rfl
@[simp] theorem State.reach_nextSeq (s : State) (t : Nat) : (s.reach t).nextSeq = s.nextSeq := rfl
@[simp] theorem State.reach_holds (s : State) (t : Nat) : (s.reach t).holds = s.holds := rfl
@[simp] theorem State.reach_closures (s : State) (t : Nat) : (s.reach t).closures = s.closures := rfl
@[simp] theorem State.reach_counters (s : State) (t : Nat) : (s.reach t).counters = s.counters := rfl
@[simp] theorem State.reach_call (s : State) (t : Nat) : (s.reach t).call = s.call := rfl
@[simp] theorem State.reach_missing (s : State) (t : Nat) : (s.reach t).missing = s.missing := rfl
@[simp] theorem State.reach_shipTime (s : State) (t : Nat) : (s.reach t).shipTime = s.shipTime := rfl
@[simp] theorem State.reach_shipDay (s : State) (t : Nat) : (s.reach t).shipDay = s.shipDay := rfl
@[simp] theorem State.reach_nextRollover (s : State) (t : Nat) : (s.reach t).nextRollover = s.nextRollover := rfl
@[simp] theorem State.reach_options (s : State) (t : Nat) : (s.reach t).options = s.options := rfl
@[simp] theorem State.reach_tariff (s : State) (t : Nat) : (s.reach t).tariff = s.tariff := rfl
@[simp] theorem State.reach_pendingTariff (s : State) (t : Nat) : (s.reach t).pendingTariff = s.pendingTariff := rfl
@[simp] theorem State.reach_marker (s : State) (t : Nat) : (s.reach t).marker = s.marker := rfl
@[simp] theorem State.reach_ports (s : State) (t : Nat) : (s.reach t).ports = s.ports := rfl
@[simp] theorem State.reach_lanes (s : State) (t : Nat) : (s.reach t).lanes = s.lanes := rfl
@[simp] theorem State.reach_clock (s : State) (t : Nat) : (s.reach t).clock = s.clock := rfl
@[simp] theorem State.reach_lastTick (s : State) (t : Nat) : (s.reach t).lastTick = s.lastTick := rfl
@[simp] theorem State.reach_tickSeen (s : State) (t : Nat) : (s.reach t).tickSeen = s.tickSeen := rfl
@[simp] theorem State.reach_store (s : State) (t : Nat) : (s.reach t).store = s.store := rfl
@[simp] theorem State.reach_loaded (s : State) (t : Nat) : (s.reach t).loaded = s.loaded := rfl
@[simp] theorem State.reach_image (s : State) (t : Nat) : (s.reach t).image = s.image := rfl
@[simp] theorem State.reach_pending (s : State) (t : Nat) : (s.reach t).pending = s.pending := rfl

end Machine

end Sys2Proof
end

