-- ==== Sys2Proof/Laws/Table.lean ====
section
/-! SUPPORT. Laws/Table.lean: what the table operations do to a slot's reading and to the canonical form. -/

namespace Sys2Proof.Machine

variable {α : Type}

/-! ## Reading after writing -/

theorem Table.fetch_store_same (t : Table α) (k : Nat) (x : α) : (t.store k x).fetch k = some x := by
  induction t with
  | nil => simp [Table.store, Table.fetch]
  | cons e rest ih =>
    obtain ⟨i, a⟩ := e
    simp only [Table.store]
    split
    · simp [Table.fetch]
    · split
      · simp [Table.fetch]
      · have hne : ¬ i = k := fun h => ‹¬ k = i› h.symm
        simp [Table.fetch, hne, ih]

theorem Table.fetch_store_ne (t : Table α) {k j : Nat} (x : α) (h : j ≠ k) :
    (t.store k x).fetch j = t.fetch j := by
  induction t with
  | nil => simp [Table.store, Table.fetch, Ne.symm h]
  | cons e rest ih =>
    obtain ⟨i, a⟩ := e
    simp only [Table.store]
    split
    · simp [Table.fetch, Ne.symm h]
    · split
      · subst_vars
        simp [Table.fetch, Ne.symm h]
      · simp [Table.fetch, ih]

theorem Table.fetch_modify (t : Table α) (k j : Nat) (f : α → α) :
    (t.modify k f).fetch j = if j = k then (t.fetch j).map f else t.fetch j := by
  induction t with
  | nil => simp [Table.modify, Table.fetch]
  | cons e rest ih =>
    obtain ⟨i, a⟩ := e
    simp only [Table.modify]
    split
    · subst_vars
      simp only [Table.fetch]
      split
      · subst_vars
        simp
      · have hne : ¬ j = i := fun h => ‹¬ i = j› h.symm
        simp [hne]
    · simp only [Table.fetch, ih]
      split
      · subst_vars
        have hne : ¬ i = k := ‹_›
        simp [hne]
      · rfl

/-! ## The canonical form -/

theorem Table.rising_mono {t : Table α} {n m : Nat} (h : t.rising n = true) (hm : m ≤ n) : t.rising m = true := by
  cases t with
  | nil => rfl
  | cons e rest =>
    obtain ⟨i, a⟩ := e
    simp only [Table.rising, Bool.and_eq_true, decide_eq_true_eq] at h ⊢
    exact ⟨by omega, h.2⟩

/-- A slot below where a canonical table begins is FREE. -/
theorem Table.fetch_below {t : Table α} {n k : Nat} (h : t.rising n = true) (hk : k < n) : t.fetch k = none := by
  induction t generalizing n with
  | nil => rfl
  | cons e rest ih =>
    obtain ⟨i, a⟩ := e
    simp only [Table.rising, Bool.and_eq_true, decide_eq_true_eq] at h
    have hne : ¬ i = k := by omega
    simp only [Table.fetch, hne, if_false]
    exact ih h.2 (by omega)

theorem Table.rising_store {t : Table α} {n k : Nat} (x : α) (h : t.rising n = true) (hk : n ≤ k) :
    (t.store k x).rising n = true := by
  induction t generalizing n with
  | nil => simp [Table.store, Table.rising, hk]
  | cons e rest ih =>
    obtain ⟨i, a⟩ := e
    simp only [Table.rising, Bool.and_eq_true, decide_eq_true_eq] at h
    simp only [Table.store]
    split
    · simp only [Table.rising, Bool.and_eq_true, decide_eq_true_eq]
      exact ⟨hk, by omega, h.2⟩
    · split
      · subst_vars
        simp only [Table.rising, Bool.and_eq_true, decide_eq_true_eq]
        exact h
      · simp only [Table.rising, Bool.and_eq_true, decide_eq_true_eq]
        exact ⟨h.1, ih h.2 (by omega)⟩

theorem Table.rising_remove {t : Table α} {n : Nat} (k : Nat) (h : t.rising n = true) :
    (t.remove k).rising n = true := by
  induction t generalizing n with
  | nil => rfl
  | cons e rest ih =>
    obtain ⟨i, a⟩ := e
    simp only [Table.rising, Bool.and_eq_true, decide_eq_true_eq] at h
    simp only [Table.remove]
    split
    · exact Table.rising_mono h.2 (by omega)
    · simp only [Table.rising, Bool.and_eq_true, decide_eq_true_eq]
      exact ⟨h.1, ih h.2⟩

theorem Table.rising_modify {t : Table α} {n : Nat} (k : Nat) (f : α → α) (h : t.rising n = true) :
    (t.modify k f).rising n = true := by
  induction t generalizing n with
  | nil => rfl
  | cons e rest ih =>
    obtain ⟨i, a⟩ := e
    simp only [Table.rising, Bool.and_eq_true, decide_eq_true_eq] at h
    simp only [Table.modify]
    split
    · simp only [Table.rising, Bool.and_eq_true, decide_eq_true_eq]
      exact h
    · simp only [Table.rising, Bool.and_eq_true, decide_eq_true_eq]
      exact ⟨h.1, ih h.2⟩

theorem Table.all_store {t : Table α} {p : Nat × α → Bool} {k : Nat} {x : α} (h : t.all p = true)
    (hx : p (k, x) = true) : (t.store k x).all p = true := by
  induction t with
  | nil => simp [Table.store, hx]
  | cons e rest ih =>
    obtain ⟨i, a⟩ := e
    simp only [List.all_cons, Bool.and_eq_true] at h
    simp only [Table.store]
    split
    · simp only [List.all_cons, Bool.and_eq_true]
      exact ⟨hx, h⟩
    · split
      · simp only [List.all_cons, Bool.and_eq_true]
        exact ⟨hx, h.2⟩
      · simp only [List.all_cons, Bool.and_eq_true]
        exact ⟨h.1, ih h.2⟩

theorem Table.all_remove {t : Table α} {p : Nat × α → Bool} (k : Nat) (h : t.all p = true) :
    (t.remove k).all p = true := by
  induction t with
  | nil => rfl
  | cons e rest ih =>
    obtain ⟨i, a⟩ := e
    simp only [List.all_cons, Bool.and_eq_true] at h
    simp only [Table.remove]
    split
    · exact h.2
    · simp only [List.all_cons, Bool.and_eq_true]
      exact ⟨h.1, ih h.2⟩

theorem Table.all_modify {t : Table α} {p : Nat × α → Bool} (k : Nat) (f : α → α) (h : t.all p = true)
    (hf : ∀ i a, p (i, a) = true → p (i, f a) = true) : (t.modify k f).all p = true := by
  induction t with
  | nil => rfl
  | cons e rest ih =>
    obtain ⟨i, a⟩ := e
    simp only [List.all_cons, Bool.and_eq_true] at h
    simp only [Table.modify]
    split
    · simp only [List.all_cons, Bool.and_eq_true]
      exact ⟨hf _ _ h.1, h.2⟩
    · simp only [List.all_cons, Bool.and_eq_true]
      exact ⟨h.1, ih h.2⟩

/-- A write of a slot of the table keeps its canonical form. -/
theorem Table.wf_store {t : Table α} {slots k : Nat} (x : α) (h : t.wf slots = true) (hk : k < slots) :
    (t.store k x).wf slots = true := by
  simp only [Table.wf, Bool.and_eq_true] at h ⊢
  exact ⟨Table.rising_store x h.1 (Nat.zero_le k), Table.all_store h.2 (by simpa using hk)⟩

/-- Freeing a slot keeps the canonical form. -/
theorem Table.wf_remove {t : Table α} {slots : Nat} (k : Nat) (h : t.wf slots = true) :
    (t.remove k).wf slots = true := by
  simp only [Table.wf, Bool.and_eq_true] at h ⊢
  exact ⟨Table.rising_remove k h.1, Table.all_remove k h.2⟩

/-- Changing a record keeps the canonical form. -/
theorem Table.wf_modify {t : Table α} {slots : Nat} (k : Nat) (f : α → α) (h : t.wf slots = true) :
    (t.modify k f).wf slots = true := by
  simp only [Table.wf, Bool.and_eq_true] at h ⊢
  exact ⟨Table.rising_modify k f h.1, Table.all_modify k f h.2 (fun _ _ hi => hi)⟩

/-- Writing a hold slot keeps the canonical form, in which a FREE slot with tag 0 is unlisted. -/
theorem putHold_wf {t : Table HoldSlot} {slots k : Nat} (x : HoldSlot) (h : t.wf slots = true) (hk : k < slots) :
    Table.wf (putHold t k x) slots = true := by
  simp only [putHold]
  split
  · exact Table.wf_remove k h
  · exact Table.wf_store x h hk

theorem Table.fetch_remove_same {t : Table α} {n : Nat} (k : Nat) (h : t.rising n = true) :
    (t.remove k).fetch k = none := by
  induction t generalizing n with
  | nil => rfl
  | cons e rest ih =>
    obtain ⟨i, a⟩ := e
    simp only [Table.rising, Bool.and_eq_true, decide_eq_true_eq] at h
    simp only [Table.remove]
    split
    · subst_vars
      exact Table.fetch_below h.2 (Nat.lt_succ_self i)
    · have hne : ¬ i = k := ‹_›
      simp only [Table.fetch, hne, if_false]
      exact ih h.2

theorem Table.fetch_remove_ne (t : Table α) {k j : Nat} (h : j ≠ k) : (t.remove k).fetch j = t.fetch j := by
  induction t with
  | nil => rfl
  | cons e rest ih =>
    obtain ⟨i, a⟩ := e
    simp only [Table.remove]
    split
    · subst_vars
      simp [Table.fetch, Ne.symm h]
    · simp [Table.fetch, ih]

/-! ## Look-up -/

/-- A record found by its key meets the key. -/
theorem Table.search_pred {t : Table α} {p : α → Bool} {k : Nat} {a : α} (h : t.search p = some (k, a)) :
    p a = true := by
  induction t with
  | nil => simp [Table.search] at h
  | cons e rest ih =>
    obtain ⟨i, b⟩ := e
    simp only [Table.search] at h
    split at h
    · cases h
      assumption
    · exact ih h

/-- A record found by its key is listed. -/
theorem Table.search_mem {t : Table α} {p : α → Bool} {k : Nat} {a : α} (h : t.search p = some (k, a)) :
    (k, a) ∈ t := by
  induction t with
  | nil => simp [Table.search] at h
  | cons e rest ih =>
    obtain ⟨i, b⟩ := e
    simp only [Table.search] at h
    split at h
    · cases h
      exact List.mem_cons_self
    · exact List.mem_cons_of_mem _ (ih h)

/-- In a canonical table a listed record is the one its slot reads as. -/
theorem Table.fetch_of_mem {t : Table α} {n k : Nat} {a : α} (hr : t.rising n = true) (h : (k, a) ∈ t) :
    t.fetch k = some a := by
  induction t generalizing n with
  | nil => cases h
  | cons e rest ih =>
    obtain ⟨i, b⟩ := e
    simp only [Table.rising, Bool.and_eq_true, decide_eq_true_eq] at hr
    rcases List.mem_cons.mp h with h | h
    · cases h
      simp [Table.fetch]
    · have hk := ih hr.2 h
      have hne : ¬ i = k := by
        intro hik
        subst hik
        rw [Table.fetch_below hr.2 (Nat.lt_succ_self i)] at hk
        cases hk
      simp [Table.fetch, hne, hk]

/-- A record that a slot reads as is listed. -/
theorem Table.mem_of_fetch {t : Table α} {k : Nat} {a : α} (h : t.fetch k = some a) : (k, a) ∈ t := by
  induction t with
  | nil => simp [Table.fetch] at h
  | cons e rest ih =>
    obtain ⟨i, b⟩ := e
    simp only [Table.fetch] at h
    split at h
    · cases h
      subst_vars
      exact List.mem_cons_self
    · exact List.mem_cons_of_mem _ (ih h)

theorem Table.rising_of_wf {t : Table α} {slots : Nat} (h : t.wf slots = true) : t.rising 0 = true := by
  simp only [Table.wf, Bool.and_eq_true] at h
  exact h.1

/-- In a canonical table a record found by its key is the one its slot reads as. -/
theorem Table.fetch_of_search {t : Table α} {slots : Nat} {p : α → Bool} {k : Nat} {a : α}
    (hw : t.wf slots = true) (h : t.search p = some (k, a)) : t.fetch k = some a :=
  Table.fetch_of_mem (Table.rising_of_wf hw) (Table.search_mem h)

/-- A listed slot lies in the table. -/
theorem Table.slot_lt {t : Table α} {slots k : Nat} {a : α} (hw : t.wf slots = true) (h : (k, a) ∈ t) :
    k < slots := by
  simp only [Table.wf, Bool.and_eq_true, List.all_eq_true, decide_eq_true_eq] at hw
  exact hw.2 _ h

/-- The slot of a record found by its key lies in the table. -/
theorem Table.search_lt {t : Table α} {slots : Nat} {p : α → Bool} {k : Nat} {a : α} (hw : t.wf slots = true)
    (h : t.search p = some (k, a)) : k < slots :=
  Table.slot_lt hw (Table.search_mem h)

theorem Table.lowestFrom_ge (t : Table α) (n : Nat) : n ≤ t.lowestFrom n := by
  induction t generalizing n with
  | nil => exact Nat.le_refl n
  | cons e rest ih =>
    obtain ⟨i, a⟩ := e
    simp only [Table.lowestFrom]
    split
    · exact Nat.le_trans (Nat.le_succ n) (ih (n + 1))
    · exact Nat.le_refl n

/-- The lowest FREE slot of a canonical table is FREE. -/
theorem Table.fetch_lowestFrom {t : Table α} {n : Nat} (h : t.rising n = true) :
    t.fetch (t.lowestFrom n) = none := by
  induction t generalizing n with
  | nil => rfl
  | cons e rest ih =>
    obtain ⟨i, a⟩ := e
    simp only [Table.rising, Bool.and_eq_true, decide_eq_true_eq] at h
    simp only [Table.lowestFrom]
    split
    · subst_vars
      have hge := Table.lowestFrom_ge rest (i + 1)
      have hne : ¬ i = Table.lowestFrom rest (i + 1) := by omega
      simp only [Table.fetch, hne, if_false]
      exact ih h.2
    · have hne : ¬ i = n := ‹_›
      simp only [Table.fetch, hne, if_false]
      exact Table.fetch_below h.2 (by omega)

/-- A FREE slot taken lies in the table and reads as FREE. -/
theorem Table.freeSlot_spec {t : Table α} {slots k : Nat} (hw : t.wf slots = true)
    (h : t.freeSlot slots = some k) : k < slots ∧ t.fetch k = none := by
  simp only [Table.freeSlot] at h
  split at h
  · cases h
    exact ⟨‹_›, Table.fetch_lowestFrom (Table.rising_of_wf hw)⟩
  · cases h

/-- Every slot from `n` on below the lowest unlisted one is listed. -/
theorem Table.isSome_below_lowestFrom (t : Table α) {n j : Nat} (hn : n ≤ j) (hj : j < t.lowestFrom n) :
    (t.fetch j).isSome = true := by
  induction t generalizing n with
  | nil => simp only [Table.lowestFrom] at hj; omega
  | cons e rest ih =>
    obtain ⟨i, a⟩ := e
    simp only [Table.lowestFrom] at hj
    split at hj
    · subst_vars
      by_cases hij : i = j
      · simp only [Table.fetch, hij, if_true]; rfl
      · simp only [Table.fetch, hij, if_false]
        exact ih (by omega) hj
    · omega

/-- The slot taken is the lowest FREE one: every lower slot is listed (01 R1). -/
theorem Table.freeSlot_lowest {t : Table α} {slots k : Nat} (h : t.freeSlot slots = some k) :
    ∀ j < k, (t.fetch j).isSome = true := by
  simp only [Table.freeSlot] at h
  split at h
  · cases h
    exact fun j hj => Table.isSome_below_lowestFrom t (Nat.zero_le j) hj
  · cases h

/-- Where no slot is FREE, every slot of the table is listed (01 R1). -/
theorem Table.freeSlot_none {t : Table α} {slots : Nat} (h : t.freeSlot slots = none) :
    ∀ j < slots, (t.fetch j).isSome = true := by
  simp only [Table.freeSlot] at h
  split at h
  · cases h
  · exact fun j hj => Table.isSome_below_lowestFrom t (Nat.zero_le j) (by omega)

end Sys2Proof.Machine
end

