-- ==== Sys2Proof/Laws/Serve.lean ====
section
/-! SUPPORT. Laws/Serve.lean: for each request that may change a record, everything its rule can do: it leaves
the state as it is, or makes the one change named. -/

namespace Sys2Proof.Machine

/-- REISSUE CARD changes the generation alone (01 R7). -/
theorem serveReissue_cases (card : BitVec 32) (s : State) :
    (serveReissue card s).1 = s ∨ ∃ slot c, s.findCard card.toNat = some (slot, c) ∧ ¬ c.state = .closed ∧ ¬ 255 ≤ c.gen ∧ (serveReissue card s).1 =
        { s with roster := s.roster.store slot { c with gen := c.gen + 1 } } := by
  unfold serveReissue
  try dsimp only
  repeat' split
  all_goals first | exact .inl rfl | exact .inr ⟨_, _, ‹_›, ‹_›, ‹_›, rfl⟩

/-- SUSPEND changes the state alone (01 R8). -/
theorem serveSuspend_cases (card : BitVec 32) (s : State) :
    (serveSuspend card s).1 = s ∨ ∃ slot c, s.findCard card.toNat = some (slot, c) ∧ c.state = .active ∧ (serveSuspend card s).1 =
        { s with roster := s.roster.store slot { c with state := .suspended } } := by
  unfold serveSuspend
  try dsimp only
  repeat' split
  all_goals first | exact .inl rfl | exact .inr ⟨_, _, ‹_›, ‹_›, rfl⟩

/-- RESUME changes the state and the conflict count alone (01 R8). -/
theorem serveResume_cases (card : BitVec 32) (s : State) :
    (serveResume card s).1 = s ∨ ∃ slot c, s.findCard card.toNat = some (slot, c) ∧ ¬ c.state = .closed ∧ (serveResume card s).1 =
        { s with roster := s.roster.store slot { c with state := .active, conflicts := 0 } } := by
  unfold serveResume
  try dsimp only
  repeat' split
  all_goals first | exact .inl rfl | exact .inr ⟨_, _, ‹_›, ‹_›, rfl⟩

/-- SET CLASS MASK changes the class mask alone (01 R9). -/
theorem serveSetClassMask_cases (card : BitVec 32) (mask : Byte) (s : State) :
    (serveSetClassMask card mask s).1 = s ∨ ∃ slot c, s.findCard card.toNat = some (slot, c) ∧ ¬ (c.state = .closed ∨ c.kind = .staff) ∧ (serveSetClassMask card mask s).1 =
        { s with roster := s.roster.store slot { c with classMask := mask } } := by
  unfold serveSetClassMask
  try dsimp only
  repeat' split
  all_goals first | exact .inl rfl | exact .inr ⟨_, _, ‹_›, ‹_›, rfl⟩

/-- SET DECK MASK changes the deck mask alone (01 R9). -/
theorem serveSetDeckMask_cases (card : BitVec 32) (mask : BitVec 32) (s : State) :
    (serveSetDeckMask card mask s).1 = s ∨ ∃ slot c, s.findCard card.toNat = some (slot, c) ∧ ¬ (c.state = .closed ∨ c.kind ≠ .staff) ∧ ¬ deckMaskOk mask = false ∧ (serveSetDeckMask card mask s).1 =
        { s with roster := s.roster.store slot { c with deckMask := mask } } := by
  unfold serveSetDeckMask
  try dsimp only
  repeat' split
  all_goals first | exact .inl rfl | exact .inr ⟨_, _, ‹_›, ‹_›, ‹_›, rfl⟩

/-- PURGE frees the slot and lowers the counter of its presence (01 R10). -/
theorem servePurge_cases (card : BitVec 32) (s : State) :
    (servePurge card s).1 = s ∨ ∃ slot c, s.findCard card.toNat = some (slot, c) ∧ ¬ c.purgeable = false ∧ ¬ s.unlocks.any (fun u => u.holder == slot) = true ∧ (servePurge card s).1 =
        { s with roster := s.roster.remove slot, counters := s.counters.downIf c.presence } := by
  unfold servePurge
  try dsimp only
  repeat' split
  all_goals first | exact .inl rfl | exact .inr ⟨_, _, ‹_›, ‹_›, ‹_›, rfl⟩

/-- CAP UP moves the offset by 1 (03 R63). -/
theorem serveCapUp_cases (card : BitVec 32) (s : State) :
    (serveCapUp card s).1 = s ∨ ∃ slot c, s.findCard card.toNat = some (slot, c) ∧ ¬ (c.kind = .staff ∨ c.state = .closed) ∧ ¬ 31 ≤ c.capOffset ∧ (serveCapUp card s).1 =
        { s with roster := s.roster.store slot { c with capOffset := c.capOffset + 1 } } := by
  unfold serveCapUp
  try dsimp only
  repeat' split
  all_goals first | exact .inl rfl | exact .inr ⟨_, _, ‹_›, ‹_›, ‹_›, rfl⟩

/-- CAP DOWN moves the offset by 1 (03 R63). -/
theorem serveCapDown_cases (card : BitVec 32) (s : State) :
    (serveCapDown card s).1 = s ∨ ∃ slot c, s.findCard card.toNat = some (slot, c) ∧ ¬ (c.kind = .staff ∨ c.state = .closed) ∧ ¬ c.capOffset ≤ -32 ∧ (serveCapDown card s).1 =
        { s with roster := s.roster.store slot { c with capOffset := c.capOffset - 1 } } := by
  unfold serveCapDown
  try dsimp only
  repeat' split
  all_goals first | exact .inl rfl | exact .inr ⟨_, _, ‹_›, ‹_›, ‹_›, rfl⟩

/-- SET CAP OFFSET writes the clamped offset alone (03 R64). -/
theorem serveSetCapOffset_cases (card : BitVec 32) (offset : Byte) (s : State) :
    (serveSetCapOffset card offset s).1 = s ∨ ∃ slot c, s.findCard card.toNat = some (slot, c) ∧ ¬ (c.kind = .staff ∨ c.state = .closed) ∧ (serveSetCapOffset card offset s).1 =
        { s with roster := s.roster.store slot { c with capOffset := clampOffset offset.toInt } } := by
  unfold serveSetCapOffset
  try dsimp only
  repeat' split
  all_goals first | exact .inl rfl | exact .inr ⟨_, _, ‹_›, ‹_›, rfl⟩

/-- SET LIMIT writes the limit, with the OVER_LIMIT notice (01 R15). -/
theorem serveSetLimit_cases (folio amount : BitVec 32) (s : State) :
    (serveSetLimit folio amount s).1 = s ∨ ∃ slot a, s.findFolio folio.toNat = some (slot, a) ∧ ¬ Config.capMax < amount.toNat ∧ (serveSetLimit folio amount s).1 =
        ({ s with accounts := s.accounts.store slot { a with limit := amount.toNat } } : State).noteOverLimit { a with limit := amount.toNat } := by
  unfold serveSetLimit
  try dsimp only
  repeat' split
  all_goals first | exact .inl rfl | exact .inr ⟨_, _, ‹_›, ‹_›, rfl⟩

/-- SET DEPOSIT writes the deposit, with the OVER_LIMIT notice (01 R15). -/
theorem serveSetDeposit_cases (folio amount : BitVec 32) (s : State) :
    (serveSetDeposit folio amount s).1 = s ∨ ∃ slot a, s.findFolio folio.toNat = some (slot, a) ∧ ¬ Config.depositMax < amount.toNat ∧ (serveSetDeposit folio amount s).1 =
        ({ s with accounts := s.accounts.store slot { a with deposit := amount.toNat } } : State).noteOverLimit { a with deposit := amount.toNat } := by
  unfold serveSetDeposit
  try dsimp only
  repeat' split
  all_goals first | exact .inl rfl | exact .inr ⟨_, _, ‹_›, ‹_›, rfl⟩

/-- SET PACKAGE writes the package code alone (01 R16). -/
theorem serveSetPackage_cases (folio : BitVec 32) (package : Byte) (s : State) :
    (serveSetPackage folio package s).1 = s ∨ ∃ slot a, ¬ 15 < package.toNat ∧ s.findFolio folio.toNat = some (slot, a) ∧ (serveSetPackage folio package s).1 =
        { s with accounts := s.accounts.store slot { a with package := package.toNat } } := by
  unfold serveSetPackage
  try dsimp only
  repeat' split
  all_goals first | exact .inl rfl | exact .inr ⟨_, _, ‹_›, ‹_›, rfl⟩

/-- SET MINOR RELEASE writes the flag alone (01 R16). -/
theorem serveSetMinorRelease_cases (folio : BitVec 32) (value : Byte) (s : State) :
    (serveSetMinorRelease folio value s).1 = s ∨ ∃ b slot a, flagOf value = some b ∧ s.findFolio folio.toNat = some (slot, a) ∧ (serveSetMinorRelease folio value s).1 =
        { s with accounts := s.accounts.store slot { a with minorRelease := b } } := by
  unfold serveSetMinorRelease
  try dsimp only
  repeat' split
  all_goals first | exact .inl rfl | exact .inr ⟨_, _, _, ‹_›, ‹_›, rfl⟩

/-- SETTLE BEGIN sets the state and the cursor alone (05 R97). -/
theorem serveSettleBegin_cases (folio : BitVec 32) (s : State) :
    (serveSettleBegin folio s).1 = s ∨ ∃ slot a, s.findFolio folio.toNat = some (slot, a) ∧ ¬ a.state ≠ .opened ∧ ¬ s.liveHolds a.serial ≠ 0 ∧ (serveSettleBegin folio s).1 =
        { s with accounts := s.accounts.store slot { a with state := .settling, cursor := a.first } } := by
  unfold serveSettleBegin
  try dsimp only
  repeat' split
  all_goals first | exact .inl rfl | exact .inr ⟨_, _, ‹_›, ‹_›, ‹_›, rfl⟩

/-- REOPEN sets the account OPEN without a cursor, with the OVER_LIMIT notice (05 R103). -/
theorem serveReopen_cases (folio : BitVec 32) (s : State) :
    (serveReopen folio s).1 = s ∨ ∃ slot a, s.findFolio folio.toNat = some (slot, a) ∧ ¬ a.state = .opened ∧ (serveReopen folio s).1 =
        ({ s with accounts := s.accounts.store slot a.reopened } : State).noteOverLimit a := by
  unfold serveReopen
  try dsimp only
  repeat' split
  all_goals first | exact .inl rfl | exact .inr ⟨_, _, ‹_›, ‹_›, rfl⟩

/-- CLOSE closes the account or changes nothing (05 R105, R106). -/
theorem serveClose_cases (folio : BitVec 32) (s : State) :
    (serveClose folio s).1 = s ∨ ∃ slot a, s.findFolio folio.toNat = some (slot, a) ∧ ¬ a.state ≠ .settled ∧ ¬ Config.closurePlaces ≤ s.closures.length ∧ (serveClose folio s).1 =
        s.closeAccount slot a := by
  unfold serveClose
  try dsimp only
  repeat' split
  all_goals first | exact .inl rfl | exact .inr ⟨_, _, ‹_›, ‹_›, ‹_›, rfl⟩

/-- TAKE CLOSURE drops the oldest summary and counts it in the windows (05 R109). -/
theorem serveTakeClosure_cases (s : State) :
    (serveTakeClosure s).1 = s ∨ ∃ x rest, s.closures = x :: rest ∧ (serveTakeClosure s).1 =
        ({ s with closures := rest } : State).mapWindows Window.closureTaken := by
  unfold serveTakeClosure
  try dsimp only
  repeat' split
  all_goals first | exact .inl rfl | exact .inr ⟨_, _, ‹_›, rfl⟩

/-- DEFINE CABIN writes one cabin slot (01 R18). -/
theorem serveDefineCabin_cases (cabin : BitVec 16) (deck : Byte) (s : State) :
    (serveDefineCabin cabin deck s).1 = s ∨ ∃ slot, ¬ (cabin.toNat = 0 ∨ deck.toNat = 0 ∨ 20 < deck.toNat) ∧ ¬ (s.findCabin cabin.toNat).isSome = true ∧ s.cabins.freeSlot Config.cabinSlots = some slot ∧ (serveDefineCabin cabin deck s).1 =
        { s with cabins := s.cabins.store slot { number := cabin.toNat, deck := deck.toNat, blocked := .none, privacy := false, grantees := [], history := [] } } := by
  unfold serveDefineCabin
  try dsimp only
  repeat' split
  all_goals first | exact .inl rfl | exact .inr ⟨_, ‹_›, ‹_›, ‹_›, rfl⟩

/-- UNDEFINE CABIN frees the cabin slot and ends the windows on its history (01 R19, 09 R176). -/
theorem serveUndefineCabin_cases (cabin : BitVec 16) (s : State) :
    (serveUndefineCabin cabin s).1 = s ∨ ∃ slot k, s.findCabin cabin.toNat = some (slot, k) ∧ ¬ (k.grantees ≠ [] ∨ (s.unlockOf slot).isSome = true) ∧ (serveUndefineCabin cabin s).1 =
        ({ s with cabins := s.cabins.remove slot } : State).mapWindows (Window.cabinGone slot) := by
  unfold serveUndefineCabin
  try dsimp only
  repeat' split
  all_goals first | exact .inl rfl | exact .inr ⟨_, _, ‹_›, ‹_›, rfl⟩

/-- BLOCK CABIN writes the blocked field alone (01 R20). -/
theorem serveBlockCabin_cases (cabin : BitVec 16) (s : State) :
    (serveBlockCabin cabin s).1 = s ∨ ∃ slot k b, s.findCabin cabin.toNat = some (slot, k) ∧ (serveBlockCabin cabin s).1 =
        { s with cabins := s.cabins.store slot { k with blocked := b } } := by
  unfold serveBlockCabin
  try dsimp only
  repeat' split
  all_goals first | exact .inl rfl | exact .inr ⟨_, _, _, ‹_›, rfl⟩

/-- UNBLOCK CABIN clears the blocked field alone (01 R20). -/
theorem serveUnblockCabin_cases (cabin : BitVec 16) (s : State) :
    (serveUnblockCabin cabin s).1 = s ∨ ∃ slot k, s.findCabin cabin.toNat = some (slot, k) ∧ (serveUnblockCabin cabin s).1 =
        { s with cabins := s.cabins.store slot { k with blocked := .none } } := by
  unfold serveUnblockCabin
  try dsimp only
  repeat' split
  all_goals first | exact .inl rfl | exact .inr ⟨_, _, ‹_›, rfl⟩

/-- PRIVACY SET sets the flag of a cabin with a grantee (02 R46). -/
theorem servePrivacySet_cases (cabin : BitVec 16) (s : State) :
    (servePrivacySet cabin s).1 = s ∨ ∃ slot k, s.findCabin cabin.toNat = some (slot, k) ∧ ¬ k.grantees = [] ∧ (servePrivacySet cabin s).1 =
        { s with cabins := s.cabins.store slot { k with privacy := true } } := by
  unfold servePrivacySet
  try dsimp only
  repeat' split
  all_goals first | exact .inl rfl | exact .inr ⟨_, _, ‹_›, ‹_›, rfl⟩

/-- PRIVACY CLEAR clears the flag alone (02 R47). -/
theorem servePrivacyClear_cases (cabin : BitVec 16) (s : State) :
    (servePrivacyClear cabin s).1 = s ∨ ∃ slot k, s.findCabin cabin.toNat = some (slot, k) ∧ (servePrivacyClear cabin s).1 =
        { s with cabins := s.cabins.store slot { k with privacy := false } } := by
  unfold servePrivacyClear
  try dsimp only
  repeat' split
  all_goals first | exact .inl rfl | exact .inr ⟨_, _, ‹_›, rfl⟩

/-- REVOKE CABIN takes the pair out of the relation or changes nothing (01 R23). -/
theorem serveRevokeCabin_cases (card : BitVec 32) (cabin : BitVec 16) (s : State) :
    (serveRevokeCabin card cabin s).1 = s ∨ ∃ slot c kslot k, s.findCard card.toNat = some (slot, c) ∧ s.findCabin cabin.toNat = some (kslot, k) ∧ kslot ∈ c.cabins ∧ (serveRevokeCabin card cabin s).1 =
        s.unpair slot kslot := by
  unfold serveRevokeCabin
  try dsimp only
  repeat' split
  all_goals first | exact .inl rfl | exact .inr ⟨_, _, _, _, ‹_›, ‹_›, ‹_›, rfl⟩

/-- REKEY CABIN takes every pair of the cabin out of the relation (01 R24). -/
theorem serveRekeyCabin_cases (cabin : BitVec 16) (s : State) :
    (serveRekeyCabin cabin s).1 = s ∨ ∃ slot k, s.findCabin cabin.toNat = some (slot, k) ∧ (serveRekeyCabin cabin s).1 =
        k.grantees.foldl (fun t holder => t.unpair holder slot) s := by
  unfold serveRekeyCabin
  try dsimp only
  repeat' split
  all_goals first | exact .inl rfl | exact .inr ⟨_, _, ‹_›, rfl⟩

/-- GRANT CABIN appends the pair on both sides or changes nothing (01 R22). -/
theorem serveGrantCabin_cases (card : BitVec 32) (cabin : BitVec 16) (s : State) :
    (serveGrantCabin card cabin s).1 = s ∨ ∃ slot c kslot k, s.findCard card.toNat = some (slot, c) ∧ s.findCabin cabin.toNat = some (kslot, k) ∧ ¬ (c.kind = .staff ∨ c.state = .closed) ∧ ¬ kslot ∈ c.cabins ∧ ¬ (Config.cabinsPerCardholder ≤ c.cabins.length ∨ Config.granteesPerCabin ≤ k.grantees.length) ∧ (serveGrantCabin card cabin s).1 =
        { s with roster := s.roster.store slot { c with cabins := c.cabins ++ [kslot] }, cabins := s.cabins.store kslot { k with grantees := k.grantees ++ [slot] } } := by
  unfold serveGrantCabin
  try dsimp only
  repeat' split
  all_goals first | exact .inl rfl | exact .inr ⟨_, _, _, _, ‹_›, ‹_›, ‹_›, ‹_›, ‹_›, rfl⟩

/-- SET PRESENCE moves one guest, or changes nothing (07 R141). -/
theorem serveSetPresence_cases (card : BitVec 32) (presence : Byte) (s : State) :
    (serveSetPresence card presence s).1 = s ∨ ∃ q slot c p, Presence.ofCode presence = some q ∧ s.findCard card.toNat = some (slot, c) ∧ c.presence = some p ∧ (serveSetPresence card presence s).1 =
        s.setPresence slot p q := by
  unfold serveSetPresence
  try dsimp only
  repeat' split
  all_goals first | exact .inl rfl | exact .inr ⟨_, _, _, _, ‹_›, ‹_›, ‹_›, rfl⟩

/-- OPEN CALL writes the call record alone (07 R142). -/
theorem serveOpenCall_cases (kind : Byte) (allAboard : BitVec 32) (mode : Byte) (closeTime : BitVec 32) (s : State) :
    (serveOpenCall kind allAboard mode closeTime s).1 = s ∨ ∃ record, ¬ s.call.state ≠ .atSea ∧ openedCall kind allAboard.toNat mode closeTime.toNat s.shipTime = some record ∧ (serveOpenCall kind allAboard mode closeTime s).1 =
        { s with call := record } := by
  unfold serveOpenCall
  try dsimp only
  repeat' split
  all_goals first | exact .inl rfl | exact .inr ⟨_, ‹_›, ‹_›, rfl⟩

/-- CLOSE CALL closes the call or changes nothing (07 R146). -/
theorem serveCloseCall_cases (force : Byte) (s : State) :
    (serveCloseCall force s).1 = s ∨ ∃ f, flagOf force = some f ∧ ¬ s.call.state = .atSea ∧ ¬ s.closeRefused f = true ∧ (serveCloseCall force s).1 =
        s.closeCall s.leftBehind := by
  unfold serveCloseCall
  try dsimp only
  repeat' split
  all_goals first | exact .inl rfl | exact .inr ⟨_, ‹_›, ‹_›, ‹_›, rfl⟩

/-- LANE MODE writes one lane or changes nothing (06 R126). -/
theorem serveLaneMode_cases (lane mode direction clearFaults : Byte) (s : State) :
    (serveLaneMode lane mode direction clearFaults s).1 = s ∨ ∃ l m d c, laneOf lane = some l ∧ LaneMode.ofCode mode = some m ∧ DirSetting.ofCode direction = some d ∧ flagOf clearFaults = some c ∧ (serveLaneMode lane mode direction clearFaults s).1 =
        s.modLane l (fun x => x.setMode m d c) := by
  unfold serveLaneMode
  try dsimp only
  repeat' split
  all_goals first | exact .inl rfl | exact .inr ⟨_, _, _, _, ‹_›, ‹_›, ‹_›, ‹_›, rfl⟩

/-- SET TIME advances ship time or changes nothing (08 R158). -/
theorem serveSetTime_cases (time : BitVec 32) (s : State) :
    (serveSetTime time s).1 = s ∨ ¬ time.toNat < s.shipTime ∧ ¬ time.toNat = s.shipTime ∧ (serveSetTime time s).1 =
        s.advanceTo time.toNat := by
  unfold serveSetTime
  try dsimp only
  repeat' split
  all_goals first | exact .inl rfl | exact .inr ⟨‹_›, ‹_›, rfl⟩

/-- SET TARIFF part 1 writes the pending tariff alone (10 R179). -/
theorem serveSetTariff1_cases (part : TariffPart1) (s : State) :
    (serveSetTariff1 part s).1 = s ∨ ¬ part.wf = false ∧ ¬ (tariffOf part s.tariff).capCeiling < (tariffOf part s.tariff).capFloor ∧ (serveSetTariff1 part s).1 =
        { s with pendingTariff := some (tariffOf part s.tariff) } := by
  unfold serveSetTariff1
  try dsimp only
  repeat' split
  all_goals first | exact .inl rfl | exact .inr ⟨‹_›, ‹_›, rfl⟩

/-- SET TARIFF part 2 writes rows 8 to 15 of the pending tariff alone (11 R192). -/
theorem serveSetTariff2_cases (rows : List (BitVec 16)) (s : State) :
    (serveSetTariff2 rows s).1 = s ∨ ∃ t, ¬ rows.length ≠ 64 ∧ s.pendingTariff = some t ∧ (serveSetTariff2 rows s).1 =
        { s with pendingTariff := some (t.withRows rows) } := by
  unfold serveSetTariff2
  try dsimp only
  repeat' split
  all_goals first | exact .inl rfl | exact .inr ⟨_, ‹_›, ‹_›, rfl⟩

/-- LOAD SETTINGS makes the image the working settings or changes nothing (10 R181). -/
theorem serveLoadSettings_cases (s : State) :
    (serveLoadSettings s).1 = s ∨ ∃ x, s.store = .idle ∧ s.image = some x ∧ (serveLoadSettings s).1 =
        { s.putOptions x.options with tariff := x.tariff, pendingTariff := none, loaded := true } := by
  unfold serveLoadSettings
  try dsimp only
  repeat' split
  all_goals first | exact .inl rfl | exact .inr ⟨_, ‹_›, ‹_›, rfl⟩

/-- SAVE SETTINGS begins the save or changes nothing (10 R182). -/
theorem serveSaveSettings_cases (p : Port) (s : State) :
    (serveSaveSettings p s).1 = s ∨ s.store = .idle ∧ ¬ (s.image.isSome = true ∧ s.loaded = false) ∧ (serveSaveSettings p s).1 =
        { s with store := .busy p s.snapshot, image := none } := by
  unfold serveSaveSettings
  try dsimp only
  repeat' split
  all_goals first | exact .inl rfl | exact .inr ⟨‹_›, ‹_›, rfl⟩

/-- VOYAGE CLEAR initializes the records or changes nothing (10 R185). -/
theorem serveVoyageClear_cases (s : State) :
    (serveVoyageClear s).1 = s ∨ ¬ (s.call.state ≠ .atSea ∨ s.accounts ≠ []) ∧ (serveVoyageClear s).1 =
        { s.clearRecords with nextRollover := nextRolloverAfter 0 s.options.rolloverHour, ports := s.ports.map (fun port => { port with window := none }), lanes := s.lanes.map (fun l => { l with lastRead := none }) } := by
  unfold serveVoyageClear
  try dsimp only
  repeat' split
  all_goals first | exact .inl rfl | exact .inr ⟨‹_›, rfl⟩

/-- SET NOTICE MASK writes the mask of its port alone (09 R172). -/
theorem serveSetNoticeMask_cases (p : Port) (mask : BitVec 32) (s : State) :
    (serveSetNoticeMask p mask s).1 = s ∨ ¬ noticeMaskOk mask = false ∧ (serveSetNoticeMask p mask s).1 =
        s.modPort p (fun port => { port with mask := mask }) := by
  unfold serveSetNoticeMask
  try dsimp only
  repeat' split
  all_goals first | exact .inl rfl | exact .inr ⟨‹_›, rfl⟩

/-- HOLD RELEASE ends the hold or changes nothing (04 R86). -/
theorem serveHoldRelease_cases (p : Port) (slot reuse : Byte) (s : State) :
    (serveHoldRelease p slot reuse s).1 = s ∨ ∃ h, s.liveHold slot.toNat reuse.toNat = some h ∧ ¬ h.port ≠ p ∧ (serveHoldRelease p slot reuse s).1 =
        s.endHold slot.toNat h := by
  unfold serveHoldRelease
  try dsimp only
  repeat' split
  all_goals first | exact .inl rfl | exact .inr ⟨_, ‹_›, ‹_›, rfl⟩

/-- VOID voids one group or changes nothing (04 R89, R90). -/
theorem serveVoid_cases (p : Port) (seq : BitVec 32) (outlet : BitVec 16) (s : State) :
    (serveVoid p seq outlet s).1 = s ∨ ∃ e g, s.findEntry seq.toNat = some e ∧ s.voidGroup e = .ok g ∧ (serveVoid p seq outlet s).1 =
        s.voidAll g := by
  unfold serveVoid
  try dsimp only
  repeat' split
  all_goals first | exact .inl rfl | exact .inr ⟨_, _, ‹_›, ‹_›, rfl⟩

/-- OPEN ACCOUNT writes one account slot and the counter (01 R14). -/
theorem serveOpenAccount_cases (folio limit deposit : BitVec 32) (s : State) :
    (serveOpenAccount folio limit deposit s).1 = s ∨ ∃ slot, ¬ folio.toNat = 0 ∧ ¬ (s.findFolio folio.toNat).isSome = true ∧ ¬ Config.exhausted ≤ s.nextSerial ∧ s.accounts.freeSlot Config.accountSlots = some slot ∧ (serveOpenAccount folio limit deposit s).1 =
        { s with accounts := s.accounts.store slot { state := .opened, folio := folio.toNat, serial := s.nextSerial, holders := [], limit := limit.toNat, deposit := deposit.toNat, package := 0, minorRelease := false, posted := 0, held := 0, settled := 0, first := none, last := none, count := 0, cursor := none }, nextSerial := s.nextSerial + 1 } := by
  unfold serveOpenAccount
  try dsimp only
  repeat' split
  all_goals first | exact .inl rfl | exact .inr ⟨_, ‹_›, ‹_›, ‹_›, ‹_›, rfl⟩

/-- ADJUST appends one entry, raises LOG_FULL, or changes nothing (04 R92). -/
theorem serveAdjust_cases (folio : BitVec 32) (kind : Byte) (amount : BitVec 32) (s : State) :
    (serveAdjust folio kind amount s).1 = s ∨
      (∃ why, s.logRefusal 1 = some why ∧ (serveAdjust folio kind amount s).1 = s.noteLogFull why) ∨
      ∃ k slot a, EntryKind.ofCode kind = some k ∧ s.findFolio folio.toNat = some (slot, a) ∧
        ¬ a.state = .settled ∧ ¬ adjustOutOfRange a k amount.toNat = true ∧ s.logRefusal 1 = none ∧
        (serveAdjust folio kind amount s).1 = s.post slot (Entry.draft k amount.toNat 7 none none none none) := by
  unfold serveAdjust
  repeat' split
  all_goals first
    | exact .inl rfl
    | exact .inr (.inl ⟨_, ‹_›, rfl⟩)
    | exact .inr (.inr ⟨_, _, _, ‹_›, ‹_›, ‹_›, ‹_›, ‹_›, rfl⟩)

/-- CHARGE posts its shares, or declines with at most a notice or a conflict report (04 R75 to R79). -/
theorem serveCharge_cases (p : Port) (outlet : BitVec 16) (cls : Byte) (unit : BitVec 32) (qty : Byte)
    (cards : List Presentation) (s : State) :
    (serveCharge p outlet cls unit qty cards s).1 = s ∨
      (∃ card r, (serveCharge p outlet cls unit qty cards s).1 = s.declineEffect card r) ∨
      (∃ why, s.logRefusal cards.length = some why ∧
        (serveCharge p outlet cls unit qty cards s).1 = s.noteLogFull why) ∨
      ∃ shares pr, s.authorize cls.toNat (unit.toNat * qty.toNat) cards.length cards 1 [] none =
          .passed shares (some pr) ∧ s.logRefusal cards.length = none ∧
        (serveCharge p outlet cls unit qty cards s).1 =
          (s.postShares p outlet.toNat cls.toNat pr s.nextSeq shares 1).1 := by
  unfold serveCharge
  repeat' split
  all_goals first
    | exact .inl rfl
    | exact .inr (.inr (.inl ⟨_, ‹_›, rfl⟩))
    | exact .inr (.inr (.inr ⟨_, _, ‹_›, ‹_›, rfl⟩))
    | exact .inr (.inl ⟨_, _, rfl⟩)

/-- HOLD OPEN places a hold, declines, or changes nothing (04 R82, R83). -/
theorem serveHoldOpen_cases (p : Port) (card : BitVec 32) (gen : Byte) (outlet : BitVec 16) (cls : Byte)
    (gross lifetime : BitVec 32) (s : State) :
    (serveHoldOpen p card gen outlet cls gross lifetime s).1 = s ∨
      (∃ r, (serveHoldOpen p card gen outlet cls gross lifetime s).1 = s.declineEffect card.toNat r) ∨
      ∃ x, s.checkCard card.toNat gen.toNat = .ok x ∧
        (serveHoldOpen p card gen outlet cls gross lifetime s).1 =
          (s.placeHold p x outlet.toNat cls.toNat lifetime.toNat
            (s.tariff.price cls.toNat x.folio.package gross.toNat 1)).1 := by
  unfold serveHoldOpen
  try dsimp only
  repeat' split
  all_goals first
    | exact .inl rfl
    | exact .inr (.inl ⟨_, rfl⟩)
    | exact .inr (.inr ⟨_, ‹_›, rfl⟩)

/-- A hold is placed in a FREE slot, or nothing changes (04 R83). -/
theorem placeHold_cases (s : State) (p : Port) (x : Payer) (outlet cls lifetime : Nat) (pr : Priced) :
    (s.placeHold p x outlet cls lifetime pr).1 = s ∨
      ∃ slot, s.freeHold = some slot ∧
        (s.placeHold p x outlet cls lifetime pr).1 =
          ({ s with
              holds := putHold s.holds slot
                { reuse := tagAfter (s.holdSlot slot).reuse,
                  live := some (s.newHold p x outlet cls pr.total lifetime) } } : State).moveHeld
            (s.newHold p x outlet cls pr.total lifetime) (fun v => v + pr.total) := by
  unfold State.placeHold
  repeat' split
  all_goals first
    | exact .inl rfl
    | exact .inr ⟨_, ‹_›, rfl⟩

/-- HOLD COMPLETE ends its hold and posts the final amount, raises LOG_FULL, or changes nothing (04 R84,
R85). -/
theorem serveHoldComplete_cases (p : Port) (slot reuse : Byte) (gross : BitVec 32) (s : State) :
    (serveHoldComplete p slot reuse gross s).1 = s ∨
      (∃ why, s.logRefusal 1 = some why ∧ (serveHoldComplete p slot reuse gross s).1 = s.noteLogFull why) ∨
      ∃ h, s.liveHold slot.toNat reuse.toNat = some h ∧ s.logRefusal 1 = none ∧
        (serveHoldComplete p slot reuse gross s).1 =
          ((s.endHold slot.toNat h).post h.account
            (completionEntry h { slot := slot.toNat, reuse := reuse.toNat } (s.finalPrice h gross.toNat))).spendAt
            h.holder (s.finalPrice h gross.toNat).total := by
  unfold serveHoldComplete
  try dsimp only
  repeat' split
  all_goals first
    | exact .inl rfl
    | exact .inr (.inl ⟨_, ‹_›, rfl⟩)
    | exact .inr (.inr ⟨_, ‹_›, ‹_›, rfl⟩)

/-- ACCESS QUERY regrants, grants, or denies with its history event and side report (02 R32 to R38). -/
theorem serveAccessQuery_cases (p : Port) (card : BitVec 32) (gen : Byte) (cabin : BitVec 16) (s : State) :
    (serveAccessQuery p card gen cabin s).1 = s ∨
      ∃ slot c, s.findCard card.toNat = some (slot, c) ∧
        ((∃ kslot k, s.accessVerdict slot c gen.toNat cabin.toNat = .grant ∧
            s.findCabin cabin.toNat = some (kslot, k) ∧
            (((s.unlockOf kslot).isSome = true ∧ (serveAccessQuery p card gen cabin s).1 = s.regrant p kslot) ∨
              (s.unlockOf kslot = none ∧ (serveAccessQuery p card gen cabin s).1 = s.newUnlock p slot kslot))) ∨
          (serveAccessQuery p card gen cabin s).1 =
            (s.denialEvent card.toNat cabin.toNat (s.accessVerdict slot c gen.toNat cabin.toNat)).sideReport slot c
              (s.accessVerdict slot c gen.toNat cabin.toNat)) := by
  unfold serveAccessQuery
  try dsimp only
  repeat' split
  all_goals first
    | exact .inl rfl
    | exact .inr ⟨_, _, ‹_›, .inl ⟨_, _, ‹_›, ‹_›, .inl ⟨Option.isSome_iff_exists.mpr ⟨_, ‹_›⟩, rfl⟩⟩⟩
    | exact .inr ⟨_, _, ‹_›, .inl ⟨_, _, ‹_›, ‹_›, .inr ⟨‹_›, rfl⟩⟩⟩
    | exact .inr ⟨_, _, ‹_›, .inr rfl⟩

/-- LOCK REPORT closes the matching entry into the history, or leaves the list; either way a JAMMED outcome
blocks the cabin (02 R40 to R42). -/
theorem serveLockReport_cases (cabin token : BitVec 16) (outcome : Byte) (s : State) :
    (serveLockReport cabin token outcome s).1 = s ∨
      ∃ result slot k, lockOutcome outcome = some result ∧ s.findCabin cabin.toNat = some (slot, k) ∧
        ((∃ u, s.unlockOf slot = some u ∧
            (serveLockReport cabin token outcome s).1 =
              ((s.dropUnlock slot).addEvent slot ((s.cardNumber u.holder).getD 0) result).jamIf result slot
                k.number token.toNat) ∨
          (serveLockReport cabin token outcome s).1 = s.jamIf result slot k.number token.toNat) := by
  unfold serveLockReport
  try dsimp only
  repeat' split
  all_goals first
    | exact .inl rfl
    | exact .inr ⟨_, _, _, ‹_›, ‹_›, .inl ⟨_, ‹_›, rfl⟩⟩
    | exact .inr ⟨_, _, _, ‹_›, ‹_›, .inr rfl⟩

/-- ENROL CARDHOLDER writes one FREE slot, for a guest the account's list and a counter too, or changes
nothing (01 R5, R6). -/
theorem serveEnrol_cases (card : BitVec 32) (kind : Byte) (folio : BitVec 32) (classMask : Byte)
    (deckMask : BitVec 32) (s : State) :
    (serveEnrol card kind folio classMask deckMask s).1 = s ∨
      ∃ slot, s.roster.freeSlot Config.cardholderSlots = some slot ∧
        (s.findCard card.toNat).isSome = false ∧
        ((serveEnrol card kind folio classMask deckMask s).1 =
            { s with roster := s.roster.store slot (newStaff card.toNat deckMask) } ∨
          ∃ k aslot a, s.findFolio folio.toNat = some (aslot, a) ∧
            ¬ Config.holdersPerAccount ≤ a.holders.length ∧
            (serveEnrol card kind folio classMask deckMask s).1 =
              { s with
                roster := s.roster.store slot (newGuest k card.toNat a.serial aslot classMask s.shipDay)
                accounts := s.accounts.store aslot { a with holders := a.holders ++ [slot] }
                counters := s.counters.up .notBoarded }) := by
  unfold serveEnrol enrolStaff enrolGuest
  repeat' split
  all_goals first
    | exact .inl rfl
    | exact .inr ⟨_, ‹_›, eq_false_of_ne_true ‹_›, .inl rfl⟩
    | exact .inr ⟨_, ‹_›, eq_false_of_ne_true ‹_›, .inr ⟨_, _, _, ‹_›, ‹_›, rfl⟩⟩

/-- SETTLE STEP writes the log and one account, as its walk left them, or changes nothing (05 R100 to
R102). -/
theorem serveSettleStep_cases (folio : BitVec 32) (s : State) :
    (serveSettleStep folio s).1 = s ∨
      ∃ slot a b, s.findFolio folio.toNat = some (slot, a) ∧ a.state = .settling ∧
        (b = (walk s.log a 0 Config.settleStride).account ∨
          b = { (walk s.log a 0 Config.settleStride).account with state := .settled }) ∧
        (serveSettleStep folio s).1 = s.walked slot (walk s.log a 0 Config.settleStride) b := by
  unfold serveSettleStep
  try dsimp only
  repeat' split
  all_goals first
    | exact .inl rfl
    | exact .inr ⟨_, _, _, ‹_›, ‹_›, .inl rfl, rfl⟩
    | exact .inr ⟨_, _, _, ‹_›, ‹_›, .inr rfl, rfl⟩

/-- SET OPTIONS writes the clamped options (10 R178). -/
theorem serveSetOptions_state (f : OptionFields) (s : State) :
    (serveSetOptions f s).1 = s.putOptions (optionsOf f) := rfl

/-- READ TIME clears the tick-seen flag alone (08 R157). -/
theorem serveReadTime_state (s : State) : (serveReadTime s).1 = { s with tickSeen := false } := rfl

/-- WINDOW OPEN opens a window of its port, or closes the one it had (09 R174). -/
theorem serveWindowOpen_cases (p : Port) (collection mode : Byte) (key start : BitVec 32) (s : State) :
    (serveWindowOpen p collection mode key start s).1 = s.closeWindow p ∨
      ∃ w, s.openWindow p collection mode key.toNat start.toNat = .ok w ∧
        (serveWindowOpen p collection mode key start s).1 = s.setWindow p w := by
  unfold serveWindowOpen
  repeat' split
  all_goals first
    | exact .inl rfl
    | exact .inr ⟨_, ‹_›, rfl⟩

/-- WINDOW READ moves the cursor of its port's window, or changes nothing (09 R175, 05 R111). -/
theorem serveWindowRead_cases (p : Port) (s : State) :
    (serveWindowRead p s).1 = s ∨ ∃ w, (serveWindowRead p s).1 = s.setWindow p w := by
  unfold serveWindowRead State.readItems
  try dsimp only
  repeat' split
  all_goals first
    | exact .inl rfl
    | exact .inr ⟨_, rfl⟩

/-- A group that a review may void is one that R89 finds voidable (05 R113). -/
theorem reviewGroup_ok {s : State} {a : Account} {e : Entry} {g : List Entry}
    (h : s.reviewGroup a e = .ok g) : s.voidGroup e = .ok g := by
  unfold State.reviewGroup at h
  repeat' split at h
  all_goals first | cases h | exact h

/-- WINDOW ACT moves the cursor of its port's window, with VOID after voiding a group, or changes nothing
(05 R112, R113). -/
theorem serveWindowAct_cases (p : Port) (action : Byte) (s : State) :
    (serveWindowAct p action s).1 = s ∨ (∃ w, (serveWindowAct p action s).1 = s.setWindow p w) ∨
      ∃ e g w, s.voidGroup e = .ok g ∧ (serveWindowAct p action s).1 = (s.voidAll g).setWindow p w := by
  unfold serveWindowAct State.act
  try dsimp only
  repeat' split
  all_goals first
    | exact .inl rfl
    | exact .inr (.inl ⟨_, rfl⟩)
    | exact .inr (.inr ⟨_, _, _, reviewGroup_ok ‹_›, rfl⟩)

end Sys2Proof.Machine
end

