-- ==== Sys2Proof/Laws/Frames.lean ====
section
/-! SUPPORT. Laws/Frames.lean: for each shared operation, the fields of the state it may change; every other
field is as it was. -/

namespace Sys2Proof.Machine

/-- A conflict report changes the roster and the notice queues alone (01 R11, R12). -/
theorem State.reportConflict_frame (s : State) (slot : Nat) :
    ∃ r' p', s.reportConflict slot = { s with roster := r', ports := p' } := by
  unfold State.reportConflict
  try dsimp only
  repeat' split
  all_goals exact ⟨_, _, rfl⟩

/-- OVER_LIMIT changes the notice queues alone. -/
theorem State.noteOverLimit_frame (s : State) (x : Account) :
    ∃ p', s.noteOverLimit x = { s with ports := p' } := by
  unfold State.noteOverLimit
  try dsimp only
  repeat' split
  all_goals exact ⟨_, rfl⟩

/-- Taking pairs of one cardholder out of the relation changes the roster and the cabins alone. -/
theorem State.unpairCabins_frame (s : State) (holder : Nat) (ks : List Nat) :
    ∃ r' k', ks.foldl (fun t kslot => t.unpair holder kslot) s = { s with roster := r', cabins := k' } := by
  induction ks generalizing s with
  | nil => exact ⟨_, _, rfl⟩
  | cons x xs ih =>
    obtain ⟨r', k', h⟩ := ih (s.unpair holder x)
    rw [List.foldl_cons, h]
    exact ⟨_, _, rfl⟩

/-- Taking pairs of one cabin out of the relation changes the roster and the cabins alone. -/
theorem State.unpairHolders_frame (s : State) (cabin : Nat) (hs : List Nat) :
    ∃ r' k', hs.foldl (fun t holder => t.unpair holder cabin) s = { s with roster := r', cabins := k' } := by
  induction hs generalizing s with
  | nil => exact ⟨_, _, rfl⟩
  | cons x xs ih =>
    obtain ⟨r', k', h⟩ := ih (s.unpair x cabin)
    rw [List.foldl_cons, h]
    exact ⟨_, _, rfl⟩

/-- Closing a cardholder changes the roster and the cabins alone (01 R25). -/
theorem State.closeHolder_frame (s : State) (holder : Nat) :
    ∃ r' k', s.closeHolder holder = { s with roster := r', cabins := k' } := by
  unfold State.closeHolder
  split
  · exact ⟨_, _, rfl⟩
  · obtain ⟨r', k', h⟩ := State.unpairCabins_frame s holder _
    rw [h]
    exact ⟨_, _, rfl⟩

/-- Closing cardholders changes the roster and the cabins alone. -/
theorem State.closeHolders_frame (s : State) (holders : List Nat) :
    ∃ r' k', s.closeHolders holders = { s with roster := r', cabins := k' } := by
  unfold State.closeHolders
  induction holders generalizing s with
  | nil => exact ⟨_, _, rfl⟩
  | cons x xs ih =>
    obtain ⟨r1, k1, h1⟩ := State.closeHolder_frame s x
    obtain ⟨r2, k2, h2⟩ := ih (s.closeHolder x)
    rw [List.foldl_cons, h2, h1]
    exact ⟨_, _, rfl⟩

/-- A CLOSE changes the roster, the cabins, the accounts and the closure queue alone (05 R106). -/
theorem State.closeAccount_frame (s : State) (slot : Nat) (x : Account) :
    ∃ r' k' a' c', s.closeAccount slot x = { s with roster := r', cabins := k', accounts := a', closures := c' } := by
  obtain ⟨r', k', h⟩ := State.closeHolders_frame s x.holders
  unfold State.closeAccount
  rw [h]
  exact ⟨_, _, _, _, rfl⟩

/-- A jam changes the cabins and the notice queues alone (02 R42). -/
theorem State.jamIf_frame (s : State) (o : HistoryResult) (slot number token : Nat) :
    ∃ k' p', s.jamIf o slot number token = { s with cabins := k', ports := p' } := by
  unfold State.jamIf State.jam
  try dsimp only
  repeat' split
  all_goals exact ⟨_, _, rfl⟩

/-- The side report of a denial changes the roster and the notice queues alone (02 R37). -/
theorem State.sideReport_frame (s : State) (slot : Nat) (c : Cardholder) (v : AccessVerdict) :
    ∃ r' p', s.sideReport slot c v = { s with roster := r', ports := p' } := by
  unfold State.sideReport
  split
  · exact ⟨_, _, rfl⟩
  · exact State.reportConflict_frame s slot
  · exact ⟨_, _, rfl⟩

/-- A denial's event changes the cabins and the windows alone (02 R38). -/
theorem State.denialEvent_frame (s : State) (card cabin : Nat) (v : AccessVerdict) :
    ∃ k' p', s.denialEvent card cabin v = { s with cabins := k', ports := p' } := by
  unfold State.denialEvent
  try dsimp only
  repeat' split
  all_goals exact ⟨_, _, rfl⟩

/-- An unlock deadline changes the cabins, the list, the ports and the timer alone (02 R43). -/
theorem State.expireUnlock_frame (s : State) (cabin : Nat) :
    ∃ k' u' p' j', s.expireUnlock cabin = { s with cabins := k', unlocks := u', ports := p', timer := j' } := by
  unfold State.expireUnlock
  try dsimp only
  repeat' split
  all_goals exact ⟨_, _, _, _, rfl⟩

/-- A decline changes the roster and the notice queues alone (04 R76, R77). -/
theorem State.declineEffect_frame (s : State) (card : Nat) (why : Result) :
    ∃ r' p', s.declineEffect card why = { s with roster := r', ports := p' } := by
  unfold State.declineEffect
  split
  · exact ⟨_, _, rfl⟩
  · split
    · exact ⟨_, _, rfl⟩
    · exact State.reportConflict_frame s _
  · exact ⟨_, _, rfl⟩

/-- An append changes the accounts, the log and its counter alone (04 R69 to R73). -/
theorem State.post_frame (s : State) (slot : Nat) (x : Entry) :
    ∃ a' l' q', s.post slot x = { s with accounts := a', log := l', nextSeq := q' } := by
  unfold State.post
  try dsimp only
  repeat' split
  all_goals exact ⟨_, _, _, rfl⟩

/-- The shares of a charge change the roster, the accounts, the log and its counter alone (04 R79). -/
theorem State.postShares_frame (s : State) (p : Port) (outlet cls : Nat) (pr : Priced) (first : Nat)
    (shares : List Share) (i : Nat) :
    ∃ r' a' l' q', (s.postShares p outlet cls pr first shares i).1 =
      { s with roster := r', accounts := a', log := l', nextSeq := q' } := by
  induction shares generalizing s i with
  | nil => exact ⟨_, _, _, _, rfl⟩
  | cons x xs ih =>
    obtain ⟨a1, l1, q1, h1⟩ := State.post_frame s x.account (shareEntry p outlet cls pr first i x)
    obtain ⟨r2, a2, l2, q2, h2⟩ :=
      ih ((s.post x.account (shareEntry p outlet cls pr first i x)).spendAt x.holder x.amount) (i + 1)
    simp only [State.postShares]
    rw [h2, h1]
    exact ⟨_, _, _, _, rfl⟩

/-- A hold expiry changes the holds, the accounts, the roster and the notice queues alone (04 R87). -/
theorem State.expireHold_frame (s : State) (slot : Nat) :
    ∃ r' a' x' p', s.expireHold slot = { s with roster := r', accounts := a', holds := x', ports := p' } := by
  unfold State.expireHold
  try dsimp only
  repeat' split
  all_goals exact ⟨_, _, _, _, rfl⟩

/-- A void changes the log, the accounts and the roster alone (04 R90). -/
theorem State.voidAll_frame (s : State) (g : List Entry) :
    ∃ r' a' l', s.voidAll g = { s with roster := r', accounts := a', log := l' } := by
  unfold State.voidAll
  induction g generalizing s with
  | nil => exact ⟨_, _, _, rfl⟩
  | cons x xs ih =>
    obtain ⟨r', a', l', h⟩ := ih (s.voidEntry x)
    rw [List.foldl_cons, h]
    exact ⟨_, _, _, rfl⟩

/-- The return of the last guest changes the call, the list and the notice queues alone (07 R144, R145). -/
theorem State.allReturned_frame (s : State) :
    ∃ e' g' p', s.allReturned = { s with call := e', missing := g', ports := p' } := by
  unfold State.allReturned State.closeCall
  try dsimp only
  repeat' split
  all_goals exact ⟨_, _, _, rfl⟩

/-- A guest leaving the missing list changes the call, the list and the notice queues alone (07 R144). -/
theorem State.leaveMissing_frame (s : State) (slot : Nat) :
    ∃ e' g' p', s.leaveMissing slot = { s with call := e', missing := g', ports := p' } := by
  unfold State.leaveMissing
  try dsimp only
  repeat' split
  · obtain ⟨e', g', p', h⟩ := State.allReturned_frame { s with missing := s.missing.filter (fun x => x != slot) }
    rw [h]
    exact ⟨_, _, _, rfl⟩
  · exact ⟨_, _, _, rfl⟩
  · exact ⟨_, _, _, rfl⟩

/-- SET PRESENCE changes the roster, the counters, the call, the list and the notice queues alone (07 R141). -/
theorem State.setPresence_frame (s : State) (slot : Nat) (x y : Presence) :
    ∃ r' m' e' g' p', s.setPresence slot x y = { s with roster := r', counters := m', call := e', missing := g', ports := p' } := by
  unfold State.setPresence State.followPresence
  repeat' split
  · exact ⟨_, _, _, _, _, rfl⟩
  · exact ⟨_, _, _, _, _, rfl⟩
  · exact ⟨_, _, _, _, _, rfl⟩
  all_goals
    obtain ⟨e', g', p', h⟩ := State.leaveMissing_frame (s.movePresence slot x _ (s.manualTransit _)) slot
    rw [h]
    exact ⟨_, _, _, _, _, rfl⟩

/-- A decided read changes the roster, the counters, the call, the list and the notice queues alone (07 R135 to R139). -/
theorem State.applyRead_frame (s : State) (lane : Lane) (x : ReadEffect) :
    ∃ r' m' e' g' p', s.applyRead lane x = { s with roster := r', counters := m', call := e', missing := g', ports := p' } := by
  unfold State.applyRead
  split
  · exact ⟨_, _, _, _, _, rfl⟩
  · obtain ⟨r', p', h⟩ := State.reportConflict_frame s _
    rw [h]
    exact ⟨_, _, _, _, _, rfl⟩
  · exact ⟨_, _, _, _, _, rfl⟩
  · obtain ⟨e', g', p', h⟩ := State.leaveMissing_frame
      (s.movePresence _ _ .aboard (s.transitNow (some lane) .inward)) _
    rw [h]
    exact ⟨_, _, _, _, _, rfl⟩

/-- Taking a read changes what a decision changes, and the lanes (06 R123). -/
theorem State.takeRead_frame (s : State) (lane : Lane) (x : LaneRead) :
    ∃ r' m' e' g' p' y', s.takeRead lane x = { s with roster := r', counters := m', call := e', missing := g', ports := p', lanes := y' } := by
  unfold State.takeRead
  repeat' split
  · exact ⟨_, _, _, _, _, _, rfl⟩
  · exact ⟨_, _, _, _, _, _, rfl⟩
  · obtain ⟨r', m', e', g', p', h⟩ := State.applyRead_frame s lane (s.judge lane x).effect
    rw [h]
    exact ⟨_, _, _, _, _, _, rfl⟩

/-- A valid read changes what a decision changes, and the lanes (06 R121). -/
theorem State.validRead_frame (s : State) (lane : Lane) (x : LaneRead) :
    ∃ r' m' e' g' p' y', s.validRead lane x = { s with roster := r', counters := m', call := e', missing := g', ports := p', lanes := y' } := by
  unfold State.validRead
  repeat' split
  · exact State.takeRead_frame s lane x
  · exact ⟨_, _, _, _, _, _, rfl⟩
  · exact ⟨_, _, _, _, _, _, rfl⟩

/-- A complete message changes what a decision changes, and the lanes (06 R118). -/
theorem State.completeMessage_frame (s : State) (lane : Lane) (kind : Byte) (card : BitVec 32) (gen direction seq : Byte) (crc : BitVec 16) :
    ∃ r' m' e' g' p' y', s.completeMessage lane kind card gen direction seq crc = { s with roster := r', counters := m', call := e', missing := g', ports := p', lanes := y' } := by
  unfold State.completeMessage
  repeat' split
  · exact ⟨_, _, _, _, _, _, rfl⟩
  · exact ⟨_, _, _, _, _, _, rfl⟩
  · exact ⟨_, _, _, _, _, _, rfl⟩
  · obtain ⟨r', m', e', g', p', y', h⟩ := State.validRead_frame (s.modLane lane (fun x => { x with receiver := .idle }))
      lane _
    rw [h]
    exact ⟨_, _, _, _, _, _, rfl⟩

/-- A read message changes what a decision changes, and the lanes. -/
theorem State.readMessage_frame (s : State) (lane : Lane) (kind : Byte) (card : BitVec 32) (gen direction seq : Byte) (crc : BitVec 16) :
    ∃ r' m' e' g' p' y', s.readMessage lane kind card gen direction seq crc = { s with roster := r', counters := m', call := e', missing := g', ports := p', lanes := y' } := by
  unfold State.readMessage
  split
  · exact ⟨_, _, _, _, _, _, rfl⟩
  · exact State.completeMessage_frame s lane kind card gen direction seq crc

/-- A byte on a lane changes what a decision changes, and the lanes (06 R117). -/
theorem State.laneByte_frame (s : State) (lane : Lane) (x : Byte) :
    ∃ r' m' e' g' p' y', s.laneByte lane x = { s with roster := r', counters := m', call := e', missing := g', ports := p', lanes := y' } := by
  unfold State.laneByte State.takeByte
  repeat' split
  · exact ⟨_, _, _, _, _, _, rfl⟩
  · exact ⟨_, _, _, _, _, _, rfl⟩
  · exact ⟨_, _, _, _, _, _, rfl⟩
  · exact ⟨_, _, _, _, _, _, rfl⟩
  · exact State.completeMessage_frame s lane _ _ _ _ _ _

/-- A framing fault changes the lanes alone (06 R119). -/
theorem State.framingFault_frame (s : State) (lane : Lane) :
    ∃ y', s.framingFault lane = { s with lanes := y' } := by
  unfold State.framingFault
  try dsimp only
  repeat' split
  all_goals exact ⟨_, rfl⟩

/-- A gap fault changes the lanes and the timer alone (06 R119). -/
theorem State.gapFault_frame (s : State) (lane : Lane) :
    ∃ y' j', s.gapFault lane = { s with lanes := y', timer := j' } := by
  unfold State.gapFault
  try dsimp only
  repeat' split
  all_goals exact ⟨_, _, rfl⟩

/-- The expiry of a repeat record changes the timer alone (06 R124). -/
theorem State.repeatExpiry_frame (s : State) (lane : Lane) :
    ∃ j', s.repeatExpiry lane = { s with timer := j' } := by
  unfold State.repeatExpiry
  try dsimp only
  repeat' split
  all_goals exact ⟨_, rfl⟩

/-- An end of transmission changes what a decision changes, and the lanes (06 R122). -/
theorem State.endOfTransmission_frame (s : State) (lane : Lane) :
    ∃ r' m' e' g' p' y', s.endOfTransmission lane = { s with roster := r', counters := m', call := e', missing := g', ports := p', lanes := y' } := by
  unfold State.endOfTransmission
  repeat' split
  · exact ⟨_, _, _, _, _, _, rfl⟩
  · exact ⟨_, _, _, _, _, _, rfl⟩
  · obtain ⟨r', m', e', g', p', y', h⟩ := State.takeRead_frame
      (s.modLane lane (fun x => { x with verdicts := _, holding := none })) lane _
    rw [h]
    exact ⟨_, _, _, _, _, _, rfl⟩

/-- The all-aboard deadline changes the call, the list and the notice queues alone (07 R143). -/
theorem State.takeAllAboard_frame (s : State) :
    ∃ e' g' p', s.takeAllAboard = { s with call := e', missing := g', ports := p' } := by
  unfold State.takeAllAboard
  try dsimp only
  repeat' split
  all_goals exact ⟨_, _, _, rfl⟩

/-- The close deadline changes the call, the list and the notice queues alone (07 R145). -/
theorem State.takeClose_frame (s : State) :
    ∃ e' g' p', s.takeClose = { s with call := e', missing := g', ports := p' } := by
  unfold State.takeClose State.closeCall
  try dsimp only
  repeat' split
  all_goals exact ⟨_, _, _, rfl⟩

/-- An advance changes ship time, the ship day, the tariffs and the notice queues alone (08 R151, R159). -/
theorem State.advanceTo_frame (s : State) (time : Nat) :
    ∃ t' d' o' f' w' p', s.advanceTo time = { s with shipTime := t', shipDay := d', nextRollover := o', tariff := f', pendingTariff := w', ports := p' } := by
  unfold State.advanceTo State.rollover
  try dsimp only
  repeat' split
  all_goals exact ⟨_, _, _, _, _, _, rfl⟩

/-- One second changes ship time, the ship day, the tariffs and the notice queues alone. -/
theorem State.advance_frame (s : State) :
    ∃ t' d' o' f' w' p', s.advance = { s with shipTime := t', shipDay := d', nextRollover := o', tariff := f', pendingTariff := w', ports := p' } := by
  unfold State.advance
  split
  · exact State.advanceTo_frame s _
  · exact ⟨_, _, _, _, _, _, rfl⟩

/-- A tick changes what an advance changes, and the clock (08 R153, R156). -/
theorem State.takeTick_frame (s : State) :
    ∃ t' d' o' f' w' p' z' b' i', s.takeTick = { s with shipTime := t', shipDay := d', nextRollover := o', tariff := f', pendingTariff := w', ports := p', clock := z', lastTick := b', tickSeen := i' } := by
  obtain ⟨t', d', o', f', w', p', h⟩ := State.advance_frame s
  unfold State.takeTick
  try dsimp only
  split <;> rw [h] <;> exact ⟨_, _, _, _, _, _, _, _, _, rfl⟩

/-- The loss of the tick line changes what an advance changes, the clock state and the timer (08 R154). -/
theorem State.loseTick_frame (s : State) :
    ∃ t' d' o' f' w' p' z' j', s.loseTick = { s with shipTime := t', shipDay := d', nextRollover := o', tariff := f', pendingTariff := w', ports := p', clock := z', timer := j' } := by
  unfold State.loseTick
  split
  · exact ⟨_, _, _, _, _, _, _, _, rfl⟩
  · obtain ⟨t', d', o', f', w', p', h⟩ := State.advance_frame (s.reach (s.lastTick + Config.tickLossMs))
    dsimp only
    rw [h]
    exact ⟨_, _, _, _, _, _, _, _, rfl⟩

/-- A freewheel second changes what an advance changes, the clock state and the timer (08 R155). -/
theorem State.takeSecond_frame (s : State) :
    ∃ t' d' o' f' w' p' z' j', s.takeSecond = { s with shipTime := t', shipDay := d', nextRollover := o', tariff := f', pendingTariff := w', ports := p', clock := z', timer := j' } := by
  unfold State.takeSecond
  split
  · exact ⟨_, _, _, _, _, _, _, _, rfl⟩
  · obtain ⟨t', d', o', f', w', p', h⟩ := State.advance_frame (s.reach _)
    rw [h]
    exact ⟨_, _, _, _, _, _, _, _, rfl⟩

/-- A completed save changes the store and the notice queues alone (10 R183). -/
theorem State.completeSave_frame (s : State) :
    ∃ p' v' h' w2', s.completeSave = { s with ports := p', store := v', loaded := h', image := w2' } := by
  unfold State.completeSave
  try dsimp only
  repeat' split
  all_goals exact ⟨_, _, _, _, rfl⟩

/-- A failed save changes the store state and the notice queues alone (10 R183). -/
theorem State.failSave_frame (s : State) :
    ∃ p' v', s.failSave = { s with ports := p', store := v' } := by
  unfold State.failSave
  try dsimp only
  repeat' split
  all_goals exact ⟨_, _, rfl⟩

end Sys2Proof.Machine
end

