-- ==== Sys2Proof/Laws/Runs.lean ====
section
/-! SUPPORT. Laws/Runs.lean: what the recursive operations over the log do, each said once: the walk of a chain
window, the walk of a settlement, the void of a group, and the posting of the shares of a charge. -/

namespace Sys2Proof.Machine

/-! ## Windows -/

/-- The n-th of the items from the cursor, or from the first position not gone, to the end (09 R176). -/
theorem positioned_get {α : Type} (items : List α) (gone cursor z n : Nat) :
    (positioned items gone cursor (some z))[n]? =
      if max cursor (gone + 1) + n ≤ z then
        (items[max cursor (gone + 1) + n - 1 - gone]?).map (fun x => (max cursor (gone + 1) + n, x))
      else none := by
  unfold positioned
  dsimp only
  rw [List.zip, List.getElem?_zipWith, List.getElem?_drop]
  by_cases h : max cursor (gone + 1) + n ≤ z
  · rw [if_pos h, List.getElem?_range' (by omega), Nat.one_mul,
      show max cursor (gone + 1) - 1 - gone + n = max cursor (gone + 1) + n - 1 - gone by omega]
    cases items[max cursor (gone + 1) + n - 1 - gone]? <;> rfl
  · rw [if_neg h, List.getElem?_eq_none (by rw [List.length_range']; omega)]

/-- The items of a chain window: a run of entries, each at its sequence in the log and each linked to the next, is what
the walk along the links to its last sequence gives (09 R176). -/
theorem chainFrom_run {log : List Entry} {z : Nat} : ∀ (run : List Entry) (fuel q : Nat),
    run.length ≤ fuel → run.head?.map (·.seq) = some q → run.getLast?.map (·.seq) = some z →
    (∀ e ∈ run, log.find? (fun x => x.seq == e.seq) = some e) →
    run.IsChain (fun d e => d.seq ≠ z ∧ d.link = some e.seq) → chainFrom log z fuel (some q) = run := by
  intro run
  induction run with
  | nil => intro fuel q _ h; simp at h
  | cons d rest ih =>
    intro fuel q hf hq hz hl hc
    obtain ⟨fuel, rfl⟩ : ∃ n, fuel = n + 1 := ⟨fuel - 1, by simp at hf; omega⟩
    have hd : d.seq = q := by simpa using hq
    have hfind : log.find? (fun x => x.seq == q) = some d := by rw [← hd]; exact hl d (by simp)
    unfold chainFrom
    simp only [Option.bind_some, hfind]
    cases rest with
    | nil =>
      have : d.seq = z := by simpa using hz
      simp [this]
    | cons e more =>
      rw [List.isChain_cons_cons] at hc
      rw [if_neg hc.1.1, hc.1.2, ih fuel e.seq (by simpa using hf) rfl (by simpa using hz)
        (fun x hx => hl x (by simp [hx])) hc.2]

/-! ## Settlement -/

/-- What the POSTED entries of a run move from the posted total to the settled total (05 R100). -/
def signedSum (l : List Entry) : Int := ((l.filter (fun e => e.state == .posted)).map Entry.signed).sum

/-- The log with the POSTED entries of a run SETTLED (05 R100). -/
def settleAll (log run : List Entry) : List Entry :=
  log.map (fun d => if d.seq ∈ (run.filter (fun e => e.state == .posted)).map (·.seq) then { d with state := .settled } else d)

/-- Settling an entry leaves the look-up of any other sequence as it was. -/
theorem find_settleIn (log : List Entry) {q r : Nat} (h : r ≠ q) :
    (settleIn log q).find? (fun e => e.seq == r) = log.find? (fun e => e.seq == r) := by
  unfold settleIn
  induction log with
  | nil => rfl
  | cons d rest ih =>
    simp only [List.map_cons, List.find?_cons]
    by_cases hd : d.seq = q
    · simp only [hd, if_true]
      have : (q == r) = false := by simpa using Ne.symm h
      simp only [this]
      exact ih
    · simp only [hd, if_false, ih]

/-- A walk over a run of entries, each found at its sequence and linked to the next, with every settling in range,
is the rest of the walk from the log and account that the run leaves (05 R100). -/
theorem walk_run : ∀ (run log : List Entry) (a : Account) (passed fuel : Nat) (next : Option Nat),
    run.length ≤ fuel → (run.map (·.seq)).Nodup → (∀ e ∈ run, log.find? (fun d => d.seq == e.seq) = some e) →
    a.cursor :: run.map (·.link) = run.map (fun e => some e.seq) ++ [next] →
    (∀ n e, run[n]? = some e → e.state = .posted →
      inRange (a.posted - signedSum (run.take (n + 1))) = true ∧ inRange (a.settled + signedSum (run.take (n + 1))) = true) →
    walk log a passed fuel =
      walk (settleAll log run)
        { a with posted := a.posted - signedSum run, settled := a.settled + signedSum run, cursor := next }
        (passed + run.length) (fuel - run.length) := by
  intro run
  induction run with
  | nil =>
    intro log a passed fuel next _ _ _ hc _
    have : a.cursor = next := by simpa using hc
    subst this
    simp [settleAll, signedSum]
  | cons d rest ih =>
    intro log a passed fuel next hf hn hl hc hr
    obtain ⟨fuel, rfl⟩ : ∃ n, fuel = n + 1 := ⟨fuel - 1, by simp at hf; omega⟩
    simp only [List.map_cons, List.cons_append, List.cons.injEq] at hc
    obtain ⟨hq, hc⟩ := hc
    have hfind : log.find? (fun x => x.seq == d.seq) = some d := hl d (by simp)
    simp only [List.map_cons, List.nodup_cons, List.mem_map, not_exists, not_and] at hn
    rw [walk]
    simp only [hq, Option.bind_some, hfind]
    have e1 : passed + 1 + rest.length = passed + (d :: rest).length := by simp; omega
    have e2 : fuel - rest.length = fuel + 1 - (d :: rest).length := by simp
    by_cases hp : d.state = .posted
    · have h0 := hr 0 d rfl hp
      have hs0 : signedSum [d] = d.signed := by simp [signedSum, hp]
      simp only [Nat.zero_add, List.take_succ_cons, List.take_zero, hs0] at h0
      have hsum : ∀ l, signedSum (d :: l) = d.signed + signedSum l := by intro l; simp [signedSum, hp]
      rw [if_neg (by simpa using hp), if_pos (by simp [h0.1, h0.2])]
      rw [ih (settleIn log d.seq) _ (passed + 1) fuel next (by simpa using hf) hn.2
        (fun e he => by rw [find_settleIn _ (hn.1 e he)]; exact hl e (by simp [he])) hc
        (fun n e hn' he => by
          have := hr (n + 1) e (by simpa using hn') he
          simp only [List.take_succ_cons, hsum] at this
          simp only [Account.settling]
          rw [show a.posted - d.signed - signedSum (rest.take (n + 1)) = a.posted - (d.signed + signedSum (rest.take (n + 1))) by omega,
            show a.settled + d.signed + signedSum (rest.take (n + 1)) = a.settled + (d.signed + signedSum (rest.take (n + 1))) by omega]
          exact this)]
      rw [e1, e2]
      congr 1
      · simp only [settleAll, settleIn, List.map_map]
        apply List.map_congr_left
        intro x _
        simp only [Function.comp, hp, List.filter_cons, beq_self_eq_true, if_true, List.map_cons, List.mem_cons]
        by_cases hx : x.seq = d.seq <;> simp only [hx, if_true, if_false, true_or, false_or, ite_self]
      · simp only [Account.settling, hsum]
        congr 1 <;> omega
    · have hsum : ∀ l, signedSum (d :: l) = signedSum l := by intro l; simp [signedSum, hp]
      rw [if_pos (by simpa using hp)]
      rw [ih log _ (passed + 1) fuel next (by simpa using hf) hn.2 (fun e he => hl e (by simp [he])) hc
        (fun n e hn' he => by
          have := hr (n + 1) e (by simpa using hn') he
          simpa only [List.take_succ_cons, hsum] using this)]
      rw [e1, e2, hsum]
      congr 1
      simp only [settleAll]
      rw [List.filter_cons_of_neg (by simpa using hp)]

/-! ## Voids -/

/-- Where a change of records keeps a key, the record found by the key stays in its slot. -/
theorem Table.search_modify_slot {α : Type} (t : Table α) (k : Nat) (f : α → α) (p : α → Bool)
    (h : ∀ a, p (f a) = p a) : ((t.modify k f).search p).map (·.1) = (t.search p).map (·.1) := by
  induction t with
  | nil => rfl
  | cons e rest ih =>
    obtain ⟨i, a⟩ := e
    simp only [Table.modify]
    split
    · simp only [Table.search, h]; split <;> rfl
    · simp only [Table.search]; split
      · rfl
      · exact ih

/-- A void leaves the slot of every account serial as it was. -/
theorem voidEntry_findSerial (s : State) (e : Entry) (serial : Nat) :
    ((s.voidEntry e).findSerial serial).map (·.1) = (s.findSerial serial).map (·.1) := by
  unfold State.voidEntry State.findSerial
  dsimp only
  split
  · rfl
  · exact Table.search_modify_slot _ _ _ _ (fun _ => rfl)

/-- The log after a void: the entries of the group are VOIDED and no other changes (04 R90). -/
theorem voidAll_log (s : State) (g : List Entry) :
    (s.voidAll g).log = s.log.map (fun d => if d.seq ∈ g.map (·.seq) then { d with state := .voided } else d) := by
  unfold State.voidAll
  induction g generalizing s with
  | nil => simp
  | cons e rest ih =>
    rw [List.foldl_cons, ih]
    simp only [State.voidEntry, List.map_map]
    apply List.map_congr_left
    intro x _
    simp only [Function.comp, List.map_cons, List.mem_cons]
    by_cases hx : x.seq = e.seq <;> simp only [hx, if_true, if_false, true_or, false_or, ite_self]

/-- The accounts after a void: each posted total falls by its own entries of the group (04 R90). -/
theorem voidAll_accounts (s : State) (g : List Entry) (i : Nat) :
    (s.voidAll g).accounts.fetch i = (s.accounts.fetch i).map (fun a => { a with
      posted := a.posted -
        ((g.filter (fun d => (s.findSerial d.serial).map (·.1) == some i)).map (·.amount)).sum }) := by
  unfold State.voidAll
  induction g generalizing s with
  | nil => simp
  | cons e rest ih =>
    rw [List.foldl_cons, ih]
    simp only [voidEntry_findSerial, List.filter_cons]
    have h1 : (s.voidEntry e).accounts.fetch i = (s.accounts.fetch i).map (fun a =>
        if (s.findSerial e.serial).map (·.1) = some i then { a with posted := a.posted - e.amount } else a) := by
      unfold State.voidEntry
      dsimp only
      cases hs : s.findSerial e.serial with
      | none => simp
      | some x =>
        obtain ⟨k, b⟩ := x
        simp only [Table.fetch_modify, Option.map_some, Option.some.injEq]
        by_cases hk : i = k
        · simp [hk]
        · simp [hk, Ne.symm hk]
    rw [h1, Option.map_map]
    congr 1
    funext a
    simp only [Function.comp, beq_iff_eq]
    split
    · simp only [List.map_cons, List.sum_cons, Nat.cast_add]; congr 1; omega
    · rfl

/-- The roster after a void: spent today falls by the entries of the present ship day, and not below 0 (04 R90). -/
theorem voidAll_roster (s : State) (g : List Entry) (i : Nat) :
    (s.voidAll g).roster.fetch i = (s.roster.fetch i).map (fun c => { c with
      spent := c.spent -
        ((g.filter (fun d => d.day == s.shipDay && d.origin.map (·.holder) == some i)).map (·.amount)).sum }) := by
  unfold State.voidAll
  induction g generalizing s with
  | nil => simp
  | cons e rest ih =>
    rw [List.foldl_cons, ih]
    simp only [List.filter_cons]
    have h0 : (s.voidEntry e).shipDay = s.shipDay := rfl
    have h1 : (s.voidEntry e).roster.fetch i = (s.roster.fetch i).map (fun c =>
        if e.day = s.shipDay ∧ e.origin.map (·.holder) = some i then { c with spent := c.spent - e.amount } else c) := by
      unfold State.voidEntry
      dsimp only
      cases ho : e.origin with
      | none => simp
      | some o =>
        simp only [Option.map_some, Option.some.injEq]
        by_cases hd : e.day = s.shipDay
        · simp only [hd, if_true, Table.fetch_modify, true_and, Cardholder.unspend]
          by_cases hk : i = o.holder
          · simp [hk]
          · simp [hk, Ne.symm hk]
        · simp [hd]
    rw [h0, h1, Option.map_map]
    congr 1
    funext c
    simp only [Function.comp, Bool.and_eq_true, beq_iff_eq]
    split
    · simp only [List.map_cons, List.sum_cons, Nat.sub_add_eq]
    · rfl

/-! ## Charges -/

/-- The shares of an authorization that passes: one for each card in listed order, of the card's holder and account, with
its amount of the pricing, which is made on the first card's account (04 R76 to R78, 03 R59). -/
theorem authorize_passed (s : State) (cls gross k : Nat) :
    ∀ (cards : List Presentation) (i : Nat) (done shares : List Share) (pr0 : Option Priced) (x : Priced),
    1 ≤ i → s.authorize cls gross k cards i done pr0 = .passed shares (some x) →
    (∀ y, pr0 = some y → x = y) ∧ ∃ new, shares = done ++ new ∧ new.length = cards.length ∧
      ∀ (n : Nat) (c : Presentation), cards[n]? = some c →
        ∃ payer : Payer, s.checkCard c.card.toNat c.gen.toNat = .ok payer ∧
        new[n]? = some { holder := payer.holder, account := payer.account, amount := x.shares.getD (i - 1 + n) 0 } ∧
        (n = 0 → pr0 = none → x = s.tariff.price cls payer.folio.package gross k) := by
  intro cards
  induction cards with
  | nil =>
    intro i done shares pr0 x hi h
    simp only [State.authorize, Authorized.passed.injEq] at h
    obtain ⟨rfl, rfl⟩ := h
    exact ⟨fun y hy => by cases hy; rfl, [], by simp, rfl, by simp⟩
  | cons c rest ih =>
    intro i done shares pr0 x hi h
    simp only [State.authorize] at h
    split at h
    · cases h
    · rename_i payer hp
      split at h
      · cases h
      · obtain ⟨h1, new, h2, h3, h4⟩ := ih _ _ _ _ _ (by omega) h
        have hx := h1 _ rfl
        refine ⟨fun y hy => by rw [hx, hy]; rfl,
          { holder := payer.holder, account := payer.account, amount := x.shares.getD (i - 1) 0 } :: new,
          by rw [h2, hx]; simp, by simp [h3], ?_⟩
        intro n d hn
        cases n with
        | zero =>
          simp at hn; subst hn
          exact ⟨payer, hp, by simp [hx], fun _ h0 => by rw [hx, h0]; rfl⟩
        | succ n =>
          obtain ⟨py, q1, q2, -⟩ := h4 n d (by simpa using hn)
          refine ⟨py, q1, ?_, by simp⟩
          rw [List.getElem?_cons_succ, q2]
          have : i + 1 - 1 + n = i - 1 + (n + 1) := by omega
          rw [this]

/-- The entry that a share of a charge becomes (04 R70, R79). -/
def State.shareRecord (s : State) (p : Port) (outlet cls : Nat) (pr : Priced) (first i : Nat) (y : Share)
    (a : Account) (link : Option Nat) : Entry :=
  { seq := s.nextSeq, kind := .charge, state := .posted, serial := a.serial, link := link, amount := y.amount,
    time := s.shipTime, day := s.shipDay, origin := some { holder := y.holder, port := p, outlet := outlet },
    cls := cls,
    detail := if i = 1 then some { gross := pr.gross, discount := pr.discount, service := pr.service } else none,
    hold := none, split := if 2 ≤ pr.k then some { first := first, index := i, count := pr.k } else none }

/-- The state after one share of a charge (04 R72, R79). -/
def State.shareState (s : State) (p : Port) (outlet cls : Nat) (pr : Priced) (first i : Nat) (y : Share)
    (a : Account) : State :=
  { s with
    log := linkFrom (makePlace s.log) a.last s.nextSeq ++ [s.shareRecord p outlet cls pr first i y a none]
    nextSeq := s.nextSeq + 1
    accounts := s.accounts.store y.account (a.joined s.nextSeq y.amount)
    roster := s.roster.modify y.holder (fun c => c.spend s.shipDay y.amount) }

/-- One share posted, with the spending of its cardholder. -/
theorem post_share {s : State} {p : Port} {outlet cls first i : Nat} {pr : Priced} {y : Share} {a : Account}
    (ha : s.accounts.fetch y.account = some a) :
    (s.post y.account (shareEntry p outlet cls pr first i y)).spendAt y.holder y.amount =
      s.shareState p outlet cls pr first i y a := by
  simp only [State.post, ha, State.spendAt, shareEntry, Entry.draft, Entry.signed, State.shareRecord, State.shareState]

theorem shareState_fetch_same (s : State) (p : Port) (outlet cls : Nat) (pr : Priced) (first i : Nat) (y : Share)
    (a : Account) : (s.shareState p outlet cls pr first i y a).accounts.fetch y.account =
      some (a.joined s.nextSeq y.amount) := Table.fetch_store_same _ _ _

theorem shareState_fetch_ne (s : State) (p : Port) (outlet cls : Nat) (pr : Priced) (first i : Nat) (y : Share)
    (a : Account) {k : Nat} (h : k ≠ y.account) :
    (s.shareState p outlet cls pr first i y a).accounts.fetch k = s.accounts.fetch k := Table.fetch_store_ne _ _ h

theorem shareState_isSome {s : State} {p : Port} {outlet cls first i : Nat} {pr : Priced} {y : Share} {a : Account}
    {k : Nat} (h : (s.accounts.fetch k).isSome = true) :
    ((s.shareState p outlet cls pr first i y a).accounts.fetch k).isSome = true := by
  by_cases hk : k = y.account
  · rw [hk, shareState_fetch_same]; rfl
  · rw [shareState_fetch_ne _ _ _ _ _ _ _ _ _ hk]; exact h

theorem shareState_last {s : State} {p : Port} {outlet cls first i : Nat} {pr : Priced} {y : Share} {a : Account}
    {k q : Nat} {b : Account} (hb : (s.shareState p outlet cls pr first i y a).accounts.fetch k = some b)
    (hq : b.last = some q) : (k = y.account ∧ q = s.nextSeq) ∨ (k ≠ y.account ∧ s.accounts.fetch k = some b) := by
  by_cases hk : k = y.account
  · rw [hk, shareState_fetch_same] at hb; cases hb
    exact .inl ⟨hk, by simpa [Account.joined] using hq.symm⟩
  · rw [shareState_fetch_ne _ _ _ _ _ _ _ _ _ hk] at hb; exact .inr ⟨hk, hb⟩

/-- The link written at one sequence. -/
def setLink (q seq : Nat) (e : Entry) : Entry := if e.seq = q then { e with link := some seq } else e

/-- The link an append writes changes the entry at the chain's end alone (04 R72). -/
theorem linkFrom_map (last : Option Nat) (seq : Nat) :
    ∃ f : Entry → Entry, (∀ l, linkFrom l last seq = l.map f) ∧ (∀ e, last ≠ some e.seq → f e = e) ∧
      ∀ e, last = some e.seq → f e = { e with link := some seq } := by
  cases last with
  | none => exact ⟨id, by simp [linkFrom], by simp, by simp⟩
  | some q =>
    refine ⟨setLink q seq, fun l => rfl, fun e h => ?_, fun e h => ?_⟩
    · simp only [setLink]; rw [if_neg]; intro h'; exact h (by rw [h'])
    · simp only [setLink]; rw [if_pos (by simpa using h.symm)]

/-- The place made for an entry keeps the newest entries of the log (04 R73). -/
theorem makePlace_append (pre suf : List Entry) (h : suf.length < Config.logPlaces) :
    ∃ pre', makePlace (pre ++ suf) = pre' ++ suf := by
  unfold makePlace
  split
  · cases pre with
    | nil => simp at *; omega
    | cons x xs => exact ⟨xs, rfl⟩
  · exact ⟨pre, rfl⟩

/-- An entry that no account's chain ends at stays as it is while further shares are posted. -/
theorem postShares_kept (p : Port) (outlet cls : Nat) (pr : Priced) (first : Nat) :
    ∀ (shares : List Share) (i : Nat) (s : State) (pre suf : List Entry) (e : Entry),
      s.log = pre ++ e :: suf → suf.length + shares.length + 1 < Config.logPlaces → e.seq < s.nextSeq →
      (∀ y ∈ shares, (s.accounts.fetch y.account).isSome = true) →
      (∀ k a, s.accounts.fetch k = some a → a.last ≠ some e.seq) →
      e ∈ (s.postShares p outlet cls pr first shares i).1.log := by
  intro shares
  induction shares with
  | nil => intro i s pre suf e hl _ _ _ _; simp [State.postShares, hl]
  | cons y rest ih =>
    intro i s pre suf e hl hn hq hs hk
    obtain ⟨a, ha⟩ := Option.isSome_iff_exists.mp (hs y (by simp))
    simp only [State.postShares]
    rw [post_share ha]
    obtain ⟨pre', hp⟩ := makePlace_append pre (e :: suf) (by simp at hn ⊢; omega)
    obtain ⟨f, hf, hf1, -⟩ := linkFrom_map a.last s.nextSeq
    refine ih (i + 1) (s.shareState p outlet cls pr first i y a) (pre'.map f)
      (suf.map f ++ [s.shareRecord p outlet cls pr first i y a none]) e
      (by simp [State.shareState, hl, hp, hf, hf1 e (hk _ _ ha)]) (by simp at hn ⊢; omega)
      (Nat.lt_succ_of_lt hq) (fun z hz => shareState_isSome (hs z (by simp [hz]))) (fun k b hb hbq => ?_)
    rcases shareState_last hb hbq with ⟨-, h⟩ | ⟨-, h⟩
    · omega
    · exact hk k b h hbq

/-- The entry at the end of an account's chain is linked to the first further share of that account (04 R72). -/
theorem postShares_linked (p : Port) (outlet cls : Nat) (pr : Priced) (first acc : Nat) :
    ∀ (shares : List Share) (i : Nat) (s : State) (pre suf : List Entry) (e : Entry),
      s.log = pre ++ e :: suf → suf.length + shares.length + 1 < Config.logPlaces → e.seq < s.nextSeq → e.link = none →
      (∀ y ∈ shares, (s.accounts.fetch y.account).isSome = true) →
      (∀ k a, s.accounts.fetch k = some a → (a.last = some e.seq ↔ k = acc)) →
      { e with link := (shares.findIdx? (fun z => z.account == acc)).map (fun j => s.nextSeq + j) } ∈
        (s.postShares p outlet cls pr first shares i).1.log := by
  intro shares
  induction shares with
  | nil =>
    intro i s pre suf e hl _ _ he _ _
    simp only [State.postShares, hl, List.findIdx?_nil, Option.map_none]
    rw [← he]; simp
  | cons y rest ih =>
    intro i s pre suf e hl hn hq he hs hk
    obtain ⟨a, ha⟩ := Option.isSome_iff_exists.mp (hs y (by simp))
    simp only [State.postShares]
    rw [post_share ha]
    obtain ⟨pre', hp⟩ := makePlace_append pre (e :: suf) (by simp at hn ⊢; omega)
    obtain ⟨f, hf, hf1, hf2⟩ := linkFrom_map a.last s.nextSeq
    by_cases hy : y.account = acc
    · have hlast : a.last = some e.seq := (hk _ _ ha).2 hy
      rw [List.findIdx?_cons, hy]
      simp only [beq_self_eq_true, if_true, Option.map_some, Nat.add_zero]
      refine postShares_kept p outlet cls pr first rest (i + 1) (s.shareState p outlet cls pr first i y a) (pre'.map f)
        (suf.map f ++ [s.shareRecord p outlet cls pr first i y a none]) _
        (by simp [State.shareState, hl, hp, hf, hf2 e hlast]) (by simp at hn ⊢; omega)
        (Nat.lt_succ_of_lt hq) (fun z hz => shareState_isSome (hs z (by simp [hz]))) (fun k b hb hbq => ?_)
      simp only at hbq
      rcases shareState_last hb hbq with ⟨-, h⟩ | ⟨h', h⟩
      · omega
      · exact h' (((hk k b h).1 hbq).trans hy.symm)
    · have hlast : a.last ≠ some e.seq := fun h => hy ((hk _ _ ha).1 h)
      rw [List.findIdx?_cons]
      simp only [beq_eq_false_iff_ne.mpr hy, Bool.false_eq_true, if_false, Option.map_map]
      have := ih (i + 1) (s.shareState p outlet cls pr first i y a) (pre'.map f)
        (suf.map f ++ [s.shareRecord p outlet cls pr first i y a none]) e
        (by simp [State.shareState, hl, hp, hf, hf1 e hlast])
        (by simp at hn ⊢; omega) (Nat.lt_succ_of_lt hq) he (fun z hz => shareState_isSome (hs z (by simp [hz])))
        (fun k b hb => by
          constructor
          · intro hbq
            rcases shareState_last hb hbq with ⟨-, h⟩ | ⟨-, h⟩
            · omega
            · exact (hk k b h).1 hbq
          · intro h
            rw [shareState_fetch_ne _ _ _ _ _ _ _ _ _ (by rw [h]; exact Ne.symm hy)] at hb
            exact (hk k b hb).2 h)
      have e1 : ((fun j => s.nextSeq + j) ∘ fun j => j + 1) = fun j => (s.shareState p outlet cls pr first i y a).nextSeq + j := by
        funext j
        show s.nextSeq + (j + 1) = s.nextSeq + 1 + j
        omega
      rw [e1]
      exact this

/-- Every share of a charge is an entry of the log after it (04 R70, R72, R79). -/
theorem postShares_entry (p : Port) (outlet cls : Nat) (pr : Priced) (first : Nat) :
    ∀ (shares : List Share) (i : Nat) (s : State) (n : Nat) (y : Share) (a : Account),
      shares.length + 1 < Config.logPlaces → (∀ z ∈ shares, (s.accounts.fetch z.account).isSome = true) →
      (∀ k b q, s.accounts.fetch k = some b → b.last = some q → q < s.nextSeq) →
      shares[n]? = some y → s.accounts.fetch y.account = some a →
      ({ seq := s.nextSeq + n, kind := .charge, state := .posted, serial := a.serial,
         link := ((shares.drop (n + 1)).findIdx? (fun z => z.account == y.account)).map (fun j => s.nextSeq + (n + 1 + j)),
         amount := y.amount, time := s.shipTime, day := s.shipDay,
         origin := some { holder := y.holder, port := p, outlet := outlet }, cls := cls,
         detail := if i + n = 1 then some { gross := pr.gross, discount := pr.discount, service := pr.service } else none,
         hold := none, split := if 2 ≤ pr.k then some { first := first, index := i + n, count := pr.k } else none } : Entry) ∈
        (s.postShares p outlet cls pr first shares i).1.log := by
  intro shares
  induction shares with
  | nil => intro i s n y a _ _ _ h; simp at h
  | cons z rest ih =>
    intro i s n y a hlen hs hk hn ha
    obtain ⟨b, hb⟩ := Option.isSome_iff_exists.mp (hs z (by simp))
    simp only [State.postShares]
    rw [post_share hb]
    cases n with
    | zero =>
      have : z = y := by simpa using hn
      subst this
      rw [ha] at hb; cases hb
      have := postShares_linked p outlet cls pr first z.account rest (i + 1) (s.shareState p outlet cls pr first i z a)
        (linkFrom (makePlace s.log) a.last s.nextSeq) [] (s.shareRecord p outlet cls pr first i z a none) rfl
        (by simp at hlen ⊢; omega) (Nat.lt_succ_self _) rfl (fun w hw => shareState_isSome (hs w (by simp [hw])))
        (fun k c hc => by
          constructor
          · intro hcq
            rcases shareState_last hc hcq with ⟨h, -⟩ | ⟨-, h⟩
            · exact h
            · exact absurd (hk k c _ h hcq) (Nat.lt_irrefl _)
          · intro h
            rw [h, shareState_fetch_same] at hc; cases hc; rfl)
      have e1 : (fun j => s.nextSeq + (0 + 1 + j)) = fun j => (s.shareState p outlet cls pr first i z a).nextSeq + j := by
        funext j
        show s.nextSeq + (0 + 1 + j) = s.nextSeq + 1 + j
        omega
      rw [e1]
      exact this
    | succ n =>
      have hn' : rest[n]? = some y := by simpa using hn
      obtain ⟨a', ha', hser⟩ : ∃ a', (s.shareState p outlet cls pr first i z b).accounts.fetch y.account = some a' ∧
          a'.serial = a.serial := by
        by_cases hyk : y.account = z.account
        · rw [hyk, shareState_fetch_same]; rw [hyk, hb] at ha; cases ha; exact ⟨_, rfl, rfl⟩
        · rw [shareState_fetch_ne _ _ _ _ _ _ _ _ _ hyk]; exact ⟨a, ha, rfl⟩
      have := ih (i + 1) (s.shareState p outlet cls pr first i z b) n y a' (by simp at hlen; omega)
        (fun w hw => shareState_isSome (hs w (by simp [hw]))) (fun k c q hc hq => by
          rcases shareState_last hc hq with ⟨-, h⟩ | ⟨-, h⟩
          · show q < s.nextSeq + 1; omega
          · exact Nat.lt_succ_of_lt (hk k c q h hq)) hn' ha'
      have e1 : (fun j => s.nextSeq + (n + 1 + 1 + j)) =
          fun j => (s.shareState p outlet cls pr first i z b).nextSeq + (n + 1 + j) := by
        funext j
        show s.nextSeq + (n + 1 + 1 + j) = s.nextSeq + 1 + (n + 1 + j)
        omega
      have e2 : i + (n + 1) = i + 1 + n := by omega
      have e3 : s.nextSeq + (n + 1) = (s.shareState p outlet cls pr first i z b).nextSeq + n := by
        show _ = s.nextSeq + 1 + n
        omega
      rw [e1, e2, e3, ← hser]
      exact this

/-! ## What a charge takes -/

/-- The amounts of the shares of one cardholder. -/
def takenFrom (shares : List Share) (holder : Nat) : Nat :=
  ((shares.filter (fun x => x.holder == holder)).map (·.amount)).sum

/-- A card that passes checks 2 to 8 names a cardholder in its slot, and an OPEN account in its own (04 R76). -/
theorem checkCard_ok {s : State} {card gen : Nat} {x : Payer} (h : s.checkCard card gen = .ok x) :
    s.findCard card = some (x.holder, x.card) ∧ x.card.gen = gen ∧ x.card.state = .active ∧ x.card.kind ≠ .staff ∧
      s.accountOf x.card = some (x.account, x.folio) ∧ s.accounts.fetch x.account = some x.folio ∧
      x.folio.state = .opened := by
  unfold State.checkCard at h
  split at h
  · cases h
  · rename_i slot c hc
    repeat' split at h
    all_goals try (cases h; done)
    rename_i hg1 hg2 _ hst hk _ aslot a ha ho
    cases h
    refine ⟨hc, by show c.gen = gen; omega, hst, hk, ha, ?_, ho⟩
    unfold State.accountOf at ha
    repeat' split at ha
    all_goals try (cases ha; done)
    cases ha
    assumption

/-- A share that passes checks 9 to 12 lies within its cardholder's cap and, with what the charge has passed on the
same account, within the headroom (04 R77). -/
theorem checkShare_none {s : State} {x : Payer} {cls share already : Nat} (h : s.checkShare x cls share already = none) :
    (x.card.spentToday s.shipDay + x.card.held + share : Nat) ≤ effectiveCap s.tariff x.card ∧
      (already + share : Nat) ≤ x.folio.headroom := by
  unfold State.checkShare at h
  repeat' split at h
  all_goals try (cases h; done)
  omega

/-- Every account reached by an authorization that passes has headroom for all the shares on it together, and every
cardholder has room under its cap for its share (04 R77). -/
theorem authorize_room (s : State) (cls gross k : Nat) :
    ∀ (cards : List Presentation) (i : Nat) (done shares : List Share) (pr0 pr : Option Priced),
    s.authorize cls gross k cards i done pr0 = .passed shares pr → ∃ new, shares = done ++ new ∧
      new.map (·.holder) = cards.filterMap (fun c => (s.findCard c.card.toNat).map (·.1)) ∧
      (∀ y ∈ new, ∃ card c a, s.findCard card = some (y.holder, c) ∧ s.accounts.fetch y.account = some a ∧
        (passedOn shares y.account : Int) ≤ a.headroom ∧
        (c.spentToday s.shipDay + c.held + y.amount : Nat) ≤ effectiveCap s.tariff c) := by
  intro cards
  induction cards with
  | nil =>
    intro i done shares pr0 pr h
    simp only [State.authorize, Authorized.passed.injEq] at h
    exact ⟨[], by simp [h.1], by simp, by simp⟩
  | cons c rest ih =>
    intro i done shares pr0 pr h
    simp only [State.authorize] at h
    split at h
    · cases h
    · rename_i payer hp
      split at h
      · cases h
      · rename_i hsh
        obtain ⟨new, h2, h3, h4⟩ := ih _ _ _ _ _ h
        obtain ⟨q1, -, -, -, -, q6, -⟩ := checkCard_ok hp
        obtain ⟨r1, r2⟩ := checkShare_none hsh
        refine ⟨_ :: new, by rw [h2, List.append_assoc]; rfl, by simp [h3, q1], ?_⟩
        intro y hy
        rw [List.mem_cons] at hy
        rcases hy with rfl | hy
        · refine ⟨_, _, _, q1, q6, ?_, r1⟩
          dsimp only
          by_cases hex : ∃ y ∈ new, y.account = payer.account
          · obtain ⟨y, hy, he⟩ := hex
            obtain ⟨_, _, a, _, q, hh, _⟩ := h4 y hy
            rw [he, q6] at q; cases q
            rw [he] at hh; exact hh
          · have : passedOn shares payer.account = passedOn done payer.account +
                ((pr0.getD (s.tariff.price cls payer.folio.package gross k)).shares.getD (i - 1) 0) := by
              rw [h2]
              have hnil : new.filter (fun x => x.account == payer.account) = [] := by
                rw [List.filter_eq_nil_iff]; intro y hy; simp; exact fun e => hex ⟨y, hy, e⟩
              simp [passedOn, hnil]
            rw [this]; exact r2
        · exact h4 y hy

/-- An append moves the account's posted total and its chain, and no other field of any account (04 R72). -/
theorem post_account {s : State} {k slot : Nat} {e : Entry} {a : Account} (h : s.accounts.fetch k = some a) :
    ∃ f l n c, (s.post slot e).accounts.fetch k = some { a with
      posted := a.posted + (if k = slot then e.signed else 0), first := f, last := l, count := n, cursor := c } := by
  unfold State.post
  cases hs : s.accounts.fetch slot with
  | none =>
    have : k ≠ slot := by rintro rfl; rw [h] at hs; cases hs
    exact ⟨a.first, a.last, a.count, a.cursor, by simp [h, this]⟩
  | some b =>
    by_cases hk : k = slot
    · subst hk
      rw [h] at hs; cases hs
      exact ⟨_, _, _, _, by simp only [Table.fetch_store_same, Account.joined, if_true]; rfl⟩
    · exact ⟨a.first, a.last, a.count, a.cursor, by simp [Table.fetch_store_ne _ _ hk, hk, h]⟩

/-- A charge moves each account's posted total by the shares on it, and its chain, and no other field (04 R79). -/
theorem postShares_account (p : Port) (outlet cls : Nat) (pr : Priced) (first : Nat) :
    ∀ (shares : List Share) (i : Nat) (s : State) (k : Nat) (a : Account), s.accounts.fetch k = some a →
    ∃ f l n c, (s.postShares p outlet cls pr first shares i).1.accounts.fetch k = some { a with
      posted := a.posted + passedOn shares k, first := f, last := l, count := n, cursor := c } := by
  intro shares
  induction shares with
  | nil => intro i s k a h; exact ⟨a.first, a.last, a.count, a.cursor, by simp [State.postShares, h, passedOn]⟩
  | cons y rest ih =>
    intro i s k a h
    obtain ⟨f, l, n, c, h1⟩ := post_account (slot := y.account) (e := shareEntry p outlet cls pr first i y) h
    obtain ⟨f2, l2, n2, c2, h2⟩ := ih (i + 1)
      ((s.post y.account (shareEntry p outlet cls pr first i y)).spendAt y.holder y.amount) k _ h1
    refine ⟨f2, l2, n2, c2, ?_⟩
    simp only [State.postShares]
    rw [h2]
    congr 2
    simp only [passedOn, List.filter_cons, beq_iff_eq, shareEntry, Entry.draft, Entry.signed]
    by_cases hk : y.account = k
    · simp [hk, Int.add_assoc]
    · simp [hk, Ne.symm hk]

/-- A charge moves each cardholder's spent today by its shares, and the stamp, and no other field (04 R79). -/
theorem postShares_holder (p : Port) (outlet cls : Nat) (pr : Priced) (first : Nat) :
    ∀ (shares : List Share) (i : Nat) (s : State) (k : Nat) (c : Cardholder), s.roster.fetch k = some c →
    ∃ c', (s.postShares p outlet cls pr first shares i).1.roster.fetch k = some c' ∧
      c' = { c with spent := c'.spent, spentDay := c'.spentDay } ∧
      c'.spentToday s.shipDay = c.spentToday s.shipDay + takenFrom shares k ∧
      (c' = c ∨ c'.spentDay = s.shipDay) := by
  intro shares
  induction shares with
  | nil => intro i s k c h; exact ⟨c, by simp [State.postShares, h], rfl, by simp [takenFrom], .inl rfl⟩
  | cons y rest ih =>
    intro i s k c h
    have hd : ((s.post y.account (shareEntry p outlet cls pr first i y)).spendAt y.holder y.amount).shipDay = s.shipDay := by
      obtain ⟨a, l, q, e⟩ := State.post_frame s y.account (shareEntry p outlet cls pr first i y)
      rw [State.spendAt, e]
    have hr : (s.post y.account (shareEntry p outlet cls pr first i y)).roster = s.roster ∧
        (s.post y.account (shareEntry p outlet cls pr first i y)).shipDay = s.shipDay := by
      obtain ⟨a, l, q, e⟩ := State.post_frame s y.account (shareEntry p outlet cls pr first i y)
      rw [e]; exact ⟨rfl, rfl⟩
    have h1 : ((s.post y.account (shareEntry p outlet cls pr first i y)).spendAt y.holder y.amount).roster.fetch k =
        some (if k = y.holder then c.spend s.shipDay y.amount else c) := by
      simp only [State.spendAt, hr.1, hr.2, Table.fetch_modify, h]
      split <;> rfl
    obtain ⟨c', h2, h3, h4, h5⟩ := ih (i + 1) _ k _ h1
    rw [hd] at h4 h5
    refine ⟨c', h2, ?_, ?_, ?_⟩
    · rw [h3]; split <;> rfl
    · rw [h4]
      by_cases hk : y.holder = k
      · simp [hk, takenFrom, Cardholder.spend, Cardholder.spentToday, Nat.add_assoc]
      · simp [hk, Ne.symm hk, takenFrom]
    · rcases h5 with h5 | h5
      · by_cases hk : k = y.holder
        · right; rw [h5]; simp [hk, Cardholder.spend]
        · left; rw [h5]; simp [hk]
      · exact .inr h5
/-- Where every share falls on another cardholder, a cardholder gives its own share (04 R75). -/
theorem takenFrom_nodup : ∀ (shares : List Share) (y : Share), (shares.map (·.holder)).Nodup → y ∈ shares →
    takenFrom shares y.holder = y.amount := by
  intro shares
  induction shares with
  | nil => intro y _ h; cases h
  | cons x rest ih =>
    intro y hn hy
    simp only [List.map_cons, List.nodup_cons] at hn
    rw [List.mem_cons] at hy
    rcases hy with rfl | hy
    · have : rest.filter (fun x => x.holder == y.holder) = [] := by
        rw [List.filter_eq_nil_iff]; intro z hz; simp; exact fun e => hn.1 (by rw [← e]; exact List.mem_map_of_mem hz)
      simp [takenFrom, this]
    · have hne : x.holder ≠ y.holder := fun e => hn.1 (by rw [e]; exact List.mem_map_of_mem hy)
      have := ih y hn.2 hy
      simpa [takenFrom, hne] using this

/-- Different card numbers name different cardholder slots (01 section 1.1). -/
theorem holders_nodup {s : State} (hw : s.roster.wf Config.cardholderSlots = true) : ∀ (cards : List Presentation),
    (cards.map (·.card)).Nodup → (cards.filterMap (fun c => (s.findCard c.card.toNat).map (·.1))).Nodup := by
  intro cards
  induction cards with
  | nil => simp
  | cons x rest ih =>
    intro h
    simp only [List.map_cons, List.nodup_cons] at h
    rw [List.filterMap_cons]
    cases hx : s.findCard x.card.toNat with
    | none => exact ih h.2
    | some v =>
      obtain ⟨i, c⟩ := v
      simp only [Option.map_some, List.nodup_cons]
      refine ⟨?_, ih h.2⟩
      rw [List.mem_filterMap]
      rintro ⟨z, hz, he⟩
      cases hz' : s.findCard z.card.toNat with
      | none => rw [hz'] at he; cases he
      | some w =>
        obtain ⟨j, d⟩ := w
        rw [hz'] at he
        simp at he; subst he
        have e1 := Table.fetch_of_search hw hx
        have e2 := Table.fetch_of_search hw hz'
        rw [e1] at e2; cases e2
        have p1 := Table.search_pred hx
        have p2 := Table.search_pred hz'
        simp at p1 p2
        exact h.1 (List.mem_map.mpr ⟨z, hz, BitVec.eq_of_toNat_eq (by omega)⟩)

end Sys2Proof.Machine
end

