-- ==== Sys2Proof/Laws/Amounts.lean ====
section
/-! SUPPORT. Laws/Amounts.lean: what each operation does to the amounts of accounts and cardholders: it leaves them,
or moves them within the ranges that R93 says its checks keep. -/

namespace Sys2Proof.Machine

/-! ## Steps that leave the amounts of the cardholders alone -/

/-- Every record of a roster stands in another with the same amounts, stamp and account, CLOSED still where it was. -/
def sameAmounts (r r' : Table Cardholder) : Prop :=
  ∀ i c', r'.fetch i = some c' → ∃ c, r.fetch i = some c ∧ c'.spent = c.spent ∧ c'.spentDay = c.spentDay ∧
    c'.held = c.held ∧ c'.account = c.account ∧ (c.state = .closed → c'.state = .closed)

/-- No change. -/
theorem sameAmounts_refl (r : Table Cardholder) : sameAmounts r r :=
  fun _ c h => ⟨c, h, rfl, rfl, rfl, rfl, id⟩

/-- One change after another. -/
theorem sameAmounts_trans {a b c : Table Cardholder} (h : sameAmounts a b) (k : sameAmounts b c) : sameAmounts a c := by
  intro i z hz
  obtain ⟨y, hy, k1, k2, k3, k4, k5⟩ := k i z hz
  obtain ⟨x, hx, h1, h2, h3, h4, h5⟩ := h i y hy
  exact ⟨x, hx, k1.trans h1, k2.trans h2, k3.trans h3, k4.trans h4, fun q => k5 (h5 q)⟩

/-- A record rewritten in place in its other fields. -/
theorem sameAmounts_store {r : Table Cardholder} {k : Nat} {c x : Cardholder} (hc : r.fetch k = some c)
    (h : x.spent = c.spent ∧ x.spentDay = c.spentDay ∧ x.held = c.held ∧ x.account = c.account ∧
      (c.state = .closed → x.state = .closed)) : sameAmounts r (r.store k x) := by
  intro i z hz
  by_cases hi : i = k
  · rw [hi, Table.fetch_store_same] at hz; cases hz
    rw [hi]; exact ⟨c, hc, h⟩
  · rw [Table.fetch_store_ne _ _ hi] at hz
    exact ⟨z, hz, rfl, rfl, rfl, rfl, id⟩

/-- A record changed in place in its other fields. -/
theorem sameAmounts_modify (r : Table Cardholder) (k : Nat) (f : Cardholder → Cardholder)
    (h : ∀ c, (f c).spent = c.spent ∧ (f c).spentDay = c.spentDay ∧ (f c).held = c.held ∧ (f c).account = c.account ∧
      (c.state = .closed → (f c).state = .closed)) : sameAmounts r (r.modify k f) := by
  intro i z hz
  rw [Table.fetch_modify] at hz
  split at hz
  · cases hc : r.fetch i with
    | none => rw [hc] at hz; cases hz
    | some c => rw [hc] at hz; cases hz; exact ⟨c, rfl, h c⟩
  · exact ⟨z, hz, rfl, rfl, rfl, rfl, id⟩

/-- A conflict report (01 R11, R12). -/
theorem reportConflict_sameAmounts (s : State) (slot : Nat) : sameAmounts s.roster (s.reportConflict slot).roster := by
  unfold State.reportConflict
  split
  · exact sameAmounts_refl _
  · rename_i c hc
    have key : ∀ st, (c.state = .closed → st = .closed) → sameAmounts s.roster
        (s.roster.store slot { c with conflicts := conflictsAfter c.conflicts, state := st }) :=
      fun st h => sameAmounts_store hc ⟨rfl, rfl, rfl, rfl, h⟩
    dsimp only
    split
    · rename_i hs
      exact key _ (fun h => by simp [suspends, h] at hs)
    · exact key _ id

/-- A decline (04 R76, R77). -/
theorem declineEffect_sameAmounts (s : State) (card : Nat) (why : Result) :
    sameAmounts s.roster (s.declineEffect card why).roster := by
  unfold State.declineEffect
  repeat' split
  all_goals first | exact sameAmounts_refl _ | exact reportConflict_sameAmounts _ _

/-- The side report of a denial (02 R37). -/
theorem sideReport_sameAmounts (s : State) (slot : Nat) (c : Cardholder) (v : AccessVerdict) :
    sameAmounts s.roster (s.sideReport slot c v).roster := by
  unfold State.sideReport
  split
  all_goals first | exact sameAmounts_refl _ | exact reportConflict_sameAmounts _ _

/-- A pair taken out of the grant relation (01 R21). -/
theorem unpair_sameAmounts (s : State) (holder cabin : Nat) : sameAmounts s.roster (s.unpair holder cabin).roster :=
  sameAmounts_modify _ _ _ (fun _ => ⟨rfl, rfl, rfl, rfl, id⟩)

/-- Such changes one after the other. -/
theorem unpairs_sameAmounts {α : Type} (f : State → α → State) (h : ∀ s x, sameAmounts s.roster (f s x).roster)
    (l : List α) (s : State) : sameAmounts s.roster (l.foldl f s).roster := by
  induction l generalizing s with
  | nil => exact sameAmounts_refl _
  | cons x xs ih => exact sameAmounts_trans (h s x) (ih (f s x))

/-- A presence set (07 R141). -/
theorem movePresence_sameAmounts (s : State) (slot : Nat) (p q : Presence) (t : Option Transit) :
    sameAmounts s.roster (s.movePresence slot p q t).roster :=
  sameAmounts_modify _ _ _ (fun _ => ⟨rfl, rfl, rfl, rfl, id⟩)

/-- The missing list is no part of the roster. -/
theorem leaveMissing_roster (s : State) (slot : Nat) : (s.leaveMissing slot).roster = s.roster := by
  obtain ⟨_, _, _, h⟩ := State.leaveMissing_frame s slot
  rw [h]

/-- SET PRESENCE (07 R141). -/
theorem setPresence_sameAmounts (s : State) (slot : Nat) (p q : Presence) :
    sameAmounts s.roster (s.setPresence slot p q).roster := by
  unfold State.setPresence State.followPresence
  repeat' split
  · exact sameAmounts_refl _
  all_goals first
    | exact movePresence_sameAmounts _ _ _ _ _
    | exact movePresence_sameAmounts s slot p _ _
    | (rw [leaveMissing_roster]; exact movePresence_sameAmounts _ _ _ _ _)

/-- A decided read (07 R135 to R139). -/
theorem applyRead_sameAmounts (s : State) (lane : Lane) (x : ReadEffect) :
    sameAmounts s.roster (s.applyRead lane x).roster := by
  unfold State.applyRead
  split
  · exact sameAmounts_refl _
  · exact reportConflict_sameAmounts _ _
  · exact movePresence_sameAmounts _ _ _ _ _
  · rw [leaveMissing_roster]; exact movePresence_sameAmounts _ _ _ _ _

/-- A read taken (06 R123). -/
theorem takeRead_sameAmounts (s : State) (lane : Lane) (x : LaneRead) :
    sameAmounts s.roster (s.takeRead lane x).roster := by
  unfold State.takeRead
  repeat' split
  · exact sameAmounts_refl _
  · exact sameAmounts_refl _
  · exact applyRead_sameAmounts _ _ _

/-- A complete message (06 R118). -/
theorem completeMessage_sameAmounts (s : State) (lane : Lane) (kind : Byte) (card : BitVec 32)
    (gen direction seq : Byte) (crc : BitVec 16) :
    sameAmounts s.roster (s.completeMessage lane kind card gen direction seq crc).roster := by
  unfold State.completeMessage State.validRead
  repeat' split
  all_goals first
    | exact sameAmounts_refl _
    | exact takeRead_sameAmounts (s.modLane lane (fun x => { x with receiver := .idle })) _ _

/-- A read message, a byte on a lane and an end of transmission (chapter 6). -/
theorem readMessage_sameAmounts (s : State) (lane : Lane) (kind : Byte) (card : BitVec 32) (gen direction seq : Byte)
    (crc : BitVec 16) : sameAmounts s.roster (s.readMessage lane kind card gen direction seq crc).roster := by
  unfold State.readMessage
  split
  · exact sameAmounts_refl _
  · exact completeMessage_sameAmounts _ _ _ _ _ _ _ _

/-- A byte on a lane (06 R117). -/
theorem laneByte_sameAmounts (s : State) (lane : Lane) (b : Byte) :
    sameAmounts s.roster (s.laneByte lane b).roster := by
  unfold State.laneByte State.takeByte
  repeat' split
  all_goals first | exact sameAmounts_refl _ | exact completeMessage_sameAmounts _ _ _ _ _ _ _ _

/-- An end of transmission (06 R122). -/
theorem endOfTransmission_sameAmounts (s : State) (lane : Lane) :
    sameAmounts s.roster (s.endOfTransmission lane).roster := by
  unfold State.endOfTransmission
  repeat' split
  all_goals first
    | exact sameAmounts_refl _
    | exact takeRead_sameAmounts (s.modLane lane (fun x => { x with verdicts := _, holding := none })) _ _

/-- Cardholders closed keep their amounts (01 R25), and those named are CLOSED. -/
theorem closeHolder_sameAmounts (s : State) (holder : Nat) :
    sameAmounts s.roster (s.closeHolder holder).roster := by
  unfold State.closeHolder
  split
  · exact sameAmounts_refl _
  · rename_i c _
    refine sameAmounts_trans
      (unpairs_sameAmounts (fun t k => t.unpair holder k) (fun _ _ => unpair_sameAmounts _ _ _) c.cabins s) ?_
    exact sameAmounts_modify _ _ _ (fun _ => ⟨rfl, rfl, rfl, rfl, fun _ => rfl⟩)

/-- A cardholder closed is CLOSED (01 R25). -/
theorem closeHolder_closed (s : State) (holder : Nat) {c : Cardholder}
    (h : (s.closeHolder holder).roster.fetch holder = some c) : c.state = .closed := by
  unfold State.closeHolder at h
  split at h
  · rename_i hn; rw [hn] at h; cases h
  · dsimp only at h
    rw [Table.fetch_modify, if_pos rfl] at h
    cases hf : Table.fetch _ _ with
    | none => rw [hf] at h; cases h
    | some d => rw [hf] at h; cases h; rfl

/-- The cardholders of a list closed keep their amounts (01 R25). -/
theorem closeHolders_sameAmounts (s : State) (l : List Nat) : sameAmounts s.roster (s.closeHolders l).roster :=
  unpairs_sameAmounts State.closeHolder closeHolder_sameAmounts l s

/-- Every cardholder of the list closed is CLOSED. -/
theorem closeHolders_closed (l : List Nat) : ∀ (s : State) (i : Nat) (c : Cardholder), i ∈ l →
    (s.closeHolders l).roster.fetch i = some c → c.state = .closed := by
  induction l with
  | nil => intro s i c h; cases h
  | cons x xs ih =>
    intro s i c hi hc
    rw [List.mem_cons] at hi
    by_cases hx : i ∈ xs
    · exact ih (s.closeHolder x) i c hx hc
    · have hix : i = x := by rcases hi with h | h; exact h; exact absurd h hx
      subst hix
      obtain ⟨d, hd, -, -, -, -, hcl⟩ := closeHolders_sameAmounts (s.closeHolder i) xs i c hc
      exact hcl (closeHolder_closed s i hd)

/-! ## The amounts kept -/

/-- Every account of a table stands in another with its serial, and with its list or a longer one. -/
def keepsLists (t t' : Table Account) : Prop :=
  ∀ i a, t.fetch i = some a → ∃ a', t'.fetch i = some a' ∧ a'.serial = a.serial ∧ ∀ h ∈ a.holders, h ∈ a'.holders

/-- No change. -/
theorem keepsLists_refl (t : Table Account) : keepsLists t t := fun _ a h => ⟨a, h, rfl, fun _ => id⟩

/-- One account rewritten with its serial and its list. -/
theorem keepsLists_store {t : Table Account} {k : Nat} {a x : Account} (ha : t.fetch k = some a)
    (h : x.serial = a.serial ∧ ∀ i ∈ a.holders, i ∈ x.holders) : keepsLists t (t.store k x) := by
  intro i b hb
  by_cases hi : i = k
  · rw [hi] at hb; rw [ha] at hb; cases hb
    exact ⟨x, by rw [hi, Table.fetch_store_same], h⟩
  · exact ⟨b, by rw [Table.fetch_store_ne _ _ hi]; exact hb, rfl, fun _ => id⟩

/-- What the range of a cardholder's amounts says. -/
theorem spendInRange_iff {c : Cardholder} {d : Nat} : c.spendInRange d = true ↔
    c.spentDay ≤ d ∧ c.spent ≤ 50000000 ∧ c.spentToday d + c.held ≤ 50000000 := by
  simp [Cardholder.spendInRange, and_assoc]

/-- The same with another held sum. -/
theorem spendInRange_held {c : Cardholder} {v d : Nat} : ({ c with held := v } : Cardholder).spendInRange d = true ↔
    c.spentDay ≤ d ∧ c.spent ≤ 50000000 ∧ c.spentToday d + v ≤ 50000000 := spendInRange_iff

/-- A step after which every amount is in range, no account is lost and no cardholder gains another account keeps the
law of the amounts. -/
theorem amountsOk_of {s t : State} (h : s.amountsOk)
    (ha : ∀ i a, t.accounts.fetch i = some a → a.inRange = true)
    (hc : ∀ i c, t.roster.fetch i = some c → c.spendInRange t.shipDay = true)
    (hl : keepsLists s.accounts t.accounts)
    (hr : ∀ i c', t.roster.fetch i = some c' → ∃ c, s.roster.fetch i = some c ∧ c'.account = c.account ∧
      (c.state = .closed → c'.state = .closed)) : t.amountsOk := by
  refine ⟨ha, fun i c' h' => ⟨hc i c' h', fun hs r hacc => ?_⟩⟩
  obtain ⟨c, h1, h2, h3⟩ := hr i c' h'
  obtain ⟨a, h4, h5, h6⟩ := (h.2 i c h1).2 (fun q => hs (h3 q)) r (h2 ▸ hacc)
  obtain ⟨a', h7, h8, h9⟩ := hl _ _ h4
  exact ⟨a', h7, h8.trans h5, h9 _ h6⟩

/-- Steps that leave accounts and the ship day, and the amounts of the cardholders, keep it. -/
theorem amountsOk_roster {s t : State} (h : s.amountsOk) (ha : t.accounts = s.accounts) (hd : t.shipDay = s.shipDay)
    (hr : sameAmounts s.roster t.roster) : t.amountsOk := by
  refine amountsOk_of h (by rw [ha]; exact h.1) (fun i c hc => ?_) (by rw [ha]; exact keepsLists_refl _) (fun i c hc => ?_)
  · obtain ⟨d, h1, h2, h3, h4, -, -⟩ := hr i c hc
    have := (h.2 i d h1).1
    have hs : c.spentToday s.shipDay = d.spentToday s.shipDay := by unfold Cardholder.spentToday; rw [h2, h3]
    rw [hd]
    rw [spendInRange_iff] at this ⊢
    rw [hs, h2, h3, h4]
    exact this
  · obtain ⟨d, h1, -, -, -, h5, h6⟩ := hr i c hc
    exact ⟨d, h1, h5, h6⟩

/-- One account rewritten in place, in range, with its serial and its list. -/
theorem amountsOk_account {s t : State} {k : Nat} {a x : Account} (h : s.amountsOk) (hf : s.accounts.fetch k = some a)
    (ha : t.accounts = s.accounts.store k x) (hx : x.inRange = true) (hs : x.serial = a.serial)
    (hh : ∀ i ∈ a.holders, i ∈ x.holders) (hr : t.roster = s.roster) (hd : t.shipDay = s.shipDay) : t.amountsOk := by
  refine amountsOk_of h (fun i b hb => ?_) (by rw [hr, hd]; exact fun i c hc => (h.2 i c hc).1)
    (by rw [ha]; exact keepsLists_store hf ⟨hs, hh⟩) (by rw [hr]; exact fun i c hc => ⟨c, hc, rfl, id⟩)
  rw [ha] at hb
  by_cases hi : i = k
  · rw [hi, Table.fetch_store_same] at hb; cases hb; exact hx
  · rw [Table.fetch_store_ne _ _ hi] at hb; exact h.1 i b hb

/-- The ship day does not fall: stamps and sums of former days drop out (01 R4, 08 R159). -/
theorem spendInRange_later {c : Cardholder} {d e : Nat} (h : c.spendInRange d = true) (hde : d ≤ e) :
    c.spendInRange e = true := by
  rw [spendInRange_iff] at h ⊢
  refine ⟨Nat.le_trans h.1 hde, h.2.1, ?_⟩
  have := h.2.2
  unfold Cardholder.spentToday at this ⊢
  split at this <;> split <;> omega

/-- A later ship day keeps it. -/
theorem amountsOk_day {s t : State} (h : s.amountsOk) (ha : t.accounts = s.accounts) (hr : t.roster = s.roster)
    (hd : s.shipDay ≤ t.shipDay) : t.amountsOk := by
  refine amountsOk_of h (by rw [ha]; exact h.1) (fun i c hc => ?_) (by rw [ha]; exact keepsLists_refl _)
    (by rw [hr]; exact fun i c hc => ⟨c, hc, rfl, id⟩)
  rw [hr] at hc
  exact spendInRange_later (h.2 i c hc).1 hd

/-- An advance does not lower the ship day (08 R159). -/
theorem advanceTo_day (s : State) (t : Nat) : s.shipDay ≤ (s.advanceTo t).shipDay := by
  unfold State.advanceTo State.rollover
  dsimp only
  split
  · exact Nat.le_refl _
  · exact Nat.le_add_right _ _

/-- Nor does one second. -/
theorem advance_day (s : State) : s.shipDay ≤ s.advance.shipDay := by
  unfold State.advance
  split
  · exact advanceTo_day s _
  · exact Nat.le_refl _

/-- One second keeps the amounts (08 R151). -/
theorem advance_amountsOk {s : State} (h : s.amountsOk) : s.advance.amountsOk := by
  have hd := advance_day s
  obtain ⟨_, _, _, _, _, _, e⟩ := State.advance_frame s
  rw [e] at hd ⊢
  exact amountsOk_day h rfl rfl hd

/-- An advance keeps the amounts (08 R151, R159). -/
theorem advanceTo_amountsOk {s : State} {t : Nat} (h : s.amountsOk) : (s.advanceTo t).amountsOk := by
  have hd := advanceTo_day s t
  obtain ⟨_, _, _, _, _, _, e⟩ := State.advanceTo_frame s t
  rw [e] at hd ⊢
  exact amountsOk_day h rfl rfl hd

/-- No account and no cardholder. -/
theorem amountsOk_empty {s : State} (ha : s.accounts = []) (hr : s.roster = []) : s.amountsOk := by
  refine ⟨fun i a h => ?_, fun i c h => ?_⟩
  · rw [ha] at h; cases h
  · rw [hr] at h; cases h

/-- What a limit of the ranges says. -/
theorem Account.inRange_iff {a : Account} : a.inRange = true ↔
    a.limit ≤ 50000000 ∧ a.deposit ≤ 99999999 ∧ a.package ≤ 15 ∧ -2000000000 ≤ a.posted ∧
      a.posted + a.held ≤ 2000000000 ∧ (a.held : Int) ≤ 2000000000 ∧ -2000000000 ≤ a.settled ∧ a.settled ≤ 2000000000 := by
  simp [Account.inRange, Machine.inRange, and_assoc]

/-- The effective cap of a tariff in range is at most 50,000,000 (03 R61, R52). -/
theorem effectiveCap_le {t : Tariff} (h : t.inRange = true) (c : Cardholder) : effectiveCap t c ≤ 50000000 := by
  simp only [Tariff.inRange, Bool.and_eq_true, decide_eq_true_eq, Config.capMax] at h
  unfold effectiveCap Tariff.clampCap
  repeat' split
  all_goals omega

/-! ## Holds -/

/-- A handle names a LIVE hold of the table (04 R81). -/
theorem fetch_of_liveHold {s : State} {slot reuse : Nat} {h : Hold} (hl : s.liveHold slot reuse = some h) :
    ∃ x, s.holds.fetch slot = some x ∧ x.live = some h := by
  unfold State.liveHold State.holdSlot at hl
  split at hl
  · cases hf : s.holds.fetch slot with
    | none => rw [hf] at hl; cases hl
    | some x => rw [hf] at hl; exact ⟨x, rfl, hl⟩
  · cases hl

/-- A LIVE hold's amount is within every held figure that counts it (04 R81). -/
theorem heldSum_ge {s : State} {i : Nat} {x : HoldSlot} {h : Hold} {picks : Hold → Bool}
    (hf : s.holds.fetch i = some x) (hl : x.live = some h) (hp : picks h = true) : h.amount ≤ s.heldSum picks := by
  unfold State.heldSum
  refine List.le_sum_of_mem (List.mem_map.mpr ⟨h, List.mem_filter.mpr ⟨List.mem_filterMap.mpr ⟨(i, x), ?_, hl⟩, hp⟩, rfl⟩)
  exact Table.mem_of_fetch hf

/-- An amount added at one place of a list of sums is in the sum of them. -/
theorem sum_indicator (L : List Nat) (k am : Nat) (f : Nat → Nat) (h : k ∈ L) :
    am + (L.map f).sum ≤ (L.map (fun j => if k == j then am + f j else f j)).sum := by
  have base : ∀ M : List Nat, (M.map f).sum ≤ (M.map (fun j => if k == j then am + f j else f j)).sum := by
    intro M
    induction M with
    | nil => simp
    | cons j M ih => simp only [List.map_cons, List.sum_cons]; split <;> omega
  induction L with
  | nil => cases h
  | cons j L ih =>
    simp only [List.map_cons, List.sum_cons]
    rw [List.mem_cons] at h
    by_cases hk : k = j
    · have := base L
      simp only [hk, beq_self_eq_true, if_true] at this ⊢
      omega
    · have := ih (h.resolve_left hk)
      have hb : (k == j) = false := by simpa using hk
      simp only [hb]
      simp only [Bool.false_eq_true, if_false]
      omega

/-- The holds that a check picks, of cardholders of a list, come to no more than those cardholders' held sums. -/
theorem heldSum_le {s : State} {picks : Hold → Bool} {L : List Nat}
    (h : ∀ x ∈ s.holds.filterMap (fun e => e.2.live), picks x = true → x.holder ∈ L) :
    s.heldSum picks ≤ (L.map (fun k => s.heldSum (fun x => x.holder == k))).sum := by
  unfold State.heldSum
  generalize s.holds.filterMap (fun e => e.2.live) = l at h ⊢
  induction l with
  | nil => simp
  | cons x l ih =>
    have h2 := ih (fun y hy => h y (List.mem_cons_of_mem _ hy))
    have e : (fun k => (((x :: l).filter (fun y => y.holder == k)).map (·.amount)).sum) =
        (fun k => if x.holder == k then x.amount + ((l.filter (fun y => y.holder == k)).map (·.amount)).sum
          else ((l.filter (fun y => y.holder == k)).map (·.amount)).sum) := by
      funext k
      simp only [List.filter_cons]
      split <;> simp
    rw [e]
    by_cases hp : picks x = true
    · have := sum_indicator L x.holder x.amount (fun k => ((l.filter (fun y => y.holder == k)).map (·.amount)).sum)
        (h x List.mem_cons_self hp)
      simp only [List.filter_cons, hp, if_true, List.map_cons, List.sum_cons]
      omega
    · simp only [List.filter_cons, hp]
      refine Nat.le_trans h2 ?_
      clear h2 e ih h
      induction L with
      | nil => simp
      | cons j L ih =>
        simp only [List.map_cons, List.sum_cons]
        split <;> omega

/-- The held total of an account is at most the caps of its 8 cardholders (04 R93). -/
theorem held_le {s : State} (hw : s.tablesWf = true) (hf : s.foliosOk) (hh : s.holdsOk) (hm : s.amountsOk) {i : Nat}
    {a : Account} (ha : s.accounts.fetch i = some a) : a.held ≤ 400000000 := by
  obtain ⟨h1, h2, h3⟩ := hh
  have hhw : s.holds.wf Config.holdSlots = true := by
    simp only [State.tablesWf, Bool.and_eq_true] at hw; exact hw.2
  rw [h2 i a ha]
  obtain ⟨-, -, -, hlen, hmem⟩ := hf.2.2.2 i a ha
  refine Nat.le_trans (heldSum_le (L := a.holders) ?_) ?_
  · intro x hx hp
    obtain ⟨⟨k, y⟩, hk, hl⟩ := List.mem_filterMap.mp hx
    obtain ⟨⟨b, hb, hbs, -⟩, c, hc, hca, -, hcs⟩ := h1 k y x (Table.fetch_of_mem (Table.rising_of_wf hhw) hk) hl
    have hp' : x.account = i := by simpa using hp
    obtain ⟨b', hb', -, hin⟩ := (hm.2 _ c hc).2 hcs _ hca
    dsimp only at hb'
    rw [hp', ha] at hb'; cases hb'
    exact hin
  · have : ∀ k ∈ a.holders, s.heldSum (fun x => x.holder == k) ≤ 50000000 := by
      intro k hk
      obtain ⟨c, hc, -⟩ := hmem k hk
      have := (spendInRange_iff.mp (hm.2 k c hc).1).2.2
      rw [← h3 k c hc]; omega
    refine Nat.le_trans (List.sum_le_card_nsmul _ 50000000 (by simpa using this)) ?_
    simp only [List.length_map, smul_eq_mul]
    omega

/-- Both held figures of a hold changed alike, each in its range. -/
theorem moveHeld_amountsOk {s : State} {h : Hold} {f : Nat → Nat} (hm : s.amountsOk)
    (ha : ∀ a, s.accounts.fetch h.account = some a → ({ a with held := f a.held } : Account).inRange = true)
    (hc : ∀ c, s.roster.fetch h.holder = some c →
      ({ c with held := f c.held } : Cardholder).spendInRange s.shipDay = true) : (s.moveHeld h f).amountsOk := by
  refine amountsOk_of hm (fun i b hb => ?_) (fun i c h' => ?_) (fun i a h' => ?_) (fun i c h' => ?_)
  · simp only [State.moveHeld, Table.fetch_modify] at hb
    split at hb
    · cases hx : s.accounts.fetch i with
      | none => rw [hx] at hb; cases hb
      | some a => rw [hx] at hb; cases hb; subst_vars; exact ha a hx
    · exact hm.1 i b hb
  · simp only [State.moveHeld, Table.fetch_modify] at h' ⊢
    split at h'
    · cases hx : s.roster.fetch i with
      | none => rw [hx] at h'; cases h'
      | some a => rw [hx] at h'; cases h'; subst_vars; exact hc a hx
    · exact (hm.2 i c h').1
  · simp only [State.moveHeld, Table.fetch_modify, h']
    split
    · exact ⟨_, rfl, rfl, fun _ => id⟩
    · exact ⟨_, rfl, rfl, fun _ => id⟩
  · simp only [State.moveHeld, Table.fetch_modify] at h'
    split at h'
    · cases hx : s.roster.fetch i with
      | none => rw [hx] at h'; cases h'
      | some a => rw [hx] at h'; cases h'; exact ⟨a, rfl, rfl, id⟩
    · exact ⟨c, h', rfl, id⟩

/-- The hold table is no amount. -/
theorem holds_amountsOk {s : State} (l : Table HoldSlot) (h : s.amountsOk) : ({ s with holds := l } : State).amountsOk := h

/-- The end of a hold keeps the amounts (04 R86). -/
theorem endHold_amountsOk {s : State} (slot : Nat) (h : Hold) (hm : s.amountsOk) : (s.endHold slot h).amountsOk := by
  unfold State.endHold
  refine moveHeld_amountsOk (holds_amountsOk _ hm) (fun a ha => ?_) (fun c hc => ?_)
  · have := Account.inRange_iff.mp (hm.1 _ a ha)
    rw [Account.inRange_iff]
    dsimp only
    omega
  · have := spendInRange_iff.mp (hm.2 _ c hc).1
    exact spendInRange_held.mpr ⟨this.1, this.2.1, show c.spentToday s.shipDay + (c.held - h.amount) ≤ 50000000 by omega⟩

/-- HOLD OPEN keeps the amounts (04 R82, R83, R93). -/
theorem serveHoldOpen_amountsOk (p : Port) (card : BitVec 32) (gen : Byte) (outlet : BitVec 16) (cls : Byte)
    (gross lifetime : BitVec 32) {s : State} (hw : s.tablesWf = true) (hf : s.foliosOk) (hh : s.holdsOk)
    (hset : s.settingsOk = true) (hm : s.amountsOk) :
    (serveHoldOpen p card gen outlet cls gross lifetime s).1.amountsOk := by
  have hdecl : ∀ r, (s.declineEffect card.toNat r).amountsOk := by
    intro r
    have hr := declineEffect_sameAmounts s card.toNat r
    obtain ⟨_, _, e⟩ := State.declineEffect_frame s card.toNat r
    rw [e] at hr ⊢
    exact amountsOk_roster hm rfl rfl hr
  unfold serveHoldOpen
  split
  · exact hm
  split
  · exact hm
  split
  · exact hdecl _
  rename_i x hx
  dsimp only
  split
  · exact hdecl _
  rename_i hs
  obtain ⟨q1, q2, q3, q4, q5, q6, q7⟩ := checkCard_ok hx
  obtain ⟨r1, r2⟩ := checkShare_none hs
  have hroster : s.roster.wf Config.cardholderSlots = true := by
    simp only [State.tablesWf, Bool.and_eq_true] at hw; exact hw.1.1.1
  have hcf := Table.fetch_of_search hroster q1
  have htar : s.tariff.inRange = true := by
    simp only [State.settingsOk, Bool.and_eq_true] at hset; exact hset.1.1.1.2
  have hcap := effectiveCap_le htar x.card
  rcases placeHold_cases s p x outlet.toNat cls.toNat lifetime.toNat
    (s.tariff.price cls.toNat x.folio.package gross.toNat 1) with e | ⟨slot, -, e⟩ <;> rw [e]
  · exact hm
  · refine moveHeld_amountsOk (holds_amountsOk _ hm) (fun a ha => ?_) (fun c hc => ?_)
    · have ha' : s.accounts.fetch x.account = some a := ha
      rw [q6] at ha'; cases ha'
      have := Account.inRange_iff.mp (hm.1 _ _ q6)
      have hl := held_le hw hf hh hm q6
      rw [Account.inRange_iff]
      simp only [Account.headroom] at r2
      dsimp only
      omega
    · have hc' : s.roster.fetch x.holder = some c := hc
      rw [hcf] at hc'; cases hc'
      have := spendInRange_iff.mp (hm.2 _ _ hcf).1
      exact spendInRange_held.mpr ⟨this.1, this.2.1,
        show x.card.spentToday s.shipDay + (x.card.held + Priced.total _) ≤ 50000000 by omega⟩

/-! ## Postings -/

/-- An append makes no account. -/
theorem post_none {s : State} {k slot : Nat} {e : Entry} (h : s.accounts.fetch k = none) :
    (s.post slot e).accounts.fetch k = none := by
  unfold State.post
  cases hs : s.accounts.fetch slot with
  | none => exact h
  | some b =>
    have hk : k ≠ slot := by rintro rfl; rw [h] at hs; cases hs
    simp [Table.fetch_store_ne _ _ hk, h]

/-- An append leaves the roster and the ship day. -/
theorem post_roster (s : State) (slot : Nat) (e : Entry) :
    (s.post slot e).roster = s.roster ∧ (s.post slot e).shipDay = s.shipDay := by
  obtain ⟨_, _, _, h⟩ := State.post_frame s slot e
  rw [h]; exact ⟨rfl, rfl⟩

/-- A charge makes no account and no cardholder. -/
theorem postShares_none (p : Port) (outlet cls : Nat) (pr : Priced) (first : Nat) :
    ∀ (shares : List Share) (i : Nat) (s : State) (k : Nat),
    (s.accounts.fetch k = none → (s.postShares p outlet cls pr first shares i).1.accounts.fetch k = none) ∧
    (s.roster.fetch k = none → (s.postShares p outlet cls pr first shares i).1.roster.fetch k = none) := by
  intro shares
  induction shares with
  | nil => intro i s k; exact ⟨id, id⟩
  | cons y rest ih =>
    intro i s k
    obtain ⟨h1, h2⟩ := ih (i + 1) ((s.post y.account (shareEntry p outlet cls pr first i y)).spendAt y.holder y.amount) k
    refine ⟨fun h => h1 (post_none h), fun h => h2 ?_⟩
    simp only [State.spendAt, (post_roster _ _ _).1, Table.fetch_modify, h]
    split <;> rfl

/-- An append in range keeps the amounts (04 R72, R93). -/
theorem post_amountsOk {s : State} {slot : Nat} {e : Entry} (hm : s.amountsOk)
    (ha : ∀ a, s.accounts.fetch slot = some a → ({ a with posted := a.posted + e.signed } : Account).inRange = true) :
    (s.post slot e).amountsOk := by
  obtain ⟨hr, hd⟩ := post_roster s slot e
  refine amountsOk_of hm (fun i b hb => ?_) (by rw [hr, hd]; exact fun i c hc => (hm.2 i c hc).1) (fun i a h => ?_)
    (by rw [hr]; exact fun i c hc => ⟨c, hc, rfl, id⟩)
  · cases h : s.accounts.fetch i with
    | none => rw [post_none h] at hb; cases hb
    | some a =>
      obtain ⟨f, l, n, c, h'⟩ := post_account (slot := slot) (e := e) h
      rw [h'] at hb; cases hb
      by_cases hi : i = slot
      · subst hi; simpa [Account.inRange] using ha a h
      · simpa [Account.inRange, hi] using hm.1 i a h
  · obtain ⟨f, l, n, c, h'⟩ := post_account (slot := slot) (e := e) h
    exact ⟨_, h', rfl, fun _ => id⟩

/-- A spending in range keeps the amounts (01 R4). -/
theorem spendAt_amountsOk {s : State} {holder amount : Nat} (hm : s.amountsOk)
    (hc : ∀ c, s.roster.fetch holder = some c → c.spentToday s.shipDay + c.held + amount ≤ 50000000) :
    (s.spendAt holder amount).amountsOk := by
  refine amountsOk_of hm hm.1 (fun i c h => ?_) (keepsLists_refl _) (fun i c h => ?_)
  · simp only [State.spendAt, Table.fetch_modify] at h ⊢
    split at h
    · cases hx : s.roster.fetch i with
      | none => rw [hx] at h; cases h
      | some d =>
        rw [hx] at h; cases h; subst_vars
        have := hc d hx
        have hd := spendInRange_iff.mp (hm.2 _ d hx).1
        rw [spendInRange_iff]
        simp only [Cardholder.spend]
        have e : ∀ v, ({ d with spent := v, spentDay := s.shipDay } : Cardholder).spentToday s.shipDay = v := by
          intro v; simp [Cardholder.spentToday]
        rw [e]; omega
    · exact (hm.2 i c h).1
  · simp only [State.spendAt, Table.fetch_modify] at h
    split at h
    · cases hx : s.roster.fetch i with
      | none => rw [hx] at h; cases h
      | some d => rw [hx] at h; cases h; exact ⟨d, rfl, rfl, id⟩
    · exact ⟨c, h, rfl, id⟩

/-- CHARGE keeps the amounts (04 R77, R79, R93). -/
theorem serveCharge_amountsOk (p : Port) (outlet : BitVec 16) (cls : Byte) (unit : BitVec 32) (qty : Byte)
    (cards : List Presentation) {s : State} (hw : s.tablesWf = true) (hset : s.settingsOk = true) (hm : s.amountsOk) :
    (serveCharge p outlet cls unit qty cards s).1.amountsOk := by
  by_cases hb : chargeBadField outlet.toNat cls.toNat cards = true
  · unfold serveCharge; rw [if_pos hb]; exact hm
  rcases serveCharge_cases p outlet cls unit qty cards s with
    e | ⟨card, r, e⟩ | ⟨why, -, e⟩ | ⟨shares, pr, ha, -, e⟩ <;> rw [e]
  · exact hm
  · have hr := declineEffect_sameAmounts s card r
    obtain ⟨_, _, e⟩ := State.declineEffect_frame s card r
    rw [e] at hr ⊢
    exact amountsOk_roster hm rfl rfl hr
  · exact hm
  · obtain ⟨new, h1, h2, h3⟩ := authorize_room _ _ _ _ _ _ _ _ _ _ ha
    rw [List.nil_append] at h1; subst h1
    have hroster : s.roster.wf Config.cardholderSlots = true := by
      simp only [State.tablesWf, Bool.and_eq_true] at hw; exact hw.1.1.1
    have htar : s.tariff.inRange = true := by
      simp only [State.settingsOk, Bool.and_eq_true] at hset; exact hset.1.1.1.2
    have hn : (shares.map (·.holder)).Nodup := by
      rw [h2]; refine holders_nodup hroster cards ?_
      simp [chargeBadField] at hb; exact hb.2
    have hd : (s.postShares p outlet.toNat cls.toNat pr s.nextSeq shares 1).1.shipDay = s.shipDay := by
      obtain ⟨_, _, _, _, e⟩ := State.postShares_frame s p outlet.toNat cls.toNat pr s.nextSeq shares 1
      rw [e]
    refine amountsOk_of hm (fun i b hb => ?_) (fun i c hc => ?_) (fun i a h => ?_) (fun i c hc => ?_)
    · cases h : s.accounts.fetch i with
      | none => rw [(postShares_none _ _ _ _ _ _ _ _ _).1 h] at hb; cases hb
      | some a =>
        obtain ⟨f, l, n, c, h'⟩ := postShares_account p outlet.toNat cls.toNat pr s.nextSeq shares 1 s i a h
        rw [h'] at hb; cases hb
        have ha := Account.inRange_iff.mp (hm.1 i a h)
        rw [Account.inRange_iff]
        dsimp only
        by_cases hex : ∃ y ∈ shares, y.account = i
        · obtain ⟨y, hy, rfl⟩ := hex
          obtain ⟨_, _, a', _, q, q2, _⟩ := h3 y hy
          rw [h] at q; cases q
          simp only [Account.headroom] at q2
          omega
        · have : passedOn shares i = 0 := by
            have hnil : shares.filter (fun x => x.account == i) = [] := by
              rw [List.filter_eq_nil_iff]; intro y hy; simp; exact fun e => hex ⟨y, hy, e⟩
            simp [passedOn, hnil]
          rw [this]; omega
    · cases h : s.roster.fetch i with
      | none => rw [(postShares_none _ _ _ _ _ _ _ _ _).2 h] at hc; cases hc
      | some d =>
        obtain ⟨c', h', e1, e2, e3⟩ := postShares_holder p outlet.toNat cls.toNat pr s.nextSeq shares 1 s i d h
        rw [h'] at hc; cases hc
        rw [hd]
        have hdd := spendInRange_iff.mp (hm.2 i d h).1
        rcases e3 with rfl | e3
        · exact (hm.2 i _ h).1
        · have hs : c.spentToday s.shipDay = c.spent := by simp [Cardholder.spentToday, e3]
          have hh : c.held = d.held := by rw [e1]
          have : c.spent + c.held ≤ 50000000 := by
            rw [← hs, e2, hh]
            by_cases hex : ∃ y ∈ shares, y.holder = i
            · obtain ⟨y, hy, rfl⟩ := hex
              rw [takenFrom_nodup shares y hn hy]
              obtain ⟨_, d', _, q, -, -, q2⟩ := h3 y hy
              have q' := Table.fetch_of_search hroster q
              rw [h] at q'; cases q'
              have := effectiveCap_le htar d
              omega
            · have : takenFrom shares i = 0 := by
                have hnil : shares.filter (fun x => x.holder == i) = [] := by
                  rw [List.filter_eq_nil_iff]; intro y hy; simp; exact fun e => hex ⟨y, hy, e⟩
                simp [takenFrom, hnil]
              rw [this]; omega
          rw [spendInRange_iff, hs]
          omega
    · obtain ⟨f, l, n, c, h'⟩ := postShares_account p outlet.toNat cls.toNat pr s.nextSeq shares 1 s i a h
      exact ⟨_, h', rfl, fun _ => id⟩
    · cases h : s.roster.fetch i with
      | none => rw [(postShares_none _ _ _ _ _ _ _ _ _).2 h] at hc; cases hc
      | some d =>
        obtain ⟨c', h', e1, -, -⟩ := postShares_holder p outlet.toNat cls.toNat pr s.nextSeq shares 1 s i d h
        rw [h'] at hc; cases hc
        exact ⟨d, rfl, by rw [e1], fun q => by rw [e1]; exact q⟩

/-- HOLD COMPLETE keeps the amounts: it does not raise posted + held, nor spent today + held sum (04 R85, R93). -/
theorem serveHoldComplete_amountsOk (p : Port) (slot reuse : Byte) (gross : BitVec 32) {s : State} (hh : s.holdsOk)
    (hm : s.amountsOk) : (serveHoldComplete p slot reuse gross s).1.amountsOk := by
  unfold serveHoldComplete
  split
  · exact hm
  split
  · exact hm
  rename_i h hl
  split
  · exact hm
  dsimp only
  split
  · exact hm
  rename_i hle
  split
  · exact hm
  obtain ⟨x, hx, hxl⟩ := fetch_of_liveHold hl
  obtain ⟨⟨a, ha, -, -⟩, c, hc, -, -, -⟩ := hh.1 _ x h hx hxl
  have h1 : h.amount ≤ a.held := by rw [hh.2.1 _ a ha]; exact heldSum_ge hx hxl (by simp)
  have h2 : h.amount ≤ c.held := by rw [hh.2.2 _ c hc]; exact heldSum_ge hx hxl (by simp)
  have he := endHold_amountsOk slot.toNat h hm
  refine spendAt_amountsOk (post_amountsOk he (fun b hb => ?_)) (fun d hd => ?_)
  · simp only [State.endHold, State.moveHeld, Table.fetch_modify, ha, if_true, Option.map_some, Option.some.injEq] at hb
    subst hb
    have := Account.inRange_iff.mp (hm.1 _ a ha)
    rw [Account.inRange_iff]
    simp only [completionEntry, Entry.draft, Entry.signed]
    omega
  · rw [(post_roster _ _ _).1] at hd
    rw [(post_roster _ _ _).2]
    simp only [State.endHold, State.moveHeld, Table.fetch_modify, hc, if_true, Option.map_some, Option.some.injEq] at hd
    subst hd
    have := spendInRange_iff.mp (hm.2 _ c hc).1
    have e : ({ c with held := c.held - h.amount } : Cardholder).spentToday s.shipDay = c.spentToday s.shipDay := rfl
    show ({ c with held := c.held - h.amount } : Cardholder).spentToday s.shipDay + (c.held - h.amount) + _ ≤ 50000000
    rw [e]
    omega

/-- ADJUST keeps the amounts (04 R92). -/
theorem serveAdjust_amountsOk (folio : BitVec 32) (kind : Byte) (amount : BitVec 32) {s : State}
    (hw : s.tablesWf = true) (hm : s.amountsOk) : (serveAdjust folio kind amount s).1.amountsOk := by
  rcases serveAdjust_cases folio kind amount s with e | ⟨why, -, e⟩ | ⟨k, slot, a, -, hf, -, hr, -, e⟩ <;> rw [e]
  · exact hm
  · exact hm
  · have haw : s.accounts.wf Config.accountSlots = true := by
      simp only [State.tablesWf, Bool.and_eq_true] at hw; exact hw.1.1.2
    have ha := Table.fetch_of_search haw hf
    refine post_amountsOk hm (fun b hb => ?_)
    rw [ha] at hb; cases hb
    have := Account.inRange_iff.mp (hm.1 _ a ha)
    rw [Account.inRange_iff]
    cases k <;> simp [adjustOutOfRange, Config.totalMax, Config.totalMin] at hr <;>
      simp only [Entry.draft, Entry.signed] <;> omega

/-! ## Voids and settlement -/

/-- A voided group keeps the amounts (04 R89, R90, R93). -/
theorem voidAll_amountsOk {s : State} {e : Entry} {g : List Entry} (hw : s.tablesWf = true)
    (hg : s.voidGroup e = .ok g) (hm : s.amountsOk) : (s.voidAll g).amountsOk := by
  have haw : s.accounts.wf Config.accountSlots = true := by
    simp only [State.tablesWf, Bool.and_eq_true] at hw; exact hw.1.1.2
  have hlow : ∀ d ∈ g, ∀ i a, s.findSerial d.serial = some (i, a) → -2000000000 ≤ a.posted - groupAmount g d.serial := by
    unfold State.voidGroup at hg
    repeat' split at hg
    all_goals try (cases hg; done)
    rename_i hn
    cases hg
    intro d hd i a h
    by_contra hc
    refine hn (List.any_eq_true.mpr ⟨d, hd, ?_⟩)
    simp only [State.voidTooLow, h, decide_eq_true_eq, Config.totalMin]; omega
  have hd : (s.voidAll g).shipDay = s.shipDay := by
    obtain ⟨_, _, _, e⟩ := State.voidAll_frame s g; rw [e]
  refine amountsOk_of hm (fun i b hb => ?_) (fun i c hc => ?_) (fun i a h => ?_) (fun i c hc => ?_)
  · rw [voidAll_accounts] at hb
    cases h : s.accounts.fetch i with
    | none => rw [h] at hb; cases hb
    | some a =>
      rw [h] at hb; cases hb
      have ha := Account.inRange_iff.mp (hm.1 i a h)
      rw [Account.inRange_iff]
      dsimp only
      by_cases hex : ∃ d ∈ g, (s.findSerial d.serial).map (·.1) = some i
      · obtain ⟨d, hd1, hd2⟩ := hex
        cases hs : s.findSerial d.serial with
        | none => rw [hs] at hd2; cases hd2
        | some v =>
          obtain ⟨j, b⟩ := v
          rw [hs] at hd2; simp at hd2; subst hd2
          have hb := Table.fetch_of_search haw hs
          rw [h] at hb; cases hb
          have hp : a.serial = d.serial := by simpa using Table.search_pred hs
          have := hlow d hd1 _ _ hs
          have he : (g.filter (fun d => (s.findSerial d.serial).map (·.1) == some j)) =
              g.filter (fun x => x.serial == d.serial) := by
            refine List.filter_congr (fun x hx => ?_)
            by_cases hxd : x.serial = d.serial
            · simp [hxd, hs]
            · have : (s.findSerial x.serial).map (·.1) ≠ some j := by
                intro hq
                cases hx' : s.findSerial x.serial with
                | none => rw [hx'] at hq; cases hq
                | some w =>
                  obtain ⟨j', b'⟩ := w
                  rw [hx'] at hq; simp at hq; subst hq
                  have h2 := Table.fetch_of_search haw hx'
                  rw [h] at h2; cases h2
                  have : a.serial = x.serial := by simpa using Table.search_pred hx'
                  exact hxd (this.symm.trans hp)
              simp [this, hxd]
          rw [he]
          unfold groupAmount at this
          omega
      · have hnil : (g.filter (fun d => (s.findSerial d.serial).map (·.1) == some i)) = [] := by
          rw [List.filter_eq_nil_iff]; intro y hy; simp only [beq_iff_eq]; exact fun e => hex ⟨y, hy, e⟩
        rw [hnil]; simp; omega
  · rw [voidAll_roster] at hc
    rw [hd]
    cases h : s.roster.fetch i with
    | none => rw [h] at hc; cases hc
    | some d =>
      rw [h] at hc; cases hc
      have hdd := spendInRange_iff.mp (hm.2 i d h).1
      rw [spendInRange_iff]
      unfold Cardholder.spentToday at hdd ⊢
      dsimp only
      split at hdd <;> rename_i hq
      · rw [if_pos hq]; omega
      · rw [if_neg hq]; omega
  · have h' := voidAll_accounts s g i
    rw [h, Option.map_some] at h'
    exact ⟨_, h', rfl, fun _ => id⟩
  · rw [voidAll_roster] at hc
    cases h : s.roster.fetch i with
    | none => rw [h] at hc; cases hc
    | some d => rw [h] at hc; cases hc; exact ⟨d, rfl, rfl, id⟩

/-- A walk keeps an account's totals in range: it moves posted and settled alone, both within the range (05 R100). -/
theorem walk_inRange : ∀ (fuel : Nat) (log : List Entry) (a : Account) (passed : Nat), a.held = 0 → a.inRange = true →
    (walk log a passed fuel).account.inRange = true ∧ (walk log a passed fuel).account.serial = a.serial ∧
      (walk log a passed fuel).account.holders = a.holders := by
  intro fuel
  induction fuel with
  | zero => intro log a passed _ h; exact ⟨h, rfl, rfl⟩
  | succ n ih =>
    intro log a passed h0 h
    simp only [walk]
    repeat' split
    · exact ⟨h, rfl, rfl⟩
    · exact ih _ _ _ h0 h
    · rename_i e _ _ hr
      refine ih _ { a.settling e with cursor := e.link } _ h0 ?_
      simp only [Bool.and_eq_true, Machine.inRange, decide_eq_true_eq, Config.totalMin, Config.totalMax] at hr
      rw [Account.inRange_iff] at h ⊢
      simp only [Account.settling]
      omega
    · exact ⟨h, rfl, rfl⟩

end Sys2Proof.Machine
end

