-- ==== Sys2Proof/Laws/Ports.lean ====
section
/-! SUPPORT. Laws/Ports.lean: everything the request buffer and the response slot can do (09 R166, R167), and
how far a notice, a window or a request's rule may reach into a port. -/

namespace Sys2Proof.Machine

/-! ## Submitting a request -/

/-- A transaction of type byte 3Ch is a WRITE (11 R187). -/
@[simp] theorem State.transaction_write (s : State) (p : Port) (bytes : List Byte) :
    s.transaction p Config.writeType bytes = s.writeFrame p bytes := rfl

/-- A transaction of type byte C3h is a READ (11 R187). -/
@[simp] theorem State.transaction_read (s : State) (p : Port) (bytes : List Byte) :
    s.transaction p Config.readType bytes = s.beginRead p := rfl

/-- A transaction of another type byte is ignored (09 R165). -/
theorem State.transaction_ignored (s : State) (p : Port) (kind : Byte) (bytes : List Byte)
    (hw : kind ≠ Config.writeType) (hr : kind ≠ Config.readType) : s.transaction p kind bytes = s := by
  simp [State.transaction, hw, hr]

/-- A third entry is discarded and sets the overrun flag (09 R166). -/
theorem State.submit_full (s : State) (p : Port) (tag : Byte) (req : Request)
    (h : Config.bufferPlaces ≤ (s.ports.get p).buffer.length) :
    s.submit p tag req = s.modPort p (fun q => { q with overrun := true }) := by
  unfold State.submit
  rw [if_neg (Nat.not_lt.mpr h)]

/-- An entry waits behind an occupied slot (09 R166, R167). -/
theorem State.submit_waits (s : State) (p : Port) (tag : Byte) (req : Request) {r : Response}
    (hb : (s.ports.get p).buffer.length < Config.bufferPlaces) (hs : (s.ports.get p).slot = some r) :
    s.submit p tag req = s.modPort p (fun q => { q with buffer := q.buffer ++ [{ tag := tag, req := req }] }) := by
  unfold State.submit
  rw [if_pos hb]
  simp [State.pump, hs]

/-- An entry that joins a ready port is executed in the same step (09 R167). -/
theorem State.submit_ready (s : State) (p : Port) (tag : Byte) (req : Request) (h : s.ready p) :
    s.submit p tag req = s.execute p { tag := tag, req := req } := by
  have hb : (s.ports.get p).buffer.length < Config.bufferPlaces := by simp [h.2, Config.bufferPlaces]
  unfold State.submit
  rw [if_pos hb]
  simp only [State.pump, State.modPort_get, h.1, h.2, List.nil_append, State.modPort_modPort]
  rw [State.modPort_self]
  rw [← h.2]

/-- What an entry that joins finds: the oldest entry of the buffer is executed at an empty slot, it waits at
an occupied one, or it is discarded (09 R166, R167). -/
theorem State.submit_cases (s : State) (p : Port) (tag : Byte) (req : Request) :
    (∃ f, s.submit p tag req = s.modPort p f) ∨
      ∃ f e, s.submit p tag req = (s.modPort p f).execute p e := by
  unfold State.submit State.pump
  repeat' split
  · exact .inr ⟨_, _, by rw [State.modPort_modPort]⟩
  · exact .inl ⟨_, rfl⟩
  · exact .inl ⟨_, rfl⟩
  · exact .inl ⟨_, rfl⟩

/-- An entry that is neither a bad frame nor an unknown code, from a port that may issue it, meets its own
rule (09 R167). -/
theorem State.answer_serve (s : State) (p : Port) (req : Request) (hm : mayIssue (s.ports.get p).profile req = true)
    (hb : req ≠ .badFrame) (hu : ∀ c, req ≠ .unknown c) : s.answer p req = serve p req s := by
  unfold State.answer
  split
  · exact absurd rfl hb
  · exact absurd rfl (hu _)
  · rw [if_pos hm]

/-- A request that its port may issue, and that is no window request, is answered by its rule, with the
window closed (09 R167, R177). -/
theorem State.submit_answered (s : State) (p : Port) (tag : Byte) (req : Request) (h : s.ready p)
    (hm : mayIssue (s.ports.get p).profile req = true) (hk : keepsWindow req = false)
    (hu : ∀ c, req ≠ .unknown c) :
    s.submit p tag req = (serve p req s).1.answered p req.code tag (serve p req s).2 := by
  have hb : req ≠ .badFrame := by
    rintro rfl
    cases hk
  rw [State.submit_ready s p tag req h]
  simp only [State.execute, State.effect, hk, State.answer_serve s p req hm hb hu]
  rfl

/-- A request that its port may not issue is answered NOT_PERMITTED (09 R167). -/
theorem State.answer_notPermitted (s : State) (p : Port) (req : Request)
    (hm : mayIssue (s.ports.get p).profile req = false) (hb : req ≠ .badFrame) (hu : ∀ c, req ≠ .unknown c) :
    s.answer p req = (s, Reply.refuse .notPermitted) := by
  unfold State.answer
  split
  · exact absurd rfl hb
  · exact absurd rfl (hu _)
  · rw [hm]
    rfl

/-! ## How far a step reaches into a port -/

/-- A port after a step that did not execute on it or read from it: its profile, buffer, slot, delivery and
overrun flag stand, and notices joined the end of its queue within its places. -/
def PortState.follows (q q' : PortState) : Prop :=
  q'.profile = q.profile ∧ q'.buffer = q.buffer ∧ q'.slot = q.slot ∧ q'.reading = q.reading ∧
    q'.overrun = q.overrun ∧ (∃ l, q'.queue = q.queue ++ l) ∧
    (q.queue.length ≤ Config.queuePlaces → q'.queue.length ≤ Config.queuePlaces)

theorem PortState.follows_refl (q : PortState) : q.follows q :=
  ⟨rfl, rfl, rfl, rfl, rfl, ⟨[], by simp⟩, id⟩

theorem PortState.follows_trans {a b c : PortState} (h : a.follows b) (k : b.follows c) : a.follows c := by
  obtain ⟨h1, h2, h3, h4, h5, ⟨l, h6⟩, h7⟩ := h
  obtain ⟨k1, k2, k3, k4, k5, ⟨m, k6⟩, k7⟩ := k
  exact ⟨k1.trans h1, k2.trans h2, k3.trans h3, k4.trans h4, k5.trans h5,
    ⟨l ++ m, by rw [k6, h6, List.append_assoc]⟩, fun hq => k7 (h7 hq)⟩

/-- Every port follows. -/
def State.portsFollow (s t : State) : Prop := ∀ p, (s.ports.get p).follows (t.ports.get p)

theorem State.portsFollow_refl (s : State) : s.portsFollow s := fun _ => PortState.follows_refl _

theorem State.portsFollow_trans {a b c : State} (h : a.portsFollow b) (k : b.portsFollow c) : a.portsFollow c :=
  fun p => PortState.follows_trans (h p) (k p)

/-- A step that leaves the table of ports leaves every port. -/
theorem State.portsFollow_of_eq {s t : State} (h : t.ports = s.ports) : s.portsFollow t := by
  intro p
  rw [h]
  exact PortState.follows_refl _

/-- A notice joins the queue, is dropped at a full queue, or is masked (09 R171, R172). -/
theorem PortState.enqueue_follows (q : PortState) (n : Notice) : q.follows (q.enqueue n) := by
  unfold PortState.enqueue
  repeat' split
  · refine ⟨rfl, rfl, rfl, rfl, rfl, ⟨[n], rfl⟩, fun _ => ?_⟩
    simp only [List.length_append, List.length_cons, List.length_nil]
    omega
  · exact ⟨rfl, rfl, rfl, rfl, rfl, ⟨[], by simp⟩, id⟩
  · exact PortState.follows_refl q

theorem State.raise_follows (s : State) (g : Profile → Bool) (k : NoticeKind) (x : Option Subject)
    (v : Option Int) : s.portsFollow (s.raise g k x v) := by
  intro p
  simp only [State.raise, Quad.get_map]
  split
  · exact PortState.enqueue_follows _ _
  · exact PortState.follows_refl _

/-- A change of one port that follows makes every port follow. -/
theorem State.modPort_follows (s : State) (p : Port) (f : PortState → PortState)
    (h : (s.ports.get p).follows (f (s.ports.get p))) : s.portsFollow (s.modPort p f) := by
  intro q
  by_cases hq : q = p
  · subst hq
    simpa using h
  · rw [State.modPort_get_ne s f hq]
    exact PortState.follows_refl _

theorem State.raiseTo_follows (s : State) (p : Port) (k : NoticeKind) (x : Option Subject) (v : Option Int) :
    s.portsFollow (s.raiseTo p k x v) :=
  State.modPort_follows s p _ (PortState.enqueue_follows _ _)

theorem State.mapWindows_follows (s : State) (f : Window → Window) : s.portsFollow (s.mapWindows f) := by
  intro p
  simp only [State.mapWindows, Quad.get_map]
  exact ⟨rfl, rfl, rfl, rfl, rfl, ⟨[], by simp⟩, id⟩

theorem State.setWindow_follows (s : State) (p : Port) (w : Window) : s.portsFollow (s.setWindow p w) :=
  State.modPort_follows s p _ ⟨rfl, rfl, rfl, rfl, rfl, ⟨[], by simp⟩, id⟩

theorem State.closeWindow_follows (s : State) (p : Port) : s.portsFollow (s.closeWindow p) :=
  State.modPort_follows s p _ ⟨rfl, rfl, rfl, rfl, rfl, ⟨[], by simp⟩, id⟩

theorem State.reportConflict_follows (s : State) (slot : Nat) : s.portsFollow (s.reportConflict slot) := by
  unfold State.reportConflict
  split
  · exact State.portsFollow_refl s
  · dsimp only
    split
    · exact State.portsFollow_trans
        (State.portsFollow_trans (State.portsFollow_of_eq rfl) (State.raise_follows _ _ _ _ _))
        (State.raise_follows _ _ _ _ _)
    · exact State.portsFollow_trans (State.portsFollow_of_eq rfl) (State.raise_follows _ _ _ _ _)

theorem State.noteOverLimit_follows (s : State) (a : Account) : s.portsFollow (s.noteOverLimit a) := by
  unfold State.noteOverLimit
  split
  · exact State.raise_follows _ _ _ _ _
  · exact State.portsFollow_refl s

theorem State.addEvent_follows (s : State) (slot card : Nat) (r : HistoryResult) :
    s.portsFollow (s.addEvent slot card r) :=
  State.portsFollow_trans (State.portsFollow_of_eq rfl) (State.mapWindows_follows _ _)

theorem State.jamIf_follows (s : State) (o : HistoryResult) (slot number token : Nat) :
    s.portsFollow (s.jamIf o slot number token) := by
  unfold State.jamIf
  split
  · exact State.portsFollow_trans (State.portsFollow_of_eq rfl) (State.raise_follows _ _ _ _ _)
  · exact State.portsFollow_refl s

theorem State.sideReport_follows (s : State) (slot : Nat) (c : Cardholder) (v : AccessVerdict) :
    s.portsFollow (s.sideReport slot c v) := by
  unfold State.sideReport
  split
  · exact State.raise_follows _ _ _ _ _
  · exact State.reportConflict_follows s slot
  · exact State.portsFollow_refl s

theorem State.denialEvent_follows (s : State) (card cabin : Nat) (v : AccessVerdict) :
    s.portsFollow (s.denialEvent card cabin v) := by
  unfold State.denialEvent
  repeat' split
  all_goals first | exact State.portsFollow_refl s | exact State.addEvent_follows _ _ _ _

theorem State.declineEffect_follows (s : State) (card : Nat) (r : Result) :
    s.portsFollow (s.declineEffect card r) := by
  unfold State.declineEffect
  repeat' split
  all_goals first
    | exact State.portsFollow_refl s
    | exact State.raise_follows _ _ _ _ _
    | exact State.reportConflict_follows _ _

theorem State.closeCall_follows (s : State) (n : Nat) : s.portsFollow (s.closeCall n) :=
  State.portsFollow_trans (State.portsFollow_of_eq rfl) (State.raise_follows _ _ _ _ _)

theorem State.allReturned_follows (s : State) : s.portsFollow s.allReturned := by
  unfold State.allReturned
  dsimp only
  split
  · exact State.portsFollow_trans (State.raise_follows _ _ _ _ _) (State.closeCall_follows _ _)
  · exact State.raise_follows _ _ _ _ _

theorem State.leaveMissing_follows (s : State) (slot : Nat) : s.portsFollow (s.leaveMissing slot) := by
  unfold State.leaveMissing
  dsimp only
  repeat' split
  · exact State.portsFollow_trans (State.portsFollow_of_eq rfl) (State.allReturned_follows _)
  · exact State.portsFollow_of_eq rfl
  · exact State.portsFollow_refl s

theorem State.setPresence_follows (s : State) (slot : Nat) (x y : Presence) :
    s.portsFollow (s.setPresence slot x y) := by
  unfold State.setPresence State.followPresence
  repeat' split
  · exact State.portsFollow_refl s
  all_goals first
    | exact State.portsFollow_of_eq rfl
    | exact State.portsFollow_trans (State.portsFollow_of_eq rfl) (State.leaveMissing_follows _ _)

theorem State.applyRead_follows (s : State) (l : Lane) (e : ReadEffect) : s.portsFollow (s.applyRead l e) := by
  unfold State.applyRead
  split
  · exact State.portsFollow_refl s
  · exact State.reportConflict_follows _ _
  · exact State.portsFollow_of_eq rfl
  · exact State.portsFollow_trans (State.portsFollow_of_eq rfl) (State.leaveMissing_follows _ _)

theorem State.advanceTo_follows (s : State) (time : Nat) : s.portsFollow (s.advanceTo time) := by
  unfold State.advanceTo State.rollover
  dsimp only
  split
  · exact State.portsFollow_of_eq rfl
  · exact State.portsFollow_trans (State.portsFollow_of_eq rfl) (State.raise_follows _ _ _ _ _)

/-- Whatever a request's rule does to the ports: notices join queues, windows move, a mask changes; no buffer,
slot, delivery or overrun flag. -/
theorem serve_follows (p : Port) (req : Request) (s : State) : s.portsFollow (serve p req s).1 := by
  cases req <;> simp only [serve]
  case setNoticeMask mask =>
    rcases serveSetNoticeMask_cases p mask s with h | ⟨-, h⟩ <;> rw [h]
    · exact State.portsFollow_refl s
    · exact State.modPort_follows s p _ ⟨rfl, rfl, rfl, rfl, rfl, ⟨[], by simp⟩, id⟩
  case windowOpen collection mode key start =>
    rcases serveWindowOpen_cases p collection mode key start s with h | ⟨w, -, h⟩ <;> rw [h]
    · exact State.closeWindow_follows s p
    · exact State.setWindow_follows s p w
  case windowRead =>
    rcases serveWindowRead_cases p s with h | ⟨w, h⟩ <;> rw [h]
    · exact State.portsFollow_refl s
    · exact State.setWindow_follows s p w
  case windowAct action =>
    rcases serveWindowAct_cases p action s with h | ⟨w, h⟩ | ⟨e, g, w, -, h⟩ <;> rw [h]
    · exact State.portsFollow_refl s
    · exact State.setWindow_follows s p w
    · obtain ⟨r', a', l', hv⟩ := State.voidAll_frame s g
      rw [hv]
      exact State.portsFollow_trans (State.portsFollow_of_eq rfl) (State.setWindow_follows _ _ _)
  case price cls unit qty k card package =>
    apply State.portsFollow_of_eq
    unfold servePrice
    repeat' split
    all_goals rfl
  case charge outlet cls unit qty cards =>
    rcases serveCharge_cases p outlet cls unit qty cards s with h | ⟨card, r, h⟩ | ⟨why, -, h⟩ | ⟨sh, pr, -, -, h⟩ <;>
      rw [h]
    · exact State.portsFollow_refl s
    · exact State.declineEffect_follows _ _ _
    · exact State.raise_follows _ _ _ _ _
    · obtain ⟨r', a', l', q', hp⟩ := State.postShares_frame s p outlet.toNat cls.toNat pr s.nextSeq sh 1
      rw [hp]
      exact State.portsFollow_of_eq rfl
  case holdOpen card gen outlet cls gross lifetime =>
    rcases serveHoldOpen_cases p card gen outlet cls gross lifetime s with h | ⟨r, h⟩ | ⟨x, -, h⟩ <;> rw [h]
    · exact State.portsFollow_refl s
    · exact State.declineEffect_follows _ _ _
    · rcases placeHold_cases s p x outlet.toNat cls.toNat lifetime.toNat
        (s.tariff.price cls.toNat x.folio.package gross.toNat 1) with h | ⟨slot, -, h⟩ <;> rw [h]
      · exact State.portsFollow_refl s
      · exact State.portsFollow_of_eq rfl
  case holdComplete slot reuse gross =>
    rcases serveHoldComplete_cases p slot reuse gross s with h | ⟨why, -, h⟩ | ⟨x, -, -, h⟩ <;> rw [h]
    · exact State.portsFollow_refl s
    · exact State.raise_follows _ _ _ _ _
    · obtain ⟨a', l', q', hp⟩ := State.post_frame (s.endHold slot.toNat x) x.account
        (completionEntry x { slot := slot.toNat, reuse := reuse.toNat } (s.finalPrice x gross.toNat))
      rw [hp]
      exact State.portsFollow_of_eq rfl
  case holdRelease slot reuse =>
    rcases serveHoldRelease_cases p slot reuse s with h | ⟨x, -, -, h⟩ <;> rw [h]
    · exact State.portsFollow_refl s
    · exact State.portsFollow_of_eq rfl
  case void seq outlet =>
    rcases serveVoid_cases p seq outlet s with h | ⟨e, g, -, -, h⟩ <;> rw [h]
    · exact State.portsFollow_refl s
    · obtain ⟨r', a', l', hv⟩ := State.voidAll_frame s g
      rw [hv]
      exact State.portsFollow_of_eq rfl
  case accessQuery card gen cabin =>
    rcases serveAccessQuery_cases p card gen cabin s with
      h | ⟨slot, c, -, ⟨kslot, k, -, -, ⟨-, h⟩ | ⟨-, h⟩⟩ | h⟩ <;> rw [h]
    · exact State.portsFollow_refl s
    · exact State.portsFollow_of_eq rfl
    · exact State.portsFollow_of_eq rfl
    · exact State.portsFollow_trans (State.denialEvent_follows _ _ _ _) (State.sideReport_follows _ _ _ _)
  case lockReport cabin token outcome =>
    rcases serveLockReport_cases cabin token outcome s with h | ⟨result, slot, k, -, -, ⟨u, -, h⟩ | h⟩ <;> rw [h]
    · exact State.portsFollow_refl s
    · exact State.portsFollow_trans
        (State.portsFollow_trans (State.portsFollow_of_eq (t := s.dropUnlock slot) rfl)
          (State.addEvent_follows (s.dropUnlock slot) _ _ _))
        (State.jamIf_follows _ _ _ _ _)
    · exact State.jamIf_follows _ _ _ _ _
  case enrol card kind folio classMask deckMask =>
    rcases serveEnrol_cases card kind folio classMask deckMask s with
      h | ⟨slot, -, -, h | ⟨k, aslot, a, -, -, h⟩⟩ <;> rw [h]
    all_goals exact State.portsFollow_of_eq rfl
  case setLimit folio amount =>
    rcases serveSetLimit_cases folio amount s with h | ⟨slot, a, -, -, h⟩ <;> rw [h]
    · exact State.portsFollow_refl s
    · exact State.portsFollow_trans (State.portsFollow_of_eq rfl) (State.noteOverLimit_follows _ _)
  case setDeposit folio amount =>
    rcases serveSetDeposit_cases folio amount s with h | ⟨slot, a, -, -, h⟩ <;> rw [h]
    · exact State.portsFollow_refl s
    · exact State.portsFollow_trans (State.portsFollow_of_eq rfl) (State.noteOverLimit_follows _ _)
  case adjust folio kind amount =>
    rcases serveAdjust_cases folio kind amount s with h | ⟨why, -, h⟩ | ⟨k, slot, a, -, -, -, -, -, h⟩ <;> rw [h]
    · exact State.portsFollow_refl s
    · exact State.raise_follows _ _ _ _ _
    · obtain ⟨a', l', q', hp⟩ := State.post_frame s slot (Entry.draft k amount.toNat 7 none none none none)
      rw [hp]
      exact State.portsFollow_of_eq rfl
  case settleStep folio =>
    rcases serveSettleStep_cases folio s with h | ⟨slot, a, b, -, -, -, h⟩ <;> rw [h]
    · exact State.portsFollow_refl s
    · exact State.portsFollow_of_eq rfl
  case reopen folio =>
    rcases serveReopen_cases folio s with h | ⟨slot, a, -, -, h⟩ <;> rw [h]
    · exact State.portsFollow_refl s
    · exact State.portsFollow_trans (State.portsFollow_of_eq rfl) (State.noteOverLimit_follows _ _)
  case close folio =>
    rcases serveClose_cases folio s with h | ⟨slot, a, -, -, -, h⟩ <;> rw [h]
    · exact State.portsFollow_refl s
    · obtain ⟨r', k', a', c', hc⟩ := State.closeAccount_frame s slot a
      rw [hc]
      exact State.portsFollow_of_eq rfl
  case takeClosure =>
    rcases serveTakeClosure_cases s with h | ⟨x, rest, -, h⟩ <;> rw [h]
    · exact State.portsFollow_refl s
    · exact State.portsFollow_trans (State.portsFollow_of_eq rfl) (State.mapWindows_follows _ _)
  case undefineCabin cabin =>
    rcases serveUndefineCabin_cases cabin s with h | ⟨slot, k, -, -, h⟩ <;> rw [h]
    · exact State.portsFollow_refl s
    · exact State.portsFollow_trans (State.portsFollow_of_eq rfl) (State.mapWindows_follows _ _)
  case rekeyCabin cabin =>
    rcases serveRekeyCabin_cases cabin s with h | ⟨slot, k, -, h⟩ <;> rw [h]
    · exact State.portsFollow_refl s
    · obtain ⟨r', k', hk⟩ := State.unpairHolders_frame s slot k.grantees
      rw [hk]
      exact State.portsFollow_of_eq rfl
  case setPresence card presence =>
    rcases serveSetPresence_cases card presence s with h | ⟨q, slot, c, x, -, -, -, h⟩ <;> rw [h]
    · exact State.portsFollow_refl s
    · exact State.setPresence_follows _ _ _ _
  case closeCall force =>
    rcases serveCloseCall_cases force s with h | ⟨f, -, -, -, h⟩ <;> rw [h]
    · exact State.portsFollow_refl s
    · exact State.closeCall_follows _ _
  case setTime time =>
    rcases serveSetTime_cases time s with h | ⟨-, -, h⟩ <;> rw [h]
    · exact State.portsFollow_refl s
    · exact State.advanceTo_follows _ _
  case voyageClear =>
    rcases serveVoyageClear_cases s with h | ⟨-, h⟩ <;> rw [h]
    · exact State.portsFollow_refl s
    · intro q
      simp only [Quad.get_map]
      exact ⟨rfl, rfl, rfl, rfl, rfl, ⟨[], by simp⟩, id⟩
  case purge card => rcases servePurge_cases card s with h | ⟨slot, c, -, -, -, h⟩ <;> rw [h] <;> exact State.portsFollow_of_eq rfl
  case reissue card => rcases serveReissue_cases card s with h | ⟨slot, c, -, -, -, h⟩ <;> rw [h] <;> exact State.portsFollow_of_eq rfl
  case suspend card => rcases serveSuspend_cases card s with h | ⟨slot, c, -, -, h⟩ <;> rw [h] <;> exact State.portsFollow_of_eq rfl
  case resume card => rcases serveResume_cases card s with h | ⟨slot, c, -, -, h⟩ <;> rw [h] <;> exact State.portsFollow_of_eq rfl
  case setClassMask card mask => rcases serveSetClassMask_cases card mask s with h | ⟨slot, c, -, -, h⟩ <;> rw [h] <;> exact State.portsFollow_of_eq rfl
  case setDeckMask card mask => rcases serveSetDeckMask_cases card mask s with h | ⟨slot, c, -, -, -, h⟩ <;> rw [h] <;> exact State.portsFollow_of_eq rfl
  case capUp card => rcases serveCapUp_cases card s with h | ⟨slot, c, -, -, -, h⟩ <;> rw [h] <;> exact State.portsFollow_of_eq rfl
  case capDown card => rcases serveCapDown_cases card s with h | ⟨slot, c, -, -, -, h⟩ <;> rw [h] <;> exact State.portsFollow_of_eq rfl
  case setCapOffset card offset => rcases serveSetCapOffset_cases card offset s with h | ⟨slot, c, -, -, h⟩ <;> rw [h] <;> exact State.portsFollow_of_eq rfl
  case openAccount folio limit deposit => rcases serveOpenAccount_cases folio limit deposit s with h | ⟨slot, -, -, -, -, h⟩ <;> rw [h] <;> exact State.portsFollow_of_eq rfl
  case setPackage folio package => rcases serveSetPackage_cases folio package s with h | ⟨slot, a, -, -, h⟩ <;> rw [h] <;> exact State.portsFollow_of_eq rfl
  case setMinorRelease folio value => rcases serveSetMinorRelease_cases folio value s with h | ⟨b, slot, a, -, -, h⟩ <;> rw [h] <;> exact State.portsFollow_of_eq rfl
  case settleBegin folio => rcases serveSettleBegin_cases folio s with h | ⟨slot, a, -, -, -, h⟩ <;> rw [h] <;> exact State.portsFollow_of_eq rfl
  case defineCabin cabin deck => rcases serveDefineCabin_cases cabin deck s with h | ⟨slot, -, -, -, h⟩ <;> rw [h] <;> exact State.portsFollow_of_eq rfl
  case blockCabin cabin => rcases serveBlockCabin_cases cabin s with h | ⟨slot, k, b, -, h⟩ <;> rw [h] <;> exact State.portsFollow_of_eq rfl
  case unblockCabin cabin => rcases serveUnblockCabin_cases cabin s with h | ⟨slot, k, -, h⟩ <;> rw [h] <;> exact State.portsFollow_of_eq rfl
  case privacySet cabin => rcases servePrivacySet_cases cabin s with h | ⟨slot, k, -, -, h⟩ <;> rw [h] <;> exact State.portsFollow_of_eq rfl
  case privacyClear cabin => rcases servePrivacyClear_cases cabin s with h | ⟨slot, k, -, h⟩ <;> rw [h] <;> exact State.portsFollow_of_eq rfl
  case grantCabin card cabin => rcases serveGrantCabin_cases card cabin s with h | ⟨slot, c, kslot, k, -, -, -, -, -, h⟩ <;> rw [h] <;> exact State.portsFollow_of_eq rfl
  case revokeCabin card cabin => rcases serveRevokeCabin_cases card cabin s with h | ⟨slot, c, kslot, k, -, -, -, h⟩ <;> rw [h] <;> exact State.portsFollow_of_eq rfl
  case openCall kind allAboard mode closeTime => rcases serveOpenCall_cases kind allAboard mode closeTime s with h | ⟨r, -, -, h⟩ <;> rw [h] <;> exact State.portsFollow_of_eq rfl
  case laneMode lane mode direction clearFaults => rcases serveLaneMode_cases lane mode direction clearFaults s with h | ⟨l, m, d, c, -, -, -, -, h⟩ <;> rw [h] <;> exact State.portsFollow_of_eq rfl
  case setTariff1 part => rcases serveSetTariff1_cases part s with h | ⟨-, -, h⟩ <;> rw [h] <;> exact State.portsFollow_of_eq rfl
  case setTariff2 rows => rcases serveSetTariff2_cases rows s with h | ⟨t, -, -, h⟩ <;> rw [h] <;> exact State.portsFollow_of_eq rfl
  case loadSettings => rcases serveLoadSettings_cases s with h | ⟨x, -, -, h⟩ <;> rw [h] <;> exact State.portsFollow_of_eq rfl
  case saveSettings => rcases serveSaveSettings_cases p s with h | ⟨-, -, h⟩ <;> rw [h] <;> exact State.portsFollow_of_eq rfl
  case setOptions fields => exact State.portsFollow_of_eq rfl
  case readTime => exact State.portsFollow_of_eq rfl
  case readCardholder card => apply State.portsFollow_of_eq; unfold serveReadCardholder; split <;> rfl
  case readAccount folio => apply State.portsFollow_of_eq; unfold serveReadAccount; split <;> rfl
  case readCabin cabin => apply State.portsFollow_of_eq; unfold serveReadCabin; split <;> rfl
  case readHold slot reuse => apply State.portsFollow_of_eq; unfold serveReadHold; split <;> rfl
  case readEntry seq => apply State.portsFollow_of_eq; unfold serveReadEntry; split <;> rfl
  case readLane lane => apply State.portsFollow_of_eq; unfold serveReadLane; split <;> rfl
  case injectRead lane card gen direction seq =>
    apply State.portsFollow_of_eq
    unfold serveInjectRead
    repeat' split
    all_goals rfl
  all_goals exact State.portsFollow_refl s

end Sys2Proof.Machine
end

