-- ==== Sys2Proof/Laws/Keeps.lean ====
section
/-! SUPPORT. Laws/Keeps.lean: the induction over commands, once: where every request's rule and every event leads
from a property of the records that no port's fields enter to another, every step does; and a property that each of
them keeps is kept by every step. -/

namespace Sys2Proof.Machine

/-- Two properties that port fields do not enter, nor the queue the first: each rule and each event leads from the
first to the second. -/
structure Leads (P Q : State → Prop) : Prop where
  here : ∀ s, P s → Q s
  queue : ∀ s l, P s → P { s with pending := l }
  portBefore : ∀ s p f, P s → P (s.modPort p f)
  port : ∀ s p f, Q s → Q (s.modPort p f)
  timer : ∀ s, P s → Q s.millisecond
  serve : ∀ p req s, P s → Q (serve p req s).1
  startUp : ∀ s straps lost, P s → Q (s.startUp straps lost)
  completeSave : ∀ s, P s → Q s.completeSave
  failSave : ∀ s, P s → Q s.failSave
  readMessage : ∀ s l kind card gen direction seq crc, P s → Q (s.readMessage l kind card gen direction seq crc)
  laneByte : ∀ s l b, P s → Q (s.laneByte l b)
  framingFault : ∀ s l, P s → Q (s.framingFault l)
  gapFault : ∀ s l, P s → Q (s.gapFault l)
  endOfTransmission : ∀ s l, P s → Q (s.endOfTransmission l)
  repeatExpiry : ∀ s l, P s → Q (s.repeatExpiry l)
  takeTick : ∀ s, P s → Q s.takeTick
  loseTick : ∀ s, P s → Q s.loseTick
  takeSecond : ∀ s, P s → Q s.takeSecond
  expireHold : ∀ s (slot : Byte), P s → Q (s.expireHold slot.toNat)
  expireUnlock : ∀ s cabin, P s → Q (s.expireUnlock cabin)
  takeAllAboard : ∀ s, P s → Q s.takeAllAboard
  takeClose : ∀ s, P s → Q s.takeClose

variable {P Q I : State → Prop}

/-- What a request answers leads there (09 R167). -/
theorem Leads.answer (k : Leads P Q) {s : State} (p : Port) (req : Request) (h : P s) : Q (s.answer p req).1 := by
  unfold State.answer
  repeat' split
  all_goals first | exact k.here _ h | exact k.serve _ _ _ h

/-- The execution of an entry leads there. -/
theorem Leads.execute (k : Leads P Q) {s : State} (p : Port) (e : BufEntry) (h : P s) : Q (s.execute p e) := by
  unfold State.execute State.effect State.respond State.closeWindow
  split
  · exact k.port _ _ _ (k.answer p e.req h)
  · exact k.port _ _ _ (k.port _ _ _ (k.answer p e.req h))

/-- A request written leads there, whether it is executed, waits or is discarded. -/
theorem Leads.submit (k : Leads P Q) {s : State} (p : Port) (tag : Byte) (req : Request) (h : P s) :
    Q (s.submit p tag req) := by
  rcases State.submit_cases s p tag req with ⟨f, hs⟩ | ⟨f, e, hs⟩ <;> rw [hs]
  · exact k.here _ (k.portBefore _ _ _ h)
  · exact k.execute p e (k.portBefore _ _ _ h)

/-- The execution of a waiting entry leads there. -/
theorem Leads.pump (k : Leads P Q) {s : State} (p : Port) (h : P s) : Q (s.pump p) := by
  unfold State.pump
  repeat' split
  · exact k.execute p _ (k.portBefore _ _ _ h)
  · exact k.here _ h
  · exact k.here _ h

/-- A completed delivery leads there. -/
theorem Leads.completeRead (k : Leads P Q) {s : State} (p : Port) (h : P s) : Q (s.completeRead p) := by
  unfold State.completeRead
  repeat' split
  · exact k.here _ h
  · exact k.pump p (k.portBefore _ _ _ h)
  · exact k.here _ (k.portBefore _ _ _ h)
  · exact k.here _ (k.portBefore _ _ _ h)

/-- Every command leads there. -/
theorem Leads.exec (k : Leads P Q) {s t : State} (c : Instr) (h : P s) (hc : exec c s = .next t) : Q t := by
  cases c <;> simp only [Machine.exec] at hc <;> cases hc
  case startUp straps lost => exact k.startUp _ _ _ h
  case write p bytes => exact k.submit p _ _ h
  case ignoredTransaction => exact k.here _ h
  case read p => rw [State.transaction_read]; exact k.here _ (k.portBefore _ _ _ h)
  case deliveryComplete p => exact k.completeRead p h
  case readAbandoned p => exact k.here _ (k.portBefore _ _ _ h)
  case saveCompletion => exact k.completeSave _ h
  case saveFailure => exact k.failSave _ h
  case readMessage l kind card gen direction seq crc => exact k.readMessage _ _ _ _ _ _ _ _ h
  case framingFault l => exact k.framingFault _ _ h
  case gapFault l => exact k.gapFault _ _ h
  case endOfTransmission l => exact k.endOfTransmission _ _ h
  case repeatRecordExpiry l => exact k.repeatExpiry _ _ h
  case tick => exact k.takeTick _ h
  case tickLoss => exact k.loseTick _ h
  case freewheelSecond => exact k.takeSecond _ h
  case holdExpiry slot => exact k.expireHold _ _ h
  case unlockDeadline cabinSlot => exact k.expireUnlock _ _ h
  case allAboardDeadline => exact k.takeAllAboard _ h
  case closeDeadline => exact k.takeClose _ h
  case laneByteReceived l b => exact k.laneByte _ _ _ h
  all_goals exact k.submit _ _ _ h

/-- Every step leads there. -/
theorem Leads.step (k : Leads P Q) {s t : State} (h : P s) (hs : step s = .next t) : Q t := by
  unfold Machine.step at hs
  split at hs
  · cases hs
    exact k.timer _ h
  · exact k.exec _ (k.queue _ _ h) hs

/-- A property that port fields, the queue and the timer do not enter, kept by each rule and each event. -/
structure Kept (I : State → Prop) : Prop where
  queue : ∀ s l, I s → I { s with pending := l }
  timer : ∀ s, I s → I s.millisecond
  port : ∀ s p f, I s → I (s.modPort p f)
  serve : ∀ p req s, I s → I (serve p req s).1
  startUp : ∀ s straps lost, I s → I (s.startUp straps lost)
  completeSave : ∀ s, I s → I s.completeSave
  failSave : ∀ s, I s → I s.failSave
  readMessage : ∀ s l kind card gen direction seq crc, I s → I (s.readMessage l kind card gen direction seq crc)
  laneByte : ∀ s l b, I s → I (s.laneByte l b)
  framingFault : ∀ s l, I s → I (s.framingFault l)
  gapFault : ∀ s l, I s → I (s.gapFault l)
  endOfTransmission : ∀ s l, I s → I (s.endOfTransmission l)
  repeatExpiry : ∀ s l, I s → I (s.repeatExpiry l)
  takeTick : ∀ s, I s → I s.takeTick
  loseTick : ∀ s, I s → I s.loseTick
  takeSecond : ∀ s, I s → I s.takeSecond
  expireHold : ∀ s (slot : Byte), I s → I (s.expireHold slot.toNat)
  expireUnlock : ∀ s cabin, I s → I (s.expireUnlock cabin)
  takeAllAboard : ∀ s, I s → I s.takeAllAboard
  takeClose : ∀ s, I s → I s.takeClose

/-- A property that each of them keeps leads to itself. -/
theorem Kept.leads (k : Kept I) : Leads I I where
  here := fun _ h => h
  portBefore := k.port
  queue := k.queue
  timer := k.timer
  port := k.port
  serve := k.serve
  startUp := k.startUp
  completeSave := k.completeSave
  failSave := k.failSave
  readMessage := k.readMessage
  laneByte := k.laneByte
  framingFault := k.framingFault
  gapFault := k.gapFault
  endOfTransmission := k.endOfTransmission
  repeatExpiry := k.repeatExpiry
  takeTick := k.takeTick
  loseTick := k.loseTick
  takeSecond := k.takeSecond
  expireHold := k.expireHold
  expireUnlock := k.expireUnlock
  takeAllAboard := k.takeAllAboard
  takeClose := k.takeClose

/-- Every command keeps it. -/
theorem Kept.exec (k : Kept I) {s t : State} (c : Instr) (h : I s) (hc : exec c s = .next t) : I t :=
  k.leads.exec c h hc

/-- Every step keeps it. -/
theorem Kept.step (k : Kept I) {s t : State} (h : I s) (hs : step s = .next t) : I t :=
  k.leads.step h hs

end Sys2Proof.Machine
end

