-- ==== Sys2Proof/Laws/ServeFrames.lean ====
section
/-! SUPPORT. Laws/ServeFrames.lean: for each request, the fields of the state its rule may change; every other
field is as it was, whatever the answer. -/

namespace Sys2Proof.Machine

theorem serveReissue_frame (card : BitVec 32) (s : State) :
    ∃ r', (serveReissue card s).1 =
      { s with roster := r' } := by
  rcases serveReissue_cases card s with e0 | ⟨_, _, -, -, -, e0⟩ <;> rw [e0]
  · exact ⟨_, rfl⟩
  · exact ⟨_, rfl⟩

theorem serveSuspend_frame (card : BitVec 32) (s : State) :
    ∃ r', (serveSuspend card s).1 =
      { s with roster := r' } := by
  rcases serveSuspend_cases card s with e0 | ⟨_, _, -, -, e0⟩ <;> rw [e0]
  · exact ⟨_, rfl⟩
  · exact ⟨_, rfl⟩

theorem serveResume_frame (card : BitVec 32) (s : State) :
    ∃ r', (serveResume card s).1 =
      { s with roster := r' } := by
  rcases serveResume_cases card s with e0 | ⟨_, _, -, -, e0⟩ <;> rw [e0]
  · exact ⟨_, rfl⟩
  · exact ⟨_, rfl⟩

theorem serveSetClassMask_frame (card : BitVec 32) (mask : Byte) (s : State) :
    ∃ r', (serveSetClassMask card mask s).1 =
      { s with roster := r' } := by
  rcases serveSetClassMask_cases card mask s with e0 | ⟨_, _, -, -, e0⟩ <;> rw [e0]
  · exact ⟨_, rfl⟩
  · exact ⟨_, rfl⟩

theorem serveSetDeckMask_frame (card : BitVec 32) (mask : BitVec 32) (s : State) :
    ∃ r', (serveSetDeckMask card mask s).1 =
      { s with roster := r' } := by
  rcases serveSetDeckMask_cases card mask s with e0 | ⟨_, _, -, -, -, e0⟩ <;> rw [e0]
  · exact ⟨_, rfl⟩
  · exact ⟨_, rfl⟩

theorem serveCapUp_frame (card : BitVec 32) (s : State) :
    ∃ r', (serveCapUp card s).1 =
      { s with roster := r' } := by
  rcases serveCapUp_cases card s with e0 | ⟨_, _, -, -, -, e0⟩ <;> rw [e0]
  · exact ⟨_, rfl⟩
  · exact ⟨_, rfl⟩

theorem serveCapDown_frame (card : BitVec 32) (s : State) :
    ∃ r', (serveCapDown card s).1 =
      { s with roster := r' } := by
  rcases serveCapDown_cases card s with e0 | ⟨_, _, -, -, -, e0⟩ <;> rw [e0]
  · exact ⟨_, rfl⟩
  · exact ⟨_, rfl⟩

theorem serveSetCapOffset_frame (card : BitVec 32) (offset : Byte) (s : State) :
    ∃ r', (serveSetCapOffset card offset s).1 =
      { s with roster := r' } := by
  rcases serveSetCapOffset_cases card offset s with e0 | ⟨_, _, -, -, e0⟩ <;> rw [e0]
  · exact ⟨_, rfl⟩
  · exact ⟨_, rfl⟩

theorem servePurge_frame (card : BitVec 32) (s : State) :
    ∃ r' m', (servePurge card s).1 =
      { s with roster := r', counters := m' } := by
  rcases servePurge_cases card s with e0 | ⟨_, _, -, -, -, e0⟩ <;> rw [e0]
  · exact ⟨_, _, rfl⟩
  · exact ⟨_, _, rfl⟩

theorem serveOpenAccount_frame (folio limit deposit : BitVec 32) (s : State) :
    ∃ a' n2', (serveOpenAccount folio limit deposit s).1 =
      { s with accounts := a', nextSerial := n2' } := by
  rcases serveOpenAccount_cases folio limit deposit s with e0 | ⟨_, -, -, -, -, e0⟩ <;> rw [e0]
  · exact ⟨_, _, rfl⟩
  · exact ⟨_, _, rfl⟩

theorem serveSetLimit_frame (folio amount : BitVec 32) (s : State) :
    ∃ a' p', (serveSetLimit folio amount s).1 =
      { s with accounts := a', ports := p' } := by
  rcases serveSetLimit_cases folio amount s with e0 | ⟨_, _, -, -, e0⟩ <;> rw [e0]
  · exact ⟨_, _, rfl⟩
  · unfold State.noteOverLimit
    split <;> exact ⟨_, _, rfl⟩

theorem serveSetDeposit_frame (folio amount : BitVec 32) (s : State) :
    ∃ a' p', (serveSetDeposit folio amount s).1 =
      { s with accounts := a', ports := p' } := by
  rcases serveSetDeposit_cases folio amount s with e0 | ⟨_, _, -, -, e0⟩ <;> rw [e0]
  · exact ⟨_, _, rfl⟩
  · unfold State.noteOverLimit
    split <;> exact ⟨_, _, rfl⟩

theorem serveReopen_frame (folio : BitVec 32) (s : State) :
    ∃ a' p', (serveReopen folio s).1 =
      { s with accounts := a', ports := p' } := by
  rcases serveReopen_cases folio s with e0 | ⟨_, _, -, -, e0⟩ <;> rw [e0]
  · exact ⟨_, _, rfl⟩
  · unfold State.noteOverLimit
    split <;> exact ⟨_, _, rfl⟩

theorem serveSetPackage_frame (folio : BitVec 32) (package : Byte) (s : State) :
    ∃ a', (serveSetPackage folio package s).1 =
      { s with accounts := a' } := by
  rcases serveSetPackage_cases folio package s with e0 | ⟨_, _, -, -, e0⟩ <;> rw [e0]
  · exact ⟨_, rfl⟩
  · exact ⟨_, rfl⟩

theorem serveSetMinorRelease_frame (folio : BitVec 32) (value : Byte) (s : State) :
    ∃ a', (serveSetMinorRelease folio value s).1 =
      { s with accounts := a' } := by
  rcases serveSetMinorRelease_cases folio value s with e0 | ⟨_, _, _, -, -, e0⟩ <;> rw [e0]
  · exact ⟨_, rfl⟩
  · exact ⟨_, rfl⟩

theorem serveSettleBegin_frame (folio : BitVec 32) (s : State) :
    ∃ a', (serveSettleBegin folio s).1 =
      { s with accounts := a' } := by
  rcases serveSettleBegin_cases folio s with e0 | ⟨_, _, -, -, -, e0⟩ <;> rw [e0]
  · exact ⟨_, rfl⟩
  · exact ⟨_, rfl⟩

theorem serveSettleStep_frame (folio : BitVec 32) (s : State) :
    ∃ a' l', (serveSettleStep folio s).1 =
      { s with accounts := a', log := l' } := by
  rcases serveSettleStep_cases folio s with e0 | ⟨_, _, _, -, -, -, e0⟩ <;> rw [e0]
  · exact ⟨_, _, rfl⟩
  · exact ⟨_, _, rfl⟩

theorem serveClose_frame (folio : BitVec 32) (s : State) :
    ∃ r' k' a' c', (serveClose folio s).1 =
      { s with roster := r', cabins := k', accounts := a', closures := c' } := by
  rcases serveClose_cases folio s with e0 | ⟨_, _, -, -, -, e0⟩ <;> rw [e0]
  · exact ⟨_, _, _, _, rfl⟩
  · exact State.closeAccount_frame s _ _

theorem serveTakeClosure_frame (s : State) :
    ∃ c' p', (serveTakeClosure s).1 =
      { s with closures := c', ports := p' } := by
  rcases serveTakeClosure_cases s with e0 | ⟨_, _, -, e0⟩ <;> rw [e0]
  · exact ⟨_, _, rfl⟩
  · exact ⟨_, _, rfl⟩

theorem serveDefineCabin_frame (cabin : BitVec 16) (deck : Byte) (s : State) :
    ∃ k', (serveDefineCabin cabin deck s).1 =
      { s with cabins := k' } := by
  rcases serveDefineCabin_cases cabin deck s with e0 | ⟨_, -, -, -, e0⟩ <;> rw [e0]
  · exact ⟨_, rfl⟩
  · exact ⟨_, rfl⟩

theorem serveUndefineCabin_frame (cabin : BitVec 16) (s : State) :
    ∃ k' p', (serveUndefineCabin cabin s).1 =
      { s with cabins := k', ports := p' } := by
  rcases serveUndefineCabin_cases cabin s with e0 | ⟨_, _, -, -, e0⟩ <;> rw [e0]
  · exact ⟨_, _, rfl⟩
  · exact ⟨_, _, rfl⟩

theorem serveBlockCabin_frame (cabin : BitVec 16) (s : State) :
    ∃ k', (serveBlockCabin cabin s).1 =
      { s with cabins := k' } := by
  rcases serveBlockCabin_cases cabin s with e0 | ⟨_, _, _, -, e0⟩ <;> rw [e0]
  · exact ⟨_, rfl⟩
  · exact ⟨_, rfl⟩

theorem serveUnblockCabin_frame (cabin : BitVec 16) (s : State) :
    ∃ k', (serveUnblockCabin cabin s).1 =
      { s with cabins := k' } := by
  rcases serveUnblockCabin_cases cabin s with e0 | ⟨_, _, -, e0⟩ <;> rw [e0]
  · exact ⟨_, rfl⟩
  · exact ⟨_, rfl⟩

theorem servePrivacySet_frame (cabin : BitVec 16) (s : State) :
    ∃ k', (servePrivacySet cabin s).1 =
      { s with cabins := k' } := by
  rcases servePrivacySet_cases cabin s with e0 | ⟨_, _, -, -, e0⟩ <;> rw [e0]
  · exact ⟨_, rfl⟩
  · exact ⟨_, rfl⟩

theorem servePrivacyClear_frame (cabin : BitVec 16) (s : State) :
    ∃ k', (servePrivacyClear cabin s).1 =
      { s with cabins := k' } := by
  rcases servePrivacyClear_cases cabin s with e0 | ⟨_, _, -, e0⟩ <;> rw [e0]
  · exact ⟨_, rfl⟩
  · exact ⟨_, rfl⟩

theorem serveGrantCabin_frame (card : BitVec 32) (cabin : BitVec 16) (s : State) :
    ∃ r' k', (serveGrantCabin card cabin s).1 =
      { s with roster := r', cabins := k' } := by
  rcases serveGrantCabin_cases card cabin s with e0 | ⟨_, _, _, _, -, -, -, -, -, e0⟩ <;> rw [e0]
  · exact ⟨_, _, rfl⟩
  · exact ⟨_, _, rfl⟩

theorem serveRevokeCabin_frame (card : BitVec 32) (cabin : BitVec 16) (s : State) :
    ∃ r' k', (serveRevokeCabin card cabin s).1 =
      { s with roster := r', cabins := k' } := by
  rcases serveRevokeCabin_cases card cabin s with e0 | ⟨_, _, _, _, -, -, -, e0⟩ <;> rw [e0]
  · exact ⟨_, _, rfl⟩
  · exact ⟨_, _, rfl⟩

theorem serveRekeyCabin_frame (cabin : BitVec 16) (s : State) :
    ∃ r' k', (serveRekeyCabin cabin s).1 =
      { s with roster := r', cabins := k' } := by
  rcases serveRekeyCabin_cases cabin s with e0 | ⟨_, _, -, e0⟩ <;> rw [e0]
  · exact ⟨_, _, rfl⟩
  · exact State.unpairHolders_frame s _ _

theorem serveSetPresence_frame (card : BitVec 32) (presence : Byte) (s : State) :
    ∃ r' m' e' g' p', (serveSetPresence card presence s).1 =
      { s with roster := r', counters := m', call := e', missing := g', ports := p' } := by
  rcases serveSetPresence_cases card presence s with e0 | ⟨_, _, _, _, -, -, -, e0⟩ <;> rw [e0]
  · exact ⟨_, _, _, _, _, rfl⟩
  · exact State.setPresence_frame s _ _ _

theorem serveOpenCall_frame (kind : Byte) (allAboard : BitVec 32) (mode : Byte) (closeTime : BitVec 32) (s : State) :
    ∃ e', (serveOpenCall kind allAboard mode closeTime s).1 =
      { s with call := e' } := by
  rcases serveOpenCall_cases kind allAboard mode closeTime s with e0 | ⟨_, -, -, e0⟩ <;> rw [e0]
  · exact ⟨_, rfl⟩
  · exact ⟨_, rfl⟩

theorem serveCloseCall_frame (force : Byte) (s : State) :
    ∃ e' g' p', (serveCloseCall force s).1 =
      { s with call := e', missing := g', ports := p' } := by
  rcases serveCloseCall_cases force s with e0 | ⟨_, -, -, -, e0⟩ <;> rw [e0]
  · exact ⟨_, _, _, rfl⟩
  · exact ⟨_, _, _, rfl⟩

theorem serveLaneMode_frame (lane mode direction clearFaults : Byte) (s : State) :
    ∃ y', (serveLaneMode lane mode direction clearFaults s).1 =
      { s with lanes := y' } := by
  rcases serveLaneMode_cases lane mode direction clearFaults s with e0 | ⟨_, _, _, _, -, -, -, -, e0⟩ <;> rw [e0]
  · exact ⟨_, rfl⟩
  · exact ⟨_, rfl⟩

theorem serveSetTime_frame (time : BitVec 32) (s : State) :
    ∃ t' d' o' f' w' p', (serveSetTime time s).1 =
      { s with shipTime := t', shipDay := d', nextRollover := o', tariff := f', pendingTariff := w', ports := p' } := by
  rcases serveSetTime_cases time s with e0 | ⟨-, -, e0⟩ <;> rw [e0]
  · exact ⟨_, _, _, _, _, _, rfl⟩
  · exact State.advanceTo_frame s _

theorem serveSetTariff1_frame (part : TariffPart1) (s : State) :
    ∃ w', (serveSetTariff1 part s).1 =
      { s with pendingTariff := w' } := by
  rcases serveSetTariff1_cases part s with e0 | ⟨-, -, e0⟩ <;> rw [e0]
  · exact ⟨_, rfl⟩
  · exact ⟨_, rfl⟩

theorem serveSetTariff2_frame (rows : List (BitVec 16)) (s : State) :
    ∃ w', (serveSetTariff2 rows s).1 =
      { s with pendingTariff := w' } := by
  rcases serveSetTariff2_cases rows s with e0 | ⟨_, -, -, e0⟩ <;> rw [e0]
  · exact ⟨_, rfl⟩
  · exact ⟨_, rfl⟩

theorem serveLoadSettings_frame (s : State) :
    ∃ o' o2' f' w' h', (serveLoadSettings s).1 =
      { s with nextRollover := o', options := o2', tariff := f', pendingTariff := w', loaded := h' } := by
  rcases serveLoadSettings_cases s with e0 | ⟨_, -, -, e0⟩ <;> rw [e0]
  · exact ⟨_, _, _, _, _, rfl⟩
  · exact ⟨_, _, _, _, _, rfl⟩

theorem serveSaveSettings_frame (p : Port) (s : State) :
    ∃ v' w2', (serveSaveSettings p s).1 =
      { s with store := v', image := w2' } := by
  rcases serveSaveSettings_cases p s with e0 | ⟨-, -, e0⟩ <;> rw [e0]
  · exact ⟨_, _, rfl⟩
  · exact ⟨_, _, rfl⟩

theorem serveSetNoticeMask_frame (p : Port) (mask : BitVec 32) (s : State) :
    ∃ p', (serveSetNoticeMask p mask s).1 =
      { s with ports := p' } := by
  rcases serveSetNoticeMask_cases p mask s with e0 | ⟨-, e0⟩ <;> rw [e0]
  · exact ⟨_, rfl⟩
  · exact ⟨_, rfl⟩

theorem serveHoldRelease_frame (p : Port) (slot reuse : Byte) (s : State) :
    ∃ r' a' x', (serveHoldRelease p slot reuse s).1 =
      { s with roster := r', accounts := a', holds := x' } := by
  rcases serveHoldRelease_cases p slot reuse s with e0 | ⟨_, -, -, e0⟩ <;> rw [e0]
  · exact ⟨_, _, _, rfl⟩
  · exact ⟨_, _, _, rfl⟩

theorem serveVoid_frame (p : Port) (seq : BitVec 32) (outlet : BitVec 16) (s : State) :
    ∃ r' a' l', (serveVoid p seq outlet s).1 =
      { s with roster := r', accounts := a', log := l' } := by
  rcases serveVoid_cases p seq outlet s with e0 | ⟨_, _, -, -, e0⟩ <;> rw [e0]
  · exact ⟨_, _, _, rfl⟩
  · exact State.voidAll_frame s _

theorem serveAdjust_frame (folio : BitVec 32) (kind : Byte) (amount : BitVec 32) (s : State) :
    ∃ a' l' q' p', (serveAdjust folio kind amount s).1 =
      { s with accounts := a', log := l', nextSeq := q', ports := p' } := by
  rcases serveAdjust_cases folio kind amount s with e0 | ⟨_, -, e0⟩ | ⟨_, _, _, -, -, -, -, -, e0⟩ <;> rw [e0]
  · exact ⟨_, _, _, _, rfl⟩
  · exact ⟨_, _, _, _, rfl⟩
  · obtain ⟨a', l', q', e1⟩ := State.post_frame s _ _
    rw [e1]
    exact ⟨_, _, _, _, rfl⟩

theorem serveCharge_frame (p : Port) (outlet : BitVec 16) (cls : Byte) (unit : BitVec 32) (qty : Byte) (cards : List Presentation) (s : State) :
    ∃ r' a' l' q' p', (serveCharge p outlet cls unit qty cards s).1 =
      { s with roster := r', accounts := a', log := l', nextSeq := q', ports := p' } := by
  rcases serveCharge_cases p outlet cls unit qty cards s with e0 | ⟨_, _, e0⟩ | ⟨_, -, e0⟩ | ⟨_, _, -, -, e0⟩ <;> rw [e0]
  · exact ⟨_, _, _, _, _, rfl⟩
  · obtain ⟨r', p', e1⟩ := State.declineEffect_frame s _ _
    rw [e1]
    exact ⟨_, _, _, _, _, rfl⟩
  · exact ⟨_, _, _, _, _, rfl⟩
  · obtain ⟨r', a', l', q', e1⟩ := State.postShares_frame s p _ _ _ _ _ _
    rw [e1]
    exact ⟨_, _, _, _, _, rfl⟩

theorem serveHoldOpen_frame (p : Port) (card : BitVec 32) (gen : Byte) (outlet : BitVec 16) (cls : Byte) (gross lifetime : BitVec 32) (s : State) :
    ∃ r' a' x' p', (serveHoldOpen p card gen outlet cls gross lifetime s).1 =
      { s with roster := r', accounts := a', holds := x', ports := p' } := by
  rcases serveHoldOpen_cases p card gen outlet cls gross lifetime s with e0 | ⟨_, e0⟩ | ⟨_, -, e0⟩ <;> rw [e0]
  · exact ⟨_, _, _, _, rfl⟩
  · obtain ⟨r', p', e1⟩ := State.declineEffect_frame s _ _
    rw [e1]
    exact ⟨_, _, _, _, rfl⟩
  · rcases placeHold_cases s p _ _ _ _ _ with e1 | ⟨_, -, e1⟩ <;> rw [e1]
    · exact ⟨_, _, _, _, rfl⟩
    · exact ⟨_, _, _, _, rfl⟩

theorem serveHoldComplete_frame (p : Port) (slot reuse : Byte) (gross : BitVec 32) (s : State) :
    ∃ r' a' l' q' x' p', (serveHoldComplete p slot reuse gross s).1 =
      { s with roster := r', accounts := a', log := l', nextSeq := q', holds := x', ports := p' } := by
  rcases serveHoldComplete_cases p slot reuse gross s with e0 | ⟨_, -, e0⟩ | ⟨x, -, -, e0⟩ <;> rw [e0]
  · exact ⟨_, _, _, _, _, _, rfl⟩
  · exact ⟨_, _, _, _, _, _, rfl⟩
  · obtain ⟨a', l', q', e1⟩ := State.post_frame (s.endHold slot.toNat x) x.account
      (completionEntry x { slot := slot.toNat, reuse := reuse.toNat } (s.finalPrice x gross.toNat))
    rw [e1]
    exact ⟨_, _, _, _, _, _, rfl⟩

theorem serveAccessQuery_frame (p : Port) (card : BitVec 32) (gen : Byte) (cabin : BitVec 16) (s : State) :
    ∃ r' k' u' n' p', (serveAccessQuery p card gen cabin s).1 =
      { s with roster := r', cabins := k', unlocks := u', nextToken := n', ports := p' } := by
  rcases serveAccessQuery_cases p card gen cabin s with
    e0 | ⟨slot, c, -, ⟨_, _, -, -, ⟨-, e0⟩ | ⟨-, e0⟩⟩ | e0⟩ <;> rw [e0]
  · exact ⟨_, _, _, _, _, rfl⟩
  · exact ⟨_, _, _, _, _, rfl⟩
  · exact ⟨_, _, _, _, _, rfl⟩
  · obtain ⟨k', p', e1⟩ := State.denialEvent_frame s card.toNat cabin.toNat
      (s.accessVerdict slot c gen.toNat cabin.toNat)
    obtain ⟨r', p'', e2⟩ := State.sideReport_frame (s.denialEvent card.toNat cabin.toNat
      (s.accessVerdict slot c gen.toNat cabin.toNat)) slot c (s.accessVerdict slot c gen.toNat cabin.toNat)
    rw [e2, e1]
    exact ⟨_, _, _, _, _, rfl⟩

theorem serveLockReport_frame (cabin token : BitVec 16) (outcome : Byte) (s : State) :
    ∃ k' u' p', (serveLockReport cabin token outcome s).1 =
      { s with cabins := k', unlocks := u', ports := p' } := by
  rcases serveLockReport_cases cabin token outcome s with e0 | ⟨_, _, _, -, -, ⟨_, -, e0⟩ | e0⟩ <;> rw [e0]
  · exact ⟨_, _, _, rfl⟩
  · obtain ⟨k', p', e1⟩ := State.jamIf_frame (State.addEvent _ _ _ _) _ _ _ _
    rw [e1]
    exact ⟨_, _, _, rfl⟩
  · obtain ⟨k', p', e1⟩ := State.jamIf_frame s _ _ _ _
    rw [e1]
    exact ⟨_, _, _, rfl⟩

theorem serveEnrol_frame (card : BitVec 32) (kind : Byte) (folio : BitVec 32) (classMask : Byte) (deckMask : BitVec 32) (s : State) :
    ∃ r' a' m', (serveEnrol card kind folio classMask deckMask s).1 =
      { s with roster := r', accounts := a', counters := m' } := by
  rcases serveEnrol_cases card kind folio classMask deckMask s with
    e0 | ⟨_, -, -, e0 | ⟨_, _, _, -, -, e0⟩⟩ <;> rw [e0]
  · exact ⟨_, _, _, rfl⟩
  · exact ⟨_, _, _, rfl⟩
  · exact ⟨_, _, _, rfl⟩

theorem serveWindowOpen_frame (p : Port) (collection mode : Byte) (key start : BitVec 32) (s : State) :
    ∃ p', (serveWindowOpen p collection mode key start s).1 =
      { s with ports := p' } := by
  rcases serveWindowOpen_cases p collection mode key start s with e0 | ⟨_, -, e0⟩ <;> rw [e0]
  · exact ⟨_, rfl⟩
  · exact ⟨_, rfl⟩

theorem serveWindowRead_frame (p : Port) (s : State) :
    ∃ p', (serveWindowRead p s).1 =
      { s with ports := p' } := by
  rcases serveWindowRead_cases p s with e0 | ⟨_, e0⟩ <;> rw [e0]
  · exact ⟨_, rfl⟩
  · exact ⟨_, rfl⟩

theorem serveWindowAct_frame (p : Port) (action : Byte) (s : State) :
    ∃ r' a' l' p', (serveWindowAct p action s).1 =
      { s with roster := r', accounts := a', log := l', ports := p' } := by
  rcases serveWindowAct_cases p action s with e0 | ⟨_, e0⟩ | ⟨_, g, w, -, e0⟩ <;> rw [e0]
  · exact ⟨_, _, _, _, rfl⟩
  · exact ⟨_, _, _, _, rfl⟩
  · obtain ⟨r', a', l', e1⟩ := State.voidAll_frame s g
    rw [e1]
    exact ⟨_, _, _, _, rfl⟩

theorem serveVoyageClear_frame (s : State) :
    ∃ r' a' n2' k' u' n' l' q' x' c' m' e' g' t' d' o' p' y', (serveVoyageClear s).1 =
      { s with roster := r', accounts := a', nextSerial := n2', cabins := k', unlocks := u', nextToken := n', log := l', nextSeq := q', holds := x', closures := c', counters := m', call := e', missing := g', shipTime := t', shipDay := d', nextRollover := o', ports := p', lanes := y' } := by
  rcases serveVoyageClear_cases s with e0 | ⟨-, e0⟩ <;> rw [e0]
  · exact ⟨_, _, _, _, _, _, _, _, _, _, _, _, _, _, _, _, _, _, rfl⟩
  · exact ⟨_, _, _, _, _, _, _, _, _, _, _, _, _, _, _, _, _, _, rfl⟩

/-- PRICE changes nothing (03 R66). -/
theorem servePrice_frame (cls : Byte) (unit : BitVec 32) (qty k : Byte) (card : BitVec 32) (package : Byte)
    (s : State) : (servePrice cls unit qty k card package s).1 = s := by
  unfold servePrice
  repeat' split
  all_goals rfl

/-- The read requests and INJECT READ change nothing (01 R26 to R28, 04 R94, R95, 06 R129, R131). -/
theorem serveReadCardholder_frame (card : BitVec 32) (s : State) : (serveReadCardholder card s).1 = s := by
  unfold serveReadCardholder
  split <;> rfl

theorem serveReadAccount_frame (folio : BitVec 32) (s : State) : (serveReadAccount folio s).1 = s := by
  unfold serveReadAccount
  split <;> rfl

theorem serveReadCabin_frame (cabin : BitVec 16) (s : State) : (serveReadCabin cabin s).1 = s := by
  unfold serveReadCabin
  split <;> rfl

theorem serveReadHold_frame (slot reuse : Byte) (s : State) : (serveReadHold slot reuse s).1 = s := by
  unfold serveReadHold
  split <;> rfl

theorem serveReadEntry_frame (seq : BitVec 32) (s : State) : (serveReadEntry seq s).1 = s := by
  unfold serveReadEntry
  split <;> rfl

theorem serveReadLane_frame (lane : Byte) (s : State) : (serveReadLane lane s).1 = s := by
  unfold serveReadLane
  split <;> rfl

theorem serveInjectRead_frame (lane : Byte) (card : BitVec 32) (gen direction seq : Byte) (s : State) :
    (serveInjectRead lane card gen direction seq s).1 = s := by
  unfold serveInjectRead
  repeat' split
  all_goals rfl

end Sys2Proof.Machine
end

