-- ==== Sys2Proof/Tests/Slice0.lean ====
section
/-! SUPPORT. Tests/Slice0.lean: small tests. Well-formedness, the frames of chapter 11 written out byte by byte, one
step of a command on a small state with results taken from the spec, and for every obligation with hypotheses a
witness: a state and operands that meet the hypotheses of each of its clauses, at the ends of their ranges. -/

namespace Sys2Proof.Tests

open Sys2Proof.Machine

set_option maxRecDepth 8000

/-! ## Well-formedness -/

theorem test_wf_ignored_write : (Instr.ignoredTransaction .n0 0x3C#8).wf = false := by decide

theorem test_wf_ignored_read : (Instr.ignoredTransaction .n0 0xC3#8).wf = false := by decide

theorem test_wf_unknown_is_known : (Instr.unknownRequest .n0 1#8 0x21#8).wf = false := by decide

theorem test_wf_window_mode : (Instr.windowOpen .n0 1#8 1#8 1#8 31#32 0#32).wf = false := by decide

theorem test_wf_charge_cards : (Instr.charge .n1 1#8 5#16 0#8 1#32 1#8 (List.replicate 5 ⟨1#32, 0#8⟩)).wf = false := by
  decide

theorem test_wf_tariff_rates :
    (Instr.setTariffPart1 .n0 1#8 ⟨List.replicate 7 0#16, 0, 0, 0, 0, 0, List.replicate 64 0#16⟩).wf = false := by
  decide

theorem test_wf_tariff_rows : (Instr.setTariffPart2 .n0 1#8 (List.replicate 63 0#16)).wf = false := by decide

theorem test_wf_unlock_slot : (Instr.unlockDeadline 3072#16).wf = false := by decide

theorem test_wf_request_charge : (Request.charge 5#16 0#8 1#32 1#8 (List.replicate 5 ⟨1#32, 0#8⟩)).wf = false := by
  decide

theorem test_wf_request_unknown : (Request.unknown 0x86#8).wf = false := by decide

theorem test_wf_request_entries : Request.badFrame.wf = false ∧ (Request.badLength 0x21#8).wf = false := by decide

theorem test_wf_accepts : (Instr.ignoredTransaction .n0 0x00#8).wf = true ∧ (Instr.unlockDeadline 3071#16).wf = true ∧
    (Instr.unknownRequest .n0 1#8 0x10#8).wf = true ∧ (Instr.windowOpen .n0 1#8 1#8 0#8 31#32 0#32).wf = true := by
  decide

/-! ## Frames (11 R186 to R192). The CRC of the nine digits is the check value of R186's parameters. -/

theorem test_crc_check_value : crc16 [0x31, 0x32, 0x33, 0x34, 0x35, 0x36, 0x37, 0x38, 0x39] = 0x29B1#16 := by decide

theorem test_decode_no_op : decodeRequest 0x01#8 [] = .noOp := by decide

theorem test_decode_notice_mask : decodeRequest 0x03#8 [0xFE, 0xFF, 0x01, 0x00] = .setNoticeMask 0x1FFFE#32 := by decide

theorem test_decode_window_open :
    decodeRequest 0x0E#8 [0x01, 0x00, 0xF1, 0x03, 0x00, 0x00, 0x05, 0x00, 0x00, 0x00] =
      .windowOpen 1#8 0#8 1009#32 5#32 := by decide

theorem test_decode_charge :
    decodeRequest 0x21#8
      [0x31, 0x01, 0x00, 0x2A, 0x12, 0x00, 0x00, 0x03, 0x02, 0xE2, 0x67, 0x47, 0x03, 0x00, 0xE1, 0x67, 0x47, 0x03,
        0x01] =
      .charge 305#16 0#8 4650#32 3#8 [⟨55011298#32, 0#8⟩, ⟨55011297#32, 1#8⟩] := by decide

theorem test_decode_charge_short :
    decodeRequest 0x21#8 [0x31, 0x01, 0x00, 0x2A, 0x12, 0x00, 0x00, 0x03, 0x02, 0xE2] = .badLength 0x21#8 := by decide

theorem test_decode_access_query :
    decodeRequest 0x30#8 [0x05, 0x00, 0x00, 0x00, 0x02, 0xBB, 0x1F] = .accessQuery 5#32 2#8 8123#16 := by decide

theorem test_decode_reissue : decodeRequest 0x41#8 [0x0B, 0x00, 0x00, 0x00] = .reissue 11#32 := by decide

theorem test_decode_adjust :
    decodeRequest 0x55#8 [0x1F, 0x00, 0x00, 0x00, 0x01, 0xFF, 0xE0, 0xF5, 0x05] = .adjust 31#32 1#8 99999999#32 := by
  decide

theorem test_decode_grant_cabin :
    decodeRequest 0x62#8 [0x0B, 0x00, 0x00, 0x00, 0xBB, 0x1F] = .grantCabin 11#32 8123#16 := by decide

theorem test_decode_lane_mode : decodeRequest 0x73#8 [0x03, 0x02, 0x01, 0x01] = .laneMode 3#8 2#8 1#8 1#8 := by decide

theorem test_decode_set_time : decodeRequest 0x80#8 [0x40, 0x38, 0x00, 0x00] = .setTime 14400#32 := by decide

theorem test_decode_unknown : decodeRequest 0x10#8 [] = .unknown 0x10#8 ∧ decodeRequest 0x87#8 [] = .unknown 0x87#8 := by
  decide

theorem test_frame_of_no_op : (Request.noOp.frame 7#8).take 5 = [0xD3, 0x02, 0x00, 0x01, 0x07] := by decide

/-! ## A small state -/

/-- An ACTIVE adult aboard, card 11, generation 3, on the account of slot 0 and granted the cabin of slot 0. -/
def guest : Cardholder :=
  { state := .active, card := 11, gen := 3, kind := .adult, account := some ⟨1, 0⟩, cabins := [0], deckMask := 0,
    classMask := 0xFF#8, capOffset := 0, spent := 0, spentDay := 0, held := 0, presence := some .aboard,
    lastTransit := none, conflicts := 0 }

/-- An ACTIVE member of staff with card 11 and every deck. -/
def crew : Cardholder :=
  { guest with kind := .staff, account := none, cabins := [], deckMask := 0xFFFFF#32, presence := none }

/-- An OPEN account, folio 31, serial 1, credit limit 1,000.00. -/
def bill : Account :=
  { state := .opened, folio := 31, serial := 1, holders := [0], limit := 100000, deposit := 0, package := 0,
    minorRelease := false, posted := 0, held := 0, settled := 0, first := none, last := none, count := 0,
    cursor := none }

/-- Cabin 8123 on deck 4, granted to the cardholder of slot 0. -/
def berth : Cabin :=
  { number := 8123, deck := 4, blocked := .none, privacy := false, grantees := [0], history := [] }

/-- The reset state with one cardholder, one account and one cabin, each in slot 0. -/
def scene (c : Cardholder) (a : Account) (k : Cabin) : State :=
  { State.reset with roster := [(0, c)], accounts := [(0, a)], nextSerial := 2, cabins := [(0, k)] }

/-- The small state with its usual records. -/
def sc : State := scene guest bill berth

/-- The small state with another cardholder. -/
def scCard (c : Cardholder) : State := scene c bill berth

/-- The small state with another account. -/
def scBill (a : Account) : State := scene guest a berth

/-- The small state with another cabin. -/
def scBerth (k : Cabin) : State := scene guest bill k

/-- A POSTED charge of 5.00, sequence 1, by the cardholder of slot 0 on the service port. -/
def meal : Entry :=
  { seq := 1, kind := .charge, state := .posted, serial := 1, link := none, amount := 500, time := 0, day := 0,
    origin := some ⟨0, .n1, 5⟩, cls := 0, detail := some ⟨500, 0, 0⟩, hold := none, split := none }

/-- The account with its chain of that one entry. -/
def billed : Account := { bill with posted := 500, first := some 1, last := some 1, count := 1 }

/-- The small state with that entry. -/
def scLog (a : Account) (e : Entry) : State := { scBill a with log := [e], nextSeq := 2 }

/-- A LIVE hold of 5.00 in slot 0 with tag 5, opened on the service port, due at ship time 60. -/
def tab : Hold :=
  { serial := 1, account := 0, holder := 0, port := .n1, outlet := 5, cls := 0, amount := 500, expiry := 60 }

/-- The small state with that hold. -/
def scHold (h : Hold) : State :=
  { scene { guest with held := 500 } { bill with held := 500 } berth with holds := [(0, ⟨5, some h⟩)] }

/-- A pending unlock of the cabin of slot 0 for the cardholder of slot 0. -/
def knock : Unlock := { cabin := 0, holder := 0, token := 9, port := .n2, deadline := 8000 }

/-- The small state with another port CP0. -/
def scPort (q : PortState) : State := { sc with ports := { sc.ports with a0 := q } }

/-- The small state with another lane LN0. -/
def scLane (l : LaneState) : State := { sc with lanes := { sc.lanes with a0 := l } }

/-- The small state in another call. -/
def scCall (c : CallRecord) : State := { sc with call := c }

def alongside : CallRecord := timedCall .port 100 .timed 200

def allAboard : CallRecord := { alongside with state := .allAboard }

/-- The port CP0 of the small state. -/
def port0 : PortState := State.reset.ports.a0

def reply0 : Response :=
  { code := 1#8, tag := 7#8, result := .ok, clamped := false, saturated := false, more := false, ended := false,
    overrun := false, body := [] }

def note0 : Notice := { kind := .started, time := 0, subject := none, value := some 0 }

/-! ## The spec's worked cases and examples -/

/-- What a command leaves, where it answers a next state. -/
def after {α : Type} (c : Instr) (s : State) (f : State → α) : Option α :=
  match exec c s with
  | .next t => some (f t)
  | _ => none

/-- The ALCOHOL class at a discount d and a service rate r. -/
def bar (d r : Nat) : Tariff :=
  { Tariff.cold with rates := [1800, 1800, r, 0, 0, 0, 1800, 0], discounts := [0, 0, d] ++ List.replicate 125 0 }

/-- 03, case 1: discount 563, net 3,187, service 574, total 3,761, and its split among 3. -/
theorem test_pricing_case_1 :
    ((bar 1500 1800).price 2 0 3750 3).discount = 563 ∧ ((bar 1500 1800).price 2 0 3750 3).service = 574 ∧
    ((bar 1500 1800).price 2 0 3750 3).total = 3761 ∧ ((bar 1500 1800).price 2 0 3750 3).shares = [1254, 1254, 1253] := by
  decide

/-- 03, case 2: exact halves round up at both stages. -/
theorem test_pricing_case_2 :
    ((bar 0 2500).price 2 0 2 1).total = 3 ∧ ((bar 5000 1800).price 2 0 3 1).discount = 2 ∧ ((bar 5000 1800).price 2 0 3 1).total = 1 := by
  decide

/-- 03, cases 3 and 4: small totals, and the largest. -/
theorem test_pricing_cases_3_and_4 :
    splitShares 2 3 = [1, 1, 0] ∧ splitShares 5 4 = [2, 1, 1, 1] ∧ ((bar 10000 1800).price 2 0 98999901 3).shares = [0, 0, 0] ∧
    ((bar 0 2500).price 2 0 98999901 4).shares = [30937469, 30937469, 30937469, 30937469] := by
  decide

/-- 04, the bar tab: the family of folio 81250, with its tariff and the tag of hold slot 0 at 4. -/
def family : State :=
  { State.reset with
    tariff := bar 1000 1800, shipTime := 1080000, shipDay := 12, nextSeq := 90500, nextSerial := 2042,
    accounts := [(9, { bill with folio := 81250, serial := 2041, holders := [402, 403], limit := 300000, deposit := 50000,
                                 posted := 40000 })],
    roster := [(402, { guest with card := 55020001, gen := 0, account := some ⟨2041, 9⟩, cabins := [], spent := 15000, spentDay := 12 }),
               (403, { guest with card := 55020002, gen := 0, account := some ⟨2041, 9⟩, cabins := [], spent := 4000, spentDay := 12 })],
    holds := [(0, ⟨4, none⟩)] }

/-- Its step 1: a hold of 21,240 with tag 5. -/
theorem test_bar_tab_hold :
    after (.holdOpen .n1 1#8 55020001#32 0#8 214#16 2#8 20000#32 0#32) family
      (fun t => (t.accounts.fetch 9).map Account.held) = some (some 21240) ∧
    after (.holdOpen .n1 1#8 55020001#32 0#8 214#16 2#8 20000#32 0#32) family
      (fun t => (t.liveHold 0 5).map Hold.expiry) = some (some 1094400) := by
  decide +kernel

/-- Its step 2: shares of 8,231 and 8,230 on the second card and the first. -/
theorem test_bar_tab_split :
    after (.charge .n1 1#8 305#16 0#8 4650#32 3#8 [⟨55020002#32, 0#8⟩, ⟨55020001#32, 0#8⟩]) family
      (fun t => (t.accounts.fetch 9).map Account.posted) = some (some 56461) ∧
    after (.charge .n1 1#8 305#16 0#8 4650#32 3#8 [⟨55020002#32, 0#8⟩, ⟨55020001#32, 0#8⟩]) family
      (fun t => (t.roster.map (fun x => x.2.spent), t.nextSeq)) = some ([23230, 12231], 90502) := by
  decide +kernel

/-- 08, the lost tick line: the clock before step 5, with a pending tariff; the timer in milliseconds (log 35). -/
def adrift : State :=
  { State.reset with
    clock := .freewheel 55500, timer := 54500, shipTime := 3038399, shipDay := 35, nextRollover := 3038400,
    pendingTariff := some (bar 0 2500) }

/-- Its step 5: the freewheel second takes the rollover. -/
theorem test_freewheel_rollover :
    after .freewheelSecond adrift
      (fun t => (t.shipTime, t.shipDay, t.nextRollover, t.clock, t.pendingTariff.isNone, t.tariff.rateOf 2)) =
      some (3038400, 36, 3124800, .freewheel 56500, true, 2500) := by
  decide +kernel

/-- Its step 7: the jump passes three rollovers. -/
theorem test_forward_jump :
    after (.setTime .n0 1#8 3300000#32) { adrift with clock := .ticked, shipTime := 3038401, shipDay := 36, nextRollover := 3124800 }
      (fun t => (t.shipTime, t.shipDay, t.nextRollover)) = some (3300000, 39, 3384000) := by
  decide +kernel

/-- 02, step 5 of the example: a report that no entry matches is LATE, and its jam is applied. -/
theorem test_late_jam :
    after (.lockReport .n2 1#8 8123#16 4117#16 3#8) sc
      (fun t => (t.cabins.map (fun x => (x.2.blocked, x.2.history.length)), (t.ports.a2.slot.map Response.result))) =
      some ([(.lockFault, 0)], some .late) := by
  decide +kernel

/-- 06, event 8 of the example: a valid read OUT is passed, the guest is ASHORE and the counters move. -/
theorem test_read_passes_ashore :
    after (.readMessage .n1 1#8 11#32 3#8 2#8 88#8
        (crc16 ([0xA6#8, 1#8] ++ leBytes 4 11 ++ [3#8, 2#8, 88#8])))
      { scCall alongside with counters := { Counters.zero with aboard := 1 } }
      (fun t => (t.roster.map (fun x => x.2.presence), t.counters.aboard, t.counters.ashore,
        (t.lanes.get .n1).verdicts)) =
      some ([some .ashore], 0, 1, [⟨88, .pass, .ashore⟩]) := by
  decide +kernel

/-- 11 R187: type byte 3Ch is a WRITE, C3h a READ, and another is ignored. -/
theorem test_transaction_types :
    ((sc.transaction .n0 0x3C#8 (Request.noOp.frame 7#8)).ports.a0.slot.map Response.tag,
      (sc.transaction .n0 0xC3#8 []).ports.a0.reading.isSome,
      (sc.transaction .n0 0x00#8 (Request.noOp.frame 7#8)).ports.a0 == sc.ports.a0) = (some 7#8, true, true) := by
  decide +kernel

/-- 11 R187: FFh during a WRITE; the sync byte, the length, notice kind 02h and no response waiting in a READ. -/
theorem test_shifted_out :
    sc.shiftedOut .n0 0x3C#8 3 = [0xFF, 0xFF, 0xFF] ∧ sc.shiftedOut .n0 0xC3#8 5 = [0xD3, 0x13, 0x00, 0x02, 0x00] := by
  decide +kernel

/-! ## Witnesses: the machine and its ports -/

/-- A queue with one command, and an empty one. -/
theorem witness_StepTakesTheFrontCommand :
    ({ sc with pending := [.tick] } : State).pending = .tick :: [] ∧
    sc.pending = [] := by
  decide

/-- The marker absent; memory lost; and neither. -/
theorem witness_StartUpKinds :
    ({ sc with marker := false } : State).marker = false ∧
    sc.marker = true := by
  decide

/-- Requests with a frame: none and 4 cards, whole tariff parts, an unknown code. -/
theorem witness_FramesRoundTrip :
    (Request.charge 5#16 0#8 1#32 1#8 []).wf = true ∧
    (Request.charge 5#16 0#8 1#32 1#8 (List.replicate 4 ⟨1#32, 0#8⟩)).wf = true ∧
    (Request.setTariff1 ⟨List.replicate 8 0#16, 0, 0, 0, 0, 0, List.replicate 64 0#16⟩).wf = true ∧
    (Request.setTariff2 (List.replicate 64 0#16)).wf = true ∧
    (Request.unknown 0x10#8).wf = true := by
  decide

/-- A good frame, a bad one, and a ready port. -/
theorem witness_WriteTransactions :
    goodFrame (Request.noOp.frame 7#8) = true ∧
    goodFrame [0xD3#8] = false ∧
    sc.ready .n0 := by
  decide

/-- A command and its request. -/
theorem witness_CommandsAreWrites :
    requestOf (.capUp .n0 7#8 11#32) = some (.n0, 7#8, .capUp 11#32) ∧
    (Request.capUp 11#32).wf = true := by
  decide

/-- A full buffer; one place left behind a response; an empty slot; and a response in delivery. -/
theorem witness_RequestBufferHoldsTwo :
    2 ≤ ((scPort { port0 with buffer := [⟨1#8, .noOp⟩, ⟨2#8, .noOp⟩] }).ports.get .n0).buffer.length ∧
    ((scPort { port0 with buffer := [⟨1#8, .noOp⟩], slot := some reply0 }).ports.get .n0).buffer.length < 2 ∧
    ((scPort { port0 with buffer := [⟨1#8, .noOp⟩], slot := some reply0 }).ports.get .n0).slot ≠ none ∧
    (sc.ports.get .n0).buffer.length < 2 ∧
    (sc.ports.get .n0).slot = none ∧
    ((scPort { port0 with buffer := [⟨1#8, .noOp⟩], slot := some reply0, reading := some ⟨.response reply0, true, 0⟩ }).ports.get
      .n0).reading = some ⟨.response reply0, true, 0⟩ ∧
    ((scPort { port0 with buffer := [⟨1#8, .noOp⟩], slot := some reply0, reading := some ⟨.response reply0, true, 0⟩ }).ports.get
      .n0).buffer = [⟨1#8, .noOp⟩] := by
  decide

/-- A ready port. -/
theorem witness_RequestsAreAnsweredAtOnce :
    sc.ready .n0 := by
  decide

/-- The first and last codes kept for each profile, on ports of another. -/
theorem witness_ProfilesAreKept :
    sc.ready .n0 ∧ sc.ready .n2 ∧
    (sc.ports.get .n0).profile ≠ .service ∧ (sc.ports.get .n0).profile ≠ .access ∧
    (sc.ports.get .n2).profile ≠ .purser ∧
    requestOf (.price .n0 7#8 0#8 1#32 1#8 1#8 0#32 0#8) = some (.n0, 7#8, .price 0#8 1#32 1#8 1#8 0#32 0#8) ∧
    (Request.price 0#8 1#32 1#8 1#8 0#32 0#8).code = 0x20#8 ∧
    (Request.void 1#32 5#16).code = 0x25#8 ∧
    (Request.accessQuery 11#32 3#8 8123#16).code = 0x30#8 ∧
    (Request.privacyClear 8123#16).code = 0x33#8 ∧
    (Request.enrol 11#32 0#8 31#32 0#8 0#32).code = 0x40#8 ∧
    Request.voyageClear.code = 0x85#8 ∧
    Request.voyageClear.wf = true ∧ isRequestCode 0x20 = true ∧ isRequestCode 0x85 = true := by
  decide

/-- A response, a notice and nothing to deliver; and each of the three in progress. -/
theorem witness_ReadTransactions :
    (sc.ports.get .n0).reading = none ∧ (sc.ports.get .n0).slot = none ∧ (sc.ports.get .n0).queue = note0 :: [] ∧
    ((scPort { port0 with slot := some reply0 }).ports.get .n0).slot = some reply0 ∧
    ((scPort { port0 with queue := [] }).ports.get .n0).slot = none ∧ ((scPort { port0 with queue := [] }).ports.get .n0).queue = [] ∧
    ((scPort { port0 with slot := some reply0, reading := some ⟨.response reply0, false, 1⟩ }).ports.get .n0).reading =
      some ⟨.response reply0, false, 1⟩ ∧
    ((scPort { port0 with reading := some ⟨.notice note0 true, false, 0⟩ }).ports.get .n0).reading =
      some ⟨.notice note0 true, false, 0⟩ ∧
    ((scPort { port0 with reading := some ⟨.empty, false, 0⟩ }).ports.get .n0).reading = some ⟨.empty, false, 0⟩ := by
  decide

/-- The largest mask taken and the least refused; a kind masked and admitted; 15 and 16 notices. -/
theorem witness_NoticeMasksAndQueues :
    sc.ready .n0 ∧
    (0x1FFFF#32).toNat < 2 ^ 17 ∧ 2 ^ 17 ≤ (0x20000#32).toNat ∧
    (0x1FFFE#32).getLsbD (note0.kind.code - 1) = false ∧ port0.mask.getLsbD (note0.kind.code - 1) = true ∧
    ({ port0 with queue := List.replicate 15 note0 } : PortState).queue.length < 16 ∧
    16 ≤ ({ port0 with queue := List.replicate 16 note0 } : PortState).queue.length := by
  decide

/-! ## Witnesses: windows -/

/-- A chain from its first entry, from an entry of it, of another account, of none; an account not OPEN; positions at
the ends of the missing list; histories and queues empty and not; unknown codes; a port of another profile. -/
theorem witness_WindowsOpen :
    sc.ready .n0 ∧ (sc.ports.get .n0).profile = .purser ∧ (sc.ports.get .n1).profile ≠ .purser ∧ sc.ready .n1 ∧
    sc.findFolio 31 = some (0, bill) ∧ bill.state = .opened ∧
    (scBill { bill with state := .settled }).findFolio 31 = some (0, { bill with state := .settled }) ∧
    (scLog billed meal).findFolio 31 = some (0, billed) ∧ (scLog billed meal).findEntry 1 = some meal ∧ meal.serial = billed.serial ∧
    (scLog billed { meal with serial := 2 }).findEntry 1 = some { meal with serial := 2 } ∧ meal.serial ≠ 2 ∧ billed.state = .opened ∧
    (scLog { billed with state := .settled } meal).findFolio 31 = some (0, { billed with state := .settled }) ∧
    2#8 ≠ 0x01#8 ∧ (0#32).toNat = 0 ∧ (1#32).toNat ≠ 0 ∧
    sc.findEntry 1 = none ∧ sc.findFolio 99 = none ∧ sc.findCabin 99 = none ∧
    (8191#32).toNat < 8192 ∧ 8192 ≤ (8192#32).toNat ∧
    1 < (2#8).toNat ∧ (0#8).toNat = 0 ∧ 4 < (5#8).toNat ∧
    sc.findCabin 8123 = some (0, berth) ∧ sc.cabins.fetch 0 = some berth ∧ berth.history.length < (1#32).toNat ∧
    (scBerth { berth with history := [⟨0, 11, .opened⟩] }).findCabin 8123 =
      some (0, { berth with history := [⟨0, 11, .opened⟩] }) ∧
    (scBerth { berth with history := [⟨0, 11, .opened⟩] }).cabins.fetch 0 = some { berth with history := [⟨0, 11, .opened⟩] } ∧
    (1#32).toNat ≤ ({ berth with history := [⟨0, 11, .opened⟩] } : Cabin).history.length ∧
    sc.closures = [] ∧ sc.closures.length < (1#32).toNat ∧
    (1#32).toNat ≤ ({ sc with closures := [sc.summaryOf bill] } : State).closures.length := by
  decide

/-- No window; a READ window at its end and before it; a REVIEW window past its end and at an entry. -/
theorem witness_WindowsReadItems :
    sc.ready .n0 ∧ (sc.ports.get .n0).window = none ∧
    ((scPort { port0 with window := some (.missing 0 none 0) }).ports.get .n0).window = some (.missing 0 none 0) ∧
    (scPort { port0 with window := some (.missing 0 none 0) }).remaining (.missing 0 none 0) = [] ∧
    ((({ sc with missing := [0] } : State).remaining (.missing 0 (some 0) 0)).take 8).getLast?.isSome = true ∧
    ((scPort { port0 with window := some (.chain true 31 1 none none none) }).ports.get .n0).window =
      some (.chain true 31 1 none none none) ∧
    (scLog billed meal).findSerial 1 = some (0, billed) ∧ (scLog billed meal).findEntry 1 = some meal ∧ sc.findSerial 9 = none := by
  decide

/-- 09 R175, 11 R191: a WINDOW READ with no item left is END, and its body is the item count 0. -/
theorem test_window_read_end :
    after (.windowRead .n0 1#8) (scPort { port0 with window := some (.missing 0 none 0) })
      (fun t => t.ports.a0.slot.map (fun r => (r.result, r.ended, r.body))) = some (some (.ok, true, [0x00#8])) := by
  decide

/-- A chain of 34 entries on one account, sequences 1 to 34. -/
def course : List Entry :=
  (List.range 34).map (fun i => { meal with seq := i + 1, link := if i < 33 then some (i + 2) else none })

/-- The small state with that chain, in a settlement at its first entry. -/
def scCourse : State :=
  { scBill { billed with state := .settling, posted := 17000, last := some 34, count := 34, cursor := some 1 } with
    log := course, nextSeq := 35 }

/-- Runs of a chain of 1 and of 34 entries; a history and a closure queue with positions lost and none. -/
theorem witness_WindowsReadItems_items :
    (course.length ≤ scCourse.log.length ∧ course.head?.map (·.seq) = some 1 ∧ course.getLast?.map (·.seq) = some 34 ∧
      (∀ e ∈ course, scCourse.findEntry e.seq = some e) ∧ (course.take 1).length ≤ scCourse.log.length) ∧
    course.IsChain (fun d e => d.seq ≠ 34 ∧ d.link = some e.seq) ∧
    sc.roster.fetch 0 = some guest ∧
    (scBerth { berth with history := List.replicate 8 ⟨0, 11, .opened⟩ }).cabins.fetch 0 =
      some { berth with history := List.replicate 8 ⟨0, 11, .opened⟩ } ∧
    max 1 (3 - (8 - 6) + 1) + 4 ≤ 6 ∧ ¬ max 1 (3 - (8 - 6) + 1) + 5 ≤ 6 ∧ 0 - (8 - 6) = 0 := by
  decide

/-- A REVIEW window at its end entry and before it; an account not OPEN; an entry not POSTED, without origin, unsplit,
a group refused and one that passes; and no REVIEW window. -/
theorem witness_ReviewKeepsAndVoids :
    sc.readyAs .n0 .purser ∧
    ((scPort { port0 with window := some (.chain true 31 1 (some 1) (some 1) (some 1)) }).ports.get .n0).window =
      some (.chain true 31 1 (some 1) (some 1) (some 1)) ∧
    (scLog billed meal).findSerial 1 = some (0, billed) ∧ (scLog billed meal).findEntry 1 = some meal ∧ some meal.seq = some 1 ∧
    ({ meal with link := some 2 } : Entry).link = some 2 ∧ some meal.seq ≠ some 2 ∧
    ({ billed with state := .settling } : Account).state ≠ .opened ∧ billed.state = .opened ∧
    ({ meal with state := .voided } : Entry).state ≠ .posted ∧ meal.state = .posted ∧ meal.origin ≠ none ∧
    ({ meal with origin := none } : Entry).origin = none ∧ meal.seq = 1 ∧ meal.serial = 1 ∧ meal.split = none ∧
    (scLog billed meal).voidGroup meal = .ok [meal] ∧
    (scLog { billed with posted := -2000000000 } meal).voidGroup meal = .error .amountRange ∧
    -2000000000 ≤ ({ billed with posted := -1999999500 } : Account).posted - meal.amount ∧
    (sc.ports.get .n0).window = none := by
  decide

/-! ## Witnesses: reads -/

/-- Records found, of a guest and of staff, and not found. -/
theorem witness_RosterReads :
    sc.ready .n0 ∧ sc.findCard 99 = none ∧ sc.findFolio 99 = none ∧ sc.findCabin 99 = none ∧
    sc.findCard 11 = some (0, guest) ∧ guest.kind ≠ .staff ∧ guest.account = some ⟨1, 0⟩ ∧ guest.presence = some .aboard ∧
    (scCard crew).findCard 11 = some (0, crew) ∧ crew.kind = .staff ∧
    sc.findFolio 31 = some (0, bill) ∧ sc.findCabin 8123 = some (0, berth) := by
  decide

/-- A handle with its tag and without; a FREE slot; an entry found and not; the three call states; lane numbers 3 and 4. -/
theorem witness_LedgerAndGangwayReads :
    sc.ready .n0 ∧ (scHold tab).ready .n0 ∧ sc.holds.fetch 0 = none ∧
    (scHold tab).holds.fetch (0#8).toNat = some ⟨5, some tab⟩ ∧ (⟨5, some tab⟩ : HoldSlot).reuse = (5#8).toNat ∧
    (⟨5, some tab⟩ : HoldSlot).reuse ≠ (6#8).toNat ∧ ({ sc with holds := [(0, ⟨5, none⟩)] } : State).holds.fetch 0 = some ⟨5, none⟩ ∧
    (scHold tab).accounts.fetch tab.account = some { bill with held := 500 } ∧
    (scHold tab).roster.fetch tab.holder = some { guest with held := 500 } ∧
    (scLog billed meal).findEntry 1 = some meal ∧ ∀ e ∈ sc.log, e.seq ≠ 1 ∧
    sc.call.state = .atSea ∧ (scCall alongside).call.state = .alongside ∧ (scCall allAboard).call.state = .allAboard ∧
    3 < (4#8).toNat := by
  decide

/-- A ready port. -/
theorem witness_DeviceReads :
    sc.ready .n0 := by
  decide

/-! ## Witnesses: the roster and the accounts -/

/-- Each check failing at the end of its range, and a guest and a member of staff that pass. -/
theorem witness_Enrolment :
    sc.readyAs .n0 .purser ∧
    (0#32).toNat = 0 ∧ 2 < (3#8).toNat ∧ 2 ^ 20 ≤ (0x100000#32).toNat ∧ (0xFFFFF#32).toNat < 2 ^ 20 ∧
    (sc.findCard 11).isSome = true ∧ sc.findCard 12 = none ∧ sc.findFolio 99 = none ∧ sc.findFolio 31 = some (0, bill) ∧
    (scBill { bill with state := .settling }).findFolio 31 = some (0, { bill with state := .settling }) ∧
    8 ≤ ({ bill with holders := [0, 1, 2, 3, 4, 5, 6, 7] } : Account).holders.length ∧
    ({ bill with holders := [0, 1, 2, 3, 4, 5, 6] } : Account).holders.length < 8 ∧
    sc.roster.freeSlot 8192 = some 1 ∧ State.reset.roster.freeSlot 8192 = some 0 ∧
    Table.freeSlot [(0, guest)] 1 = none ∧ Table.wf [(0, guest), (2, guest)] 3 = true ∧
    Table.freeSlot [(0, guest), (2, guest)] 3 = some 1 := by
  decide

/-- A table whose every slot holds one record. -/
def packed {α : Type} (n : Nat) (x : α) : Table α := (List.range' 0 n).map (fun i => (i, x))

/-- It has no FREE slot, and no record that its one record is not. -/
theorem packed_full {α : Type} (n : Nat) (x : α) (p : α → Bool) (h : p x = false) :
    (packed n x).freeSlot n = none ∧ (packed n x).search p = none := by
  have h1 : ∀ n m, Table.lowestFrom ((List.range' m n).map (fun i => (i, x))) m = m + n := by
    intro n
    induction n with
    | zero => intro m; rfl
    | succ n ih => intro m; simp only [List.range'_succ, List.map_cons, Table.lowestFrom, if_true, ih]; omega
  have h2 : ∀ l : List Nat, Table.search (l.map (fun i => (i, x))) p = none := by
    intro l
    induction l with
    | nil => rfl
    | cons i l ih => simpa [Table.search, h] using ih
  exact ⟨by simp [Table.freeSlot, packed, h1], h2 _⟩

/-- A full roster, accounts table and cabin table, each without the record asked for. -/
theorem witness_full_tables :
    (({ sc with roster := packed 8192 guest } : State).roster.freeSlot 8192 = none ∧
      ({ sc with roster := packed 8192 guest } : State).findCard 99 = none ∧
      ({ sc with roster := packed 8192 guest } : State).findFolio 31 = some (0, bill)) ∧
    (({ sc with accounts := packed 4096 bill } : State).accounts.freeSlot 4096 = none ∧
      ({ sc with accounts := packed 4096 bill } : State).findFolio 99 = none) ∧
    ({ sc with cabins := packed 3072 berth } : State).cabins.freeSlot 3072 = none ∧
    ({ sc with cabins := packed 3072 berth } : State).findCabin 99 = none :=
  ⟨⟨(packed_full 8192 guest (fun _ => false) rfl).1, (packed_full 8192 guest _ (by decide)).2, by decide⟩,
    packed_full 4096 bill _ (by decide), packed_full 3072 berth _ (by decide)⟩

/-- A card not found, and one in each state. -/
theorem witness_SuspendAndResume :
    sc.readyAs .n0 .purser ∧ sc.findCard 99 = none ∧ sc.findCard 11 = some (0, guest) ∧ guest.state = .active ∧
    (scCard { guest with state := .suspended }).findCard 11 = some (0, { guest with state := .suspended }) ∧
    (scCard { guest with state := .closed }).findCard 11 = some (0, { guest with state := .closed }) := by
  decide

/-- Generations 254 and 255; masks of 20 bits and past them; each kind and state; a pending unlock and none. -/
theorem witness_CardLife :
    sc.readyAs .n0 .purser ∧ sc.findCard 99 = none ∧ sc.findCard 11 = some (0, guest) ∧
    (scCard { guest with state := .closed }).findCard 11 = some (0, { guest with state := .closed }) ∧
    ({ guest with gen := 255 } : Cardholder).gen = 255 ∧ ({ guest with gen := 254 } : Cardholder).gen < 255 ∧
    (scCard crew).findCard 11 = some (0, crew) ∧ crew.kind = .staff ∧ crew.state ≠ .closed ∧ crew.presence = none ∧
    (0xFFFFF#32).toNat < 2 ^ 20 ∧ 2 ^ 20 ≤ (0x100000#32).toNat ∧
    guest.purgeable = false ∧ ({ crew with state := .suspended } : Cardholder).purgeable = true ∧
    ({ guest with state := .closed, presence := some .notBoarded } : Cardholder).purgeable = true ∧
    ({ guest with state := .closed, presence := some .disembarked } : Cardholder).purgeable = true ∧
    (∃ u ∈ ({ sc with unlocks := [knock] } : State).unlocks, u.holder = 0) ∧ ∀ u ∈ sc.unlocks, u.holder ≠ 0 := by
  decide

/-- A count at the threshold, below it, at 15, and a threshold of 0. -/
theorem witness_ConflictReports :
    sc.roster.fetch 0 = some guest ∧ sc.options.threshold ≠ 0 ∧
    sc.options.threshold ≤ min 15 (({ guest with conflicts := 2 } : Cardholder).conflicts + 1) ∧
    min 15 (({ guest with conflicts := 1 } : Cardholder).conflicts + 1) < sc.options.threshold ∧
    min 15 (({ guest with conflicts := 15 } : Cardholder).conflicts + 1) = 15 ∧
    ({ sc with options := { sc.options with threshold := 0 } } : State).options.threshold = 0 := by
  decide

/-- Each check failing at the end of its range, and every request passing at it, with a headroom of 0 and below. -/
theorem witness_AccountRequests :
    sc.readyAs .n0 .purser ∧ sc.findFolio 99 = none ∧ sc.findFolio 31 = some (0, bill) ∧ (sc.findFolio 31).isSome = true ∧
    50000000 < (50000001#32).toNat ∧ (50000000#32).toNat ≤ 50000000 ∧
    99999999 < (100000000#32).toNat ∧ (99999999#32).toNat ≤ 99999999 ∧
    ({ sc with nextSerial := 4294967296 } : State).nextSerial = 4294967296 ∧
    ({ sc with nextSerial := 4294967295 } : State).nextSerial < 4294967296 ∧ sc.accounts.freeSlot 4096 = some 1 ∧
    Table.freeSlot [(0, bill)] 1 = none ∧ Table.wf [(0, bill)] 2 = true ∧ Table.freeSlot [(0, bill)] 2 = some 1 ∧
    ({ bill with posted := 100000 } : Account).posted + bill.held ≤ (100000#32).toNat + bill.deposit ∧
    (99999#32).toNat + bill.deposit < ({ bill with posted := 100000 } : Account).posted + bill.held ∧
    ({ bill with posted := 100000 } : Account).posted + bill.held ≤ bill.limit + (0#32).toNat ∧
    bill.limit + (0#32).toNat < ({ bill with posted := 100001 } : Account).posted + bill.held ∧
    (15#8).toNat ≤ 15 ∧ 15 < (16#8).toNat ∧ (1#8).toNat ≤ 1 ∧ 1 < (2#8).toNat := by
  decide

/-- Decks 0, 1, 20 and 21; a cabin found and not; a full table; a grantee, a pending unlock, and neither. -/
theorem witness_CabinsDefined :
    sc.readyAs .n0 .purser ∧ (0#16).toNat = 0 ∧ (0#8).toNat = 0 ∧ 20 < (21#8).toNat ∧ 1 ≤ (1#8).toNat ∧ (20#8).toNat ≤ 20 ∧
    (sc.findCabin 8123).isSome = true ∧ sc.findCabin 99 = none ∧ sc.cabins.freeSlot 3072 = some 1 ∧
    Table.freeSlot [(0, berth)] 1 = none ∧ Table.wf [(0, berth)] 2 = true ∧ Table.freeSlot [(0, berth)] 2 = some 1 ∧ sc.findCabin 8123 = some (0, berth) ∧ berth.grantees ≠ [] ∧
    (scBerth { berth with grantees := [] }).findCabin 8123 = some (0, { berth with grantees := [] }) ∧
    (∃ u ∈ ({ sc with unlocks := [knock] } : State).unlocks, u.cabin = 0) ∧ ∀ u ∈ sc.unlocks, u.cabin ≠ 0 := by
  decide

/-- A cabin not found, and one with each value of the blocked field. -/
theorem witness_CabinsBlocked :
    sc.readyAs .n0 .purser ∧ sc.findCabin 99 = none ∧ sc.findCabin 8123 = some (0, berth) ∧ berth.blocked = .none ∧
    (scBerth { berth with blocked := .maintenance }).findCabin 8123 = some (0, { berth with blocked := .maintenance }) ∧
    (scBerth { berth with blocked := .lockFault }).findCabin 8123 = some (0, { berth with blocked := .lockFault }) := by
  decide

/-- Staff, CLOSED, a pair present and absent, 3 and 4 cabins, 7 and 8 grantees. -/
theorem witness_CabinGrants :
    sc.readyAs .n0 .purser ∧ sc.findCard 99 = none ∧ sc.findCabin 99 = none ∧ sc.tablesWf = true ∧
    sc.findCard 11 = some (0, guest) ∧ sc.findCabin 8123 = some (0, berth) ∧ sc.cabins.fetch 0 = some berth ∧ 0 ∈ guest.cabins ∧
    (scCard crew).findCard 11 = some (0, crew) ∧ crew.kind = .staff ∧ ({ guest with state := .closed } : Cardholder).state = .closed ∧
    (scCard { guest with cabins := [1, 2, 3, 4] }).findCard 11 = some (0, { guest with cabins := [1, 2, 3, 4] }) ∧
    0 ∉ ([1, 2, 3, 4] : List Nat) ∧ 4 ≤ ([1, 2, 3, 4] : List Nat).length ∧ ([1, 2, 3] : List Nat).length < 4 ∧
    8 ≤ ([1, 2, 3, 4, 5, 6, 7, 8] : List Nat).length ∧ ([1, 2, 3, 4, 5, 6, 7] : List Nat).length < 8 := by
  decide

/-! ## Witnesses: cabin access -/

/-- A guest and a member of staff that pass; no entry with 63 and 64 in the list, its own entry, and another's. -/
theorem witness_UnlocksGranted :
    sc.readyAs .n2 .access ∧ sc.findCard 11 = some (0, guest) ∧ sc.findCabin 8123 = some (0, berth) ∧ guest.gen = (3#8).toNat ∧
    guest.state = .active ∧ guest.kind ≠ .staff ∧ berth.blocked = .none ∧ 0 ∈ guest.cabins ∧ guest.presence = some .aboard ∧
    (scCard crew).findCard 11 = some (0, crew) ∧ crew.kind = .staff ∧ hasDeck crew.deckMask berth.deck = true ∧ berth.privacy = false ∧
    sc.unlocks.find? (fun u => u.cabin == 0) = none ∧ (List.replicate 63 { knock with cabin := 1 }).length < 64 ∧
    (List.replicate 64 { knock with cabin := 1 }).find? (fun u => u.cabin == 0) = none ∧
    64 ≤ (List.replicate 64 { knock with cabin := 1 }).length ∧
    ({ sc with unlocks := [knock] } : State).unlocks.find? (fun u => u.cabin == 0) = some knock ∧ knock.holder = 0 ∧
    ({ knock with holder := 1 } : Unlock).holder ≠ 0 := by
  decide

/-- Each check failing, on a cabin defined and on none. -/
theorem witness_UnlocksDenied :
    sc.readyAs .n2 .access ∧ sc.findCard 99 = none ∧ sc.findCard 11 = some (0, guest) ∧
    sc.findCabin 99 = none ∧ sc.findCabin 8123 = some (0, berth) ∧
    (2#8).toNat < guest.gen ∧ guest.gen < (4#8).toNat ∧ guest.gen = (3#8).toNat ∧
    ({ guest with state := .suspended } : Cardholder).state = .suspended ∧ ({ guest with state := .closed } : Cardholder).state = .closed ∧
    guest.state = .active ∧ guest.kind ≠ .staff ∧ ({ berth with blocked := .maintenance } : Cabin).blocked ≠ .none ∧
    berth.blocked = .none ∧ 0 ∉ ({ guest with cabins := [] } : Cardholder).cabins ∧ 0 ∈ guest.cabins ∧
    ({ guest with presence := some .ashore } : Cardholder).presence ≠ some .aboard ∧
    (scCard crew).findCard 11 = some (0, crew) ∧ crew.state = .active ∧ crew.kind = .staff ∧
    hasDeck 0#32 berth.deck = false ∧ hasDeck crew.deckMask berth.deck = true ∧ ({ berth with privacy := true } : Cabin).privacy = true := by
  decide

/-- Histories of 7 and 8 events; outcomes 0, 1, 3 and 4; an entry with the token, with another, and none. -/
theorem witness_UnlocksEnd :
    sc.cabins.fetch 0 = some berth ∧
    ({ berth with history := List.replicate 7 ⟨0, 11, .opened⟩ } : Cabin).history.length < 8 ∧
    8 ≤ ({ berth with history := List.replicate 8 ⟨0, 11, .opened⟩ } : Cabin).history.length ∧
    sc.readyAs .n2 .access ∧ (0#8).toNat = 0 ∧ 3 < (4#8).toNat ∧
    lockOutcome 1#8 = some .opened ∧ lockOutcome 3#8 = some .jammed ∧ sc.findCabin 99 = none ∧ sc.findCabin 8123 = some (0, berth) ∧
    ({ sc with unlocks := [knock] } : State).unlocks.find? (fun u => u.cabin == 0) = some knock ∧
    knock.token = (9#16).toNat ∧ knock.token ≠ (10#16).toNat ∧ sc.unlocks.find? (fun u => u.cabin == 0) = none ∧
    (sc.ports.get .n0).window = none ∧
    ((scPort { port0 with window := some (.history 8123 0 1 none 1 0 false) }).ports.get .n0).window =
      some (.history 8123 0 1 none 1 0 false) ∧
    ((scPort { port0 with window := some (.history 8124 1 1 none 1 0 false) }).ports.get .n0).window =
      some (.history 8124 1 1 none 1 0 false) := by
  decide

/-- A cabin not found, without a grantee, and with one. -/
theorem witness_PrivacyFlag :
    sc.readyAs .n2 .access ∧ sc.findCabin 99 = none ∧ sc.findCabin 8123 = some (0, berth) ∧ berth.grantees ≠ [] ∧
    (scBerth { berth with grantees := [] }).findCabin 8123 = some (0, { berth with grantees := [] }) := by
  decide

/-! ## Witnesses: pricing, charges, holds and the log -/

/-- The tariff of a cold start, and caps within, below and above its limits. -/
theorem witness_PricesAndShares :
    Tariff.cold.inRange = true ∧
    Tariff.cold.capFloor ≤ Tariff.cold.minorBase + ({ guest with kind := .minor } : Cardholder).capOffset * Tariff.cold.capStep ∧
    Tariff.cold.minorBase + (0 : Int) * Tariff.cold.capStep ≤ Tariff.cold.capCeiling ∧
    Tariff.cold.adultBase + (0 : Int) * Tariff.cold.capStep ≤ Tariff.cold.capCeiling ∧
    Tariff.cold.minorBase + (-9 : Int) * Tariff.cold.capStep < Tariff.cold.capFloor ∧
    Tariff.cold.capCeiling < ({ Tariff.cold with minorBase := 5000000 } : Tariff).minorBase + (1 : Int) * Tariff.cold.capStep ∧
    ({ Tariff.cold with adultBase := 79999 } : Tariff).adultBase + (-32 : Int) * Tariff.cold.capStep < Tariff.cold.capFloor ∧
    Tariff.cold.capCeiling < Tariff.cold.adultBase + (1 : Int) * Tariff.cold.capStep := by
  decide

/-- Offsets −32, −31, 30 and 31; the bytes −33, −32, 31 and 32; staff, CLOSED, not found. -/
theorem witness_CapOffsets :
    sc.readyAs .n0 .purser ∧ sc.findCard 99 = none ∧ sc.findCard 11 = some (0, guest) ∧ guest.kind ≠ .staff ∧ guest.state ≠ .closed ∧
    (scCard crew).findCard 11 = some (0, crew) ∧ crew.kind = .staff ∧
    ({ guest with capOffset := 31 } : Cardholder).capOffset = 31 ∧ ({ guest with capOffset := 30 } : Cardholder).capOffset < 31 ∧
    ({ guest with capOffset := -32 } : Cardholder).capOffset = -32 ∧ -32 < ({ guest with capOffset := -31 } : Cardholder).capOffset ∧
    -32 ≤ (0xE0#8).toInt ∧ (0x1F#8).toInt ≤ 31 ∧ (0xDF#8).toInt < -32 ∧ 31 < (0x20#8).toInt := by
  decide

/-- Each check failing and passing at the end of its range; an unnamed card, a named one, staff and none. -/
theorem witness_PriceQuotes :
    sc.readyAs .n1 .service ∧ 7 < (8#8).toNat ∧ 4 < (5#8).toNat ∧ (7#8).toNat ≤ 7 ∧ (4#8).toNat ≤ 4 ∧ 1 ≤ (1#8).toNat ∧
    999999 < (1000000#32).toNat ∧ (999999#32).toNat ≤ 999999 ∧ 99 < (100#8).toNat ∧ (99#8).toNat ≤ 99 ∧ (0#8).toNat = 0 ∧
    15 < (16#8).toNat ∧ (15#8).toNat ≤ 15 ∧ (0#32).toNat = 0 ∧ (11#32).toNat ≠ 0 ∧ sc.findCard 99 = none ∧
    sc.findCard 11 = some (0, guest) ∧ guest.kind ≠ .staff ∧ sc.accountOf guest = some (0, bill) ∧ sc.accountOf crew = none := by
  decide

/-- A record found in a table of one row is that row's. -/
theorem fetch_one {α : Type} {i : Nat} {x y : α} (h : Table.fetch [(0, x)] i = some y) : i = 0 ∧ y = x := by
  simp only [Table.fetch] at h
  split at h
  · cases h; exact ⟨(by omega), rfl⟩
  · cases h

/-- The small state with a full log, of whose entries so many at the oldest end are reclaimable, and a next sequence. -/
def scBrim (n : Nat) (q : Nat := 1) : State :=
  { sc with
    log := List.replicate n { meal with serial := 9, state := .voided } ++ List.replicate (131072 - n) meal
    nextSeq := q }

/-- A full log has as many places as reclaimable entries at its oldest end. -/
theorem scBrim_places (n : Nat) (h : n ≤ 131072) (q : Nat := 1) :
    131072 ≤ (scBrim n q).log.length ∧ (scBrim n q).places = n := by
  have h1 : (scBrim n q).reclaimable { meal with serial := 9, state := .voided } = true := rfl
  have h2 : (scBrim n q).reclaimable meal = false := rfl
  have hl : (scBrim n q).log.length = 131072 := by simp [scBrim]; omega
  refine ⟨by omega, ?_⟩
  unfold State.places
  rw [hl]
  simp only [Config.logPlaces, Nat.sub_self, Nat.zero_add]
  show ((List.replicate n _ ++ List.replicate (131072 - n) meal).takeWhile _).length = n
  rw [List.takeWhile_append_of_pos (by simp [h1]), List.takeWhile_replicate]
  simp [h2]

/-- A full log without a place and one with one, at sequences left and none; the entry that stops reclaim. -/
theorem witness_full_log :
    (scBrim 0).places = 0 ∧ (scBrim 0).places < 1 ∧ 1 ≤ (scBrim 1).places ∧ 131072 ≤ (scBrim 1).log.length ∧
    (scBrim 0).nextSeq < 4294967296 ∧ (scBrim 0).readyAs .n1 .service ∧ (scBrim 1).readyAs .n1 .service ∧
    4294967296 ≤ ({ sc with nextSeq := 4294967296 } : State).nextSeq ∧
    (scBrim 1).reclaimable { meal with serial := 9, state := .voided } = true ∧ (scBrim 1).reclaimable meal = false ∧
    (scBrim 1).log = [{ meal with serial := 9, state := .voided }] ++ meal :: List.replicate 131070 meal :=
  ⟨(scBrim_places 0 (by omega)).2, by rw [(scBrim_places 0 (by omega)).2]; decide,
    by rw [(scBrim_places 1 (by omega)).2], (scBrim_places 1 (by omega)).1,
    by decide, ⟨⟨rfl, rfl⟩, rfl⟩, ⟨⟨rfl, rfl⟩, rfl⟩, by decide, rfl, rfl, rfl⟩

/-- A card whose charge of 5.90 passes every check. -/
theorem witness_OneCardIsCharged :
    sc.readyAs .n1 .service ∧ (1023#16).toNat ≤ 1023 ∧ (7#8).toNat ≤ 7 ∧ (500#32).toNat ≤ 999999 ∧ 1 ≤ (1#8).toNat ∧
    sc.findCard 11 = some (0, guest) ∧ guest.gen = (3#8).toNat ∧ guest.state = .active ∧ guest.kind ≠ .staff ∧
    sc.accountOf guest = some (0, bill) ∧ bill.state = .opened ∧ guest.presence = some .aboard ∧
    hasClass guest.classMask (0#8).toNat = true ∧ (guest.kind = .minor → (0#8).toNat ≠ 2 ∧ (0#8).toNat ≠ 5) ∧
    (guest.spentToday sc.shipDay + guest.held + (sc.tariff.price 0 bill.package 500 1).total : Nat) ≤ effectiveCap sc.tariff guest ∧
    (sc.tariff.price 0 bill.package 500 1).total ≤ bill.limit + bill.deposit - bill.posted - bill.held ∧
    sc.nextSeq < 4294967296 ∧ 1 ≤ sc.places := by
  decide

/-- A charge of one card that passes; the checks are those of one of four. -/
theorem witness_EveryShareIsPosted :
    sc.readyAs .n1 .service ∧ sc.tablesWf = true ∧ chargeBadField 5 0 [⟨11#32, 3#8⟩] = false ∧ priceOutOfRange 500 1 = false ∧
    sc.authorize 0 500 1 [⟨11#32, 3#8⟩] 1 [] none =
      .passed [{ holder := 0, account := 0, amount := 590 }] (some (sc.tariff.price 0 0 500 1)) ∧
    sc.logRefusal 1 = none ∧ sc.accounts.fetch 0 = some bill ∧ sc.ledgerOk ∧
    ([⟨11#32, 3#8⟩] : List Presentation)[0]? = some ⟨11#32, 3#8⟩ :=
  ⟨by decide, by decide, by decide, by decide, by decide +kernel, by decide, by decide,
    ⟨fun i a ha => by
      obtain ⟨rfl, rfl⟩ := fetch_one ha
      exact ⟨by decide, by decide, fun q hq => by rcases hq with h | h | h <;> cases h⟩, fun e he => by cases he⟩, rfl⟩

/-- The small state with four cards of one account. -/
def scFour : State :=
  { sc with roster := (List.range 4).map (fun i => (i, { guest with card := 11 + i, cabins := [] })) }

/-- A charge of four cards that passes, with its four shares; and its refusals at check 13. -/
theorem witness_EveryShareIsPosted_four :
    scFour.readyAs .n1 .service ∧ scFour.tablesWf = true ∧
    chargeBadField 5 0 [⟨11#32, 3#8⟩, ⟨12#32, 3#8⟩, ⟨13#32, 3#8⟩, ⟨14#32, 3#8⟩] = false ∧
    scFour.authorize 0 500 4 [⟨11#32, 3#8⟩, ⟨12#32, 3#8⟩, ⟨13#32, 3#8⟩, ⟨14#32, 3#8⟩] 1 [] none =
      .passed [⟨0, 0, 148⟩, ⟨1, 0, 148⟩, ⟨2, 0, 147⟩, ⟨3, 0, 147⟩] (some (scFour.tariff.price 0 0 500 4)) ∧
    scFour.logRefusal 4 = none ∧
    (scBrim 0).authorize 0 500 1 [⟨11#32, 3#8⟩] 1 [] none =
      .passed [⟨0, 0, 590⟩] (some (sc.tariff.price 0 0 500 1)) :=
  ⟨by decide, by decide, by decide, by decide +kernel, by decide, by decide +kernel⟩

/-- Each check of a share failing, one after the other, and field values past the ends of their ranges. -/
theorem witness_DeclinesMoveNoMoney :
    sc.readyAs .n1 .service ∧ 1023 < (1024#16).toNat ∧ 7 < (8#8).toNat ∧ 86400 < (86401#32).toNat ∧ (59#32).toNat ≤ 59 ∧
    ¬ (([⟨11#32, 3#8⟩, ⟨11#32, 3#8⟩] : List Presentation).map (·.card)).Nodup ∧ 98999901 < (98999902#32).toNat ∧
    sc.findCard 99 = none ∧ sc.findCard 11 = some (0, guest) ∧ (2#8).toNat < guest.gen ∧ guest.gen < (4#8).toNat ∧
    ({ guest with state := .suspended } : Cardholder).state = .suspended ∧ ({ guest with state := .closed } : Cardholder).state = .closed ∧
    crew.kind = .staff ∧ crew.state = .active ∧ (scBill { bill with state := .settling }).accountOf guest = some (0, { bill with state := .settling }) ∧
    ({ guest with presence := some .ashore } : Cardholder).presence ≠ some .aboard ∧ hasClass 0xFE#8 (0#8).toNat = false ∧
    ({ guest with kind := .minor } : Cardholder).kind = .minor ∧ ((2#8).toNat = 2 ∧ (5#8).toNat = 5) ∧
    effectiveCap sc.tariff { guest with spent := 5000000 } < (5000000 + 0 + (sc.tariff.price 0 0 500 1).total : Nat) ∧
    ({ bill with posted := 99411 } : Account).limit + bill.deposit - ({ bill with posted := 99411 } : Account).posted - bill.held <
      (sc.tariff.price 0 0 500 1).total ∧
    (serveHoldOpen .n1 99#32 0#8 5#16 0#8 1#32 0#32 sc).2.result ≠ .ok ∧
    (serveCharge .n1 5#16 0#8 1#32 1#8 [⟨99#32, 0#8⟩] sc).2.result ≠ .ok := by
  decide

/-- Four cards presented together. -/
def four : List Presentation := [⟨11#32, 3#8⟩, ⟨12#32, 3#8⟩, ⟨13#32, 3#8⟩, ⟨14#32, 3#8⟩]

/-- A later card of a charge passing on its account, and failing by one cent; charges declined at an unknown card, a
generation ahead and a presence; a last sequence that a charge of two cards would pass. -/
theorem witness_DeclinesMoveNoMoney_cards :
    scFour.readyAs .n1 .service ∧ four ≠ [] ∧ four.length ≤ 4 ∧ (four.map (·.card)).Nodup ∧
    scFour.findCard 13 = some (2, { guest with card := 13, cabins := [] }) ∧
    scFour.accountOf { guest with card := 13, cabins := [] } = some (0, bill) ∧
    (147 + 296 : Nat) ≤ ({ bill with limit := 443 } : Account).limit + bill.deposit - bill.posted - bill.held ∧
    ({ bill with limit := 442 } : Account).limit + bill.deposit - bill.posted - bill.held < (147 + 296 : Nat) ∧
    scFour.authorize 0 500 1 [⟨99#32, 3#8⟩] 1 [] none = .declined 1 99 .cardUnknown none ∧
    scFour.authorize 0 500 1 [⟨11#32, 4#8⟩] 1 [] none = .declined 1 11 .cardGenAhead none ∧
    (scCard { guest with presence := some .ashore }).authorize 0 500 1 [⟨11#32, 3#8⟩] 1 [] none =
      .declined 1 11 .presenceConflict (some (sc.tariff.price 0 0 500 1)) ∧
    (({ scFour with nextSeq := 4294967295 } : State).nextSeq < 4294967296 ∧
      2 ≤ ({ scFour with nextSeq := 4294967295 } : State).places ∧
      4294967296 < ({ scFour with nextSeq := 4294967295 } : State).nextSeq + 2) ∧
    (({ scFour with nextSeq := 4294967295 } : State).authorize 0 500 2 [⟨11#32, 3#8⟩, ⟨12#32, 3#8⟩] 1 [] none =
      .passed [⟨0, 0, 295⟩, ⟨1, 0, 295⟩] (some (scFour.tariff.price 0 0 500 2))) :=
  ⟨by decide, by decide, by decide, by decide, by decide, by decide, by decide, by decide, by decide, by decide,
    by decide +kernel, by decide, by decide +kernel⟩

/-- 04 R77, R78: 5.90 on four cards of one account with headroom 4.43 takes 1.48, 1.48 and 1.47, and the fourth card,
whose 1.47 with them is above it, is declined with share index 4. -/
theorem test_fourth_share_over_limit :
    after (.charge .n1 1#8 5#16 0#8 500#32 1#8 four) { scFour with accounts := [(0, { bill with limit := 443 })] }
      (fun t => (t.ports.a1.slot.map (fun r => (r.result, r.body.head?)), t.nextSeq)) =
      some (some (.overLimit, some 4#8), 1) := by
  decide +kernel

/-- 04 R71, R74: with one sequence left and no place, a charge of two cards is refused for its places: the notice names
the account whose entry stops reclaim, and the places counted. -/
theorem test_log_full_names_the_folio : (scBrim 0 4294967295).logRefusal 2 = some (some (.folio 31), 0) := by
  have h : (scBrim 0 4294967295).places = 0 := (scBrim_places 0 (by omega) 4294967295).2
  have hr : (scBrim 0 4294967295).reclaimStop = some (.folio 31) := by
    have hl : (scBrim 0 4294967295).log = meal :: List.replicate 131071 meal := rfl
    have hm : (scBrim 0 4294967295).reclaimable meal = false := rfl
    unfold State.reclaimStop
    rw [hl, List.dropWhile_cons, hm]
    rfl
  unfold State.logRefusal
  rw [if_neg (show ¬ Config.exhausted ≤ (scBrim 0 4294967295).nextSeq by decide), if_pos (by rw [h]; omega), h, hr]

/-- A hold that passes at the ends of its ranges; no hold, another port's, one exceeded, and one completed. -/
theorem witness_HoldRequests :
    sc.readyAs .n1 .service ∧ (98999901#32).toNat ≤ 98999901 ∧ 98999901 < (98999902#32).toNat ∧ 60 ≤ (60#32).toNat ∧
    (86400#32).toNat ≤ 86400 ∧ sc.findCard 11 = some (0, guest) ∧ sc.accountOf guest = some (0, bill) ∧ sc.freeHold = some 0 ∧
    sc.liveHold 0 5 = none ∧ (scHold tab).readyAs .n1 .service ∧ (scHold tab).liveHold 0 5 = some tab ∧ tab.port = .n1 ∧
    (scHold { tab with port := .n3 }).liveHold 0 5 = some { tab with port := .n3 } ∧
    (scHold tab).accounts.fetch tab.account = some { bill with held := 500 } ∧
    tab.amount < ((scHold tab).tariff.price tab.cls 0 425 1).total ∧ ((scHold tab).tariff.price tab.cls 0 424 1).total ≤ tab.amount ∧
    (scHold tab).nextSeq < 4294967296 ∧ 1 ≤ (scHold tab).places ∧ ({ bill with held := 500 } : Account).state = .opened ∧
    (sc.holdSlot 0).live = none ∧ ∀ i, i < 0 → (sc.holdSlot i).live ≠ none := by
  refine ⟨?_, ?_, ?_, ?_, ?_, ?_, ?_, ?_, ?_, ?_, ?_, ?_, ?_, ?_, ?_, ?_, ?_, ?_, ?_, ?_, fun i h => absurd h (Nat.not_lt_zero i)⟩ <;>
    decide

/-- A hold table with every slot LIVE. -/
theorem witness_HoldRequests_full (i : Nat) (hi : i < 256) :
    ∃ y h, ({ sc with holds := (List.range 256).map (fun j => (j, ⟨5, some tab⟩)) } : State).holds.fetch i = some y ∧
      y.live = some h := by
  have : ∀ i, i < 256 → Table.fetch ((List.range 256).map (fun j => (j, (⟨5, some tab⟩ : HoldSlot)))) i =
      some ⟨5, some tab⟩ := by decide +kernel
  exact ⟨⟨5, some tab⟩, tab, this i hi, rfl⟩

/-- A FREE slot; a LIVE hold one second before its expiry and at it; tags 5 and 0. -/
theorem witness_HoldsEnd :
    sc.holds.fetch (0#8).toNat = none ∧ (scHold tab).holds.fetch (0#8).toNat = some ⟨5, some tab⟩ ∧
    ({ sc with holds := [(0, ⟨5, none⟩)] } : State).holds.fetch (0#8).toNat = some ⟨5, none⟩ ∧
    ({ scHold tab with shipTime := 59 } : State).shipTime < tab.expiry ∧ tab.expiry ≤ ({ scHold tab with shipTime := 60 } : State).shipTime ∧
    (⟨5, some tab⟩ : HoldSlot).reuse ≠ 0 ∧ (⟨0, some tab⟩ : HoldSlot).reuse = 0 := by
  decide

/-- The two shares of a charge of 5.00 and 4.00, sequences 1 and 2, on one account. -/
def halves : List Entry :=
  [{ meal with link := some 2, split := some ⟨1, 1, 2⟩ }, { meal with seq := 2, amount := 400, split := some ⟨1, 2, 2⟩ }]

/-- The small state with those shares and another posted total. -/
def scHalves (posted : Int) : State :=
  { scBill { billed with posted := posted, last := some 2, count := 2 } with log := halves, nextSeq := 3 }

/-- Each refusal, the window's last second and the next; an unsplit entry and a group of two, whole, with one missing, on
an account not OPEN, and at the lowest posted total and below it. -/
theorem witness_GroupsAreVoided :
    sc.readyAs .n1 .service ∧ 1023 < (1024#16).toNat ∧ (1023#16).toNat ≤ 1023 ∧ sc.findEntry 1 = none ∧
    (scLog billed meal).findEntry 1 = some meal ∧ meal.state = .posted ∧ meal.origin = some ⟨0, .n1, 5⟩ ∧ meal.split = none ∧
    ({ meal with state := .voided } : Entry).state ≠ .posted ∧ ({ meal with origin := none } : Entry).origin = none ∧
    (⟨0, .n1, 5⟩ : Origin).port = .n1 ∧ (⟨0, .n1, 5⟩ : Origin).outlet = (5#16).toNat ∧ (⟨0, .n1, 5⟩ : Origin).outlet ≠ (6#16).toNat ∧
    sc.options.voidWindow < 901 - meal.time ∧ 900 - meal.time ≤ sc.options.voidWindow ∧
    halves.map (·.seq) = (List.range 2).map (fun i => 1 + i) ∧
    (∀ d ∈ halves, (scHalves 900).findEntry d.seq = some d ∧ d.state = .posted) ∧
    (scLog billed { meal with split := some ⟨1, 1, 2⟩ }).findEntry 2 = none ∧
    (scLog { billed with state := .settling } meal).findSerial 1 = some (0, { billed with state := .settling }) ∧
    ((scHalves 900).findSerial 1).map (fun x => (x.1, x.2.state)) = some (0, .opened) ∧
    ((halves.filter (fun d => d.serial == 1)).map (·.amount)).sum = 900 ∧
    -2000000000 ≤ (-1999999100 : Int) - 900 ∧ (-1999999101 : Int) - 900 < -2000000000 := by
  decide

/-- 04 R90: a void of the group leaves both shares VOIDED and their account's total without them. -/
theorem test_group_voided :
    after (.void .n1 1#8 2#32 5#16) (scHalves 900)
      (fun t => (t.log.map Entry.state, (t.accounts.fetch 0).map Account.posted, t.ports.a1.slot.map Response.result)) =
      some ([.voided, .voided], some 0, some .ok) := by
  decide +kernel

/-- A log that begins with reclaimable entries; each check failing and passing at the end of its range; the last sequence. -/
theorem witness_Adjustments :
    (scLog bill { meal with serial := 9, state := .voided }).log = [{ meal with serial := 9, state := .voided }] ++ [] ∧
    (scLog bill { meal with serial := 9, state := .voided }).reclaimable { meal with serial := 9, state := .voided } = true ∧
    sc.readyAs .n0 .purser ∧ 1 < (2#8).toNat ∧ EntryKind.ofCode 0#8 = some .charge ∧ EntryKind.ofCode 1#8 = some .credit ∧
    (0#32).toNat = 0 ∧ 99999999 < (100000000#32).toNat ∧ 1 ≤ (1#32).toNat ∧ (99999999#32).toNat ≤ 99999999 ∧ sc.findFolio 99 = none ∧
    sc.findFolio 31 = some (0, bill) ∧ sc.accounts.fetch 0 = some bill ∧ bill.state ≠ .settled ∧
    ({ bill with state := .settled } : Account).state = .settled ∧
    2000000000 < ({ bill with posted := 1900000002 } : Account).posted + bill.held + (99999999#32).toNat ∧
    ({ bill with posted := 1900000001 } : Account).posted + bill.held + (99999999#32).toNat ≤ 2000000000 ∧
    ({ bill with posted := -2000000000 } : Account).posted - (1#32).toNat < -2000000000 ∧
    -2000000000 ≤ ({ bill with posted := -1999999999 } : Account).posted - (1#32).toNat ∧
    ({ sc with nextSeq := 4294967296 } : State).nextSeq = 4294967296 ∧ sc.nextSeq < 4294967296 := by
  decide

/-! ## Witnesses: settlement, the gangway, the clock and the settings -/

/-- An account not found, in each state, with a LIVE hold and without, with a chain and without, within its limit and over it. -/
theorem witness_SettlementsBeginAndReopen :
    sc.readyAs .n0 .purser ∧ sc.findFolio 99 = none ∧ sc.findFolio 31 = some (0, bill) ∧ bill.state = .opened ∧ sc.liveHolds bill.serial = 0 ∧
    (scHold tab).liveHolds 1 ≠ 0 ∧ bill.first = none ∧ billed.first = some 1 ∧
    (scBill { bill with state := .settled }).findFolio 31 = some (0, { bill with state := .settled }) ∧
    ({ bill with posted := 100000 } : Account).posted + bill.held ≤ bill.limit + bill.deposit ∧
    bill.limit + bill.deposit < ({ bill with posted := 100001 } : Account).posted + bill.held := by
  decide

/-- An account not found and in each state, with a cursor and past the end, on a well-formed log. -/
theorem witness_SettlementWalks :
    sc.readyAs .n0 .purser ∧ sc.findFolio 99 = none ∧ sc.findFolio 31 = some (0, bill) ∧ bill.state = .opened ∧
    (scBill { bill with state := .settling }).findFolio 31 = some (0, { bill with state := .settling }) ∧
    ({ bill with state := .settling } : Account).cursor = none ∧ (scLog { billed with state := .settling, cursor := some 1 } meal).logOk = true ∧
    ({ bill with state := .settled } : Account).state = .settled := by
  decide

/-- A run of none and of one entry to the chain's end, of 32 with a further entry, and of none before an entry whose
settling would leave the range. -/
theorem witness_SettlementWalks_runs :
    (scLog { billed with state := .settling, cursor := some 1 } meal).findEntry 1 = some meal ∧
    some 1 :: [meal].map (·.link) = [meal].map (fun e => some e.seq) ++ [none] ∧
    (course.take 32).length = 32 ∧ ((course.take 32).map (·.seq)).Nodup ∧
    (∀ e ∈ course.take 32, scCourse.findEntry e.seq = some e) ∧
    some 1 :: (course.take 32).map (·.link) = (course.take 32).map (fun e => some e.seq) ++ [some 33] ∧
    (∀ n, n < 32 → -2000000000 ≤ (17000 : Int) - (((course.take 32).take (n + 1)).map Entry.signed).sum ∧
      (0 : Int) + (((course.take 32).take (n + 1)).map Entry.signed).sum ≤ 2000000000) ∧
    ¬ (-2000000000 ≤ (-1999999501 : Int) - meal.signed) := by
  decide +kernel

/-- The small state keeps the grant relation, whatever its account. -/
theorem sc_grantsOk (a : Account) : (scBill a).grantsOk := by
  refine ⟨fun h c hc => ?_, fun k r hr => ?_⟩
  · obtain ⟨rfl, rfl⟩ := fetch_one hc; exact ⟨by decide, by decide, by decide, fun k hk => ⟨berth, by cases hk <;> [rfl; contradiction], by cases hk <;> [decide; contradiction]⟩⟩
  · obtain ⟨rfl, rfl⟩ := fetch_one hr; exact ⟨by decide, by decide, by decide, fun h hk => ⟨guest, by cases hk <;> [rfl; contradiction], by cases hk <;> [decide; contradiction]⟩⟩

/-- An account not found, not SETTLED, and SETTLED with 31 and 32 summaries queued (with sc_grantsOk); an empty queue and one summary. -/
theorem witness_AccountsCloseIntoSummaries :
    sc.readyAs .n0 .purser ∧ sc.findFolio 99 = none ∧ sc.findFolio 31 = some (0, bill) ∧ bill.state ≠ .settled ∧
    (scBill { bill with state := .settled }).findFolio 31 = some (0, { bill with state := .settled }) ∧
    32 ≤ (List.replicate 32 (sc.summaryOf bill)).length ∧ (List.replicate 31 (sc.summaryOf bill)).length < 32 ∧
    sc.closures = [] ∧ ({ sc with closures := [sc.summaryOf bill] } : State).closures = sc.summaryOf bill :: [] := by
  decide

/-- Each mode; a right and a wrong CRC; directions 0, 1, 2 and 3; 1 and 2 verdicts; a held read; a repeat record in its
last millisecond and past it; a direction refused and not. -/
theorem witness_ReadMessagesAreAnswered :
    (scLane { LaneState.started with mode := .loop }).lanes.a0.mode = .loop ∧ (sc.lanes.get .n0).mode = .normal ∧
    crc16 ([0xA6#8, 1#8] ++ leBytes 4 11 ++ [3#8, 1#8, 0#8]) ≠ 0#16 ∧
    (0#8).toNat = 0 ∧ 2 < (3#8).toNat ∧ Direction.ofCode 1#8 = some .inward ∧ Direction.ofCode 2#8 = some .outward ∧
    2 ≤ ({ LaneState.started with verdicts := [⟨0, .resend, .crc⟩, ⟨0, .resend, .crc⟩] } : LaneState).verdicts.length ∧
    ({ LaneState.started with verdicts := [⟨0, .resend, .crc⟩] } : LaneState).verdicts.length < 2 ∧
    ({ LaneState.started with holding := some ⟨11, 3, .outward, 1⟩ } : LaneState).holding ≠ none ∧ LaneState.started.holding = none ∧
    ({ LaneState.started with mode := .halt } : LaneState).mode = .halt ∧ 4999 < (⟨⟨11, 3, .outward, 1⟩, .pass, .ashore, 0⟩ : RepeatRecord).decidedAt + 5000 ∧
    (⟨⟨11, 3, .outward, 1⟩, .pass, .ashore, 0⟩ : RepeatRecord).decidedAt + 5000 ≤ 5000 ∧
    DirSetting.inOnly.refuses .outward = true ∧ DirSetting.both.refuses .outward = false := by
  decide

/-- 1 and 2 verdicts; LOOP and another mode; an IDLE receiver, one with 9 bytes and one with 10; verdicts, a held read and a
repeat record present and absent. -/
theorem witness_LaneLines :
    LaneState.started.verdicts.length < 2 ∧ 2 ≤ ({ LaneState.started with verdicts := [⟨0, .resend, .crc⟩, ⟨0, .resend, .crc⟩] } : LaneState).verdicts.length ∧
    (scLane { LaneState.started with mode := .loop }).lanes.a0.mode = .loop ∧ (sc.lanes.get .n0).mode ≠ .loop ∧
    (sc.lanes.get .n0).receiver = .idle ∧ ((scLane { LaneState.started with receiver := .assembling (List.replicate 9 0xA6#8) 0 }).lanes.get .n0).receiver = .assembling (List.replicate 9 0xA6#8) 0 ∧
    (List.replicate 9 0xA6#8).length < 10 ∧ (0xA6#8 :: ([1#8] ++ leBytes 4 11 ++ [3#8, 1#8, 0#8, 0x34#8])) ++ [BitVec.ofNat 8 ((0x1234#16).toNat / 256)] =
      [0xA6#8, 1#8] ++ leBytes 4 (11#32).toNat ++ [3#8, 1#8, 0#8] ++ leBytes 2 (0x1234#16).toNat ∧
    (sc.lanes.get .n0).verdicts = [] ∧ ((scLane { LaneState.started with verdicts := [⟨0, .resend, .crc⟩] }).lanes.get .n0).verdicts = ⟨0, .resend, .crc⟩ :: [] ∧
    (sc.lanes.get .n0).holding = none ∧ (sc.lanes.get .n0).lastRead = none ∧
    ((scLane { LaneState.started with holding := some ⟨11, 3, .outward, 1⟩ }).lanes.get .n0).holding = some ⟨11, 3, .outward, 1⟩ ∧
    ((scLane { LaneState.started with lastRead := some ⟨⟨11, 3, .outward, 1⟩, .pass, .ashore, 0⟩ }).lanes.get .n0).lastRead = some ⟨⟨11, 3, .outward, 1⟩, .pass, .ashore, 0⟩ := by
  decide

/-- Bytes at and past the ends of their ranges; a lane in LOOP and not; a direction refused and not. -/
theorem witness_LaneModesAndDryRuns :
    sc.readyAs .n0 .purser ∧ 3 < (4#8).toNat ∧ 2 < (3#8).toNat ∧ 1 < (2#8).toNat ∧ (0#8).toNat = 0 ∧
    Four.ofIndex (3#8).toNat = some .n3 ∧ LaneMode.ofCode 2#8 = some .loop ∧ DirSetting.ofCode 2#8 = some .outOnly ∧ Direction.ofCode 1#8 = some .inward ∧
    (sc.lanes.get .n0).mode ≠ .loop ∧ ((scLane { LaneState.started with mode := .loop, dirSetting := .inOnly }).lanes.get .n0).mode = .loop ∧
    DirSetting.inOnly.refuses .outward = true ∧ DirSetting.inOnly.refuses .inward = false := by
  decide

/-- At sea and alongside; a card not found, of another generation, staff, SUSPENDED and CLOSED; each presence; a FINAL call;
a minor alone; a missing list of one and of two. -/
theorem witness_GangwayReadsAreDecided :
    sc.call.state = .atSea ∧ (scCall alongside).call.state ≠ .atSea ∧ (scCall alongside).call.state = .alongside ∧
    (scCall alongside).findCard 99 = none ∧ (scCall alongside).findCard 11 = some (0, guest) ∧ guest.gen ≠ 4 ∧ guest.gen = 3 ∧
    crew.kind = .staff ∧ guest.kind ≠ .staff ∧ guest.state = .active ∧ guest.presence = some .aboard ∧
    ({ guest with state := .suspended } : Cardholder).state = .suspended ∧ ({ guest with state := .closed } : Cardholder).state = .closed ∧
    (scCall allAboard).call.state = .allAboard ∧ (scCall finalCall).call.kind = some .final ∧ (scCall alongside).call.kind ≠ some .final ∧
    (scCall alongside).escorted { guest with kind := .minor } = false ∧ (scCall finalCall).accountOf guest = some (0, bill) ∧ bill.state ≠ .settled ∧
    ({ guest with presence := some .ashore } : Cardholder).presence = some .ashore ∧ guest.account = some ⟨1, 0⟩ ∧
    0 ∉ sc.missing ∧ 0 ∈ ({ sc with missing := [0, 4] } : State).missing ∧ ([0, 4] : List Nat).filter (fun x => x != 0) ≠ [] ∧
    ([0] : List Nat).filter (fun x => x != 0) = [] ∧ ({ allAboard with closeHeld := true } : CallRecord).closeHeld = true ∧ alongside.closeHeld = false := by
  decide

/-- Presence bytes 3 and 4; a card not found, staff, unchanged and changed; in ALL_ABOARD and not. -/
theorem witness_PresenceIsSet :
    ([1, 4] : List Nat).Pairwise (· < ·) ∧ sc.readyAs .n0 .purser ∧ 3 < (4#8).toNat ∧ Presence.ofCode 3#8 = some .disembarked ∧
    Presence.ofCode 2#8 = some .ashore ∧ sc.findCard 99 = none ∧ (scCard crew).findCard 11 = some (0, crew) ∧ crew.presence = none ∧
    sc.findCard 11 = some (0, guest) ∧ guest.presence = some .aboard ∧ sc.call.state ≠ .allAboard ∧ (scCall allAboard).call.state = .allAboard := by
  decide

/-- Each state; kinds 0, 1, 3 and 4; an all-aboard time now and one second on, a close time before it and at it; guests
ashore and none; deadlines due and not. -/
theorem witness_PortCalls :
    sc.readyAs .n0 .purser ∧ (scCall alongside).call.state ≠ .atSea ∧ sc.call.state = .atSea ∧ (0#8).toNat = 0 ∧ 3 < (4#8).toNat ∧
    (0#32).toNat ≤ sc.shipTime ∧ sc.shipTime < (1#32).toNat ∧ (0#32).toNat < (1#32).toNat ∧ (1#32).toNat ≤ (1#32).toNat ∧ 1 < (2#8).toNat ∧
    (scCall finalCall).call.kind = some .final ∧ sc.counters.ashore = 0 ∧ ({ sc with counters := { sc.counters with ashore := 1 } } : State).counters.ashore ≠ 0 ∧
    (scCall allAboard).missing = [] ∧ ({ sc with missing := [0] } : State).missing ≠ [] ∧
    (scCall alongside).call.allAboard = some 100 ∧ 100 ≤ ({ scCall alongside with shipTime := 100 } : State).shipTime ∧ (scCall alongside).shipTime < 100 ∧
    (scCall allAboard).call.closeMode = .timed ∧ (scCall allAboard).call.closeHeld = false ∧ (scCall allAboard).call.closeTime = some 200 ∧
    200 ≤ ({ scCall allAboard with shipTime := 200 } : State).shipTime ∧ ({ scCall allAboard with shipTime := 199 } : State).shipTime < 200 := by
  decide

/-- Hours 0 and 23; times one before a rollover, at it and a day past it; each clock state; times before, at and after the present. -/
theorem witness_ShipTimeAdvances :
    0 ≤ 23 ∧ 23 ≤ 23 ∧ 14399 < sc.nextRollover ∧ sc.nextRollover + 0 * 86400 ≤ 14400 ∧ 14400 < sc.nextRollover + (0 + 1) * 86400 ∧
    sc.nextRollover + 1 * 86400 ≤ 100800 ∧ 100800 < sc.nextRollover + (1 + 1) * 86400 ∧
    sc.clock = .ticked ∧ ({ sc with clock := .freewheel 1000 } : State).clock = .freewheel 1000 ∧ sc.readyAs .n0 .purser ∧
    (9#32).toNat < ({ sc with shipTime := 10 } : State).shipTime ∧ (0#32).toNat = sc.shipTime ∧ sc.shipTime < (1#32).toNat := by
  decide

/-- Whole lists of rates and rows, values at and past their tops, a floor above the ceiling, a pending tariff and none. -/
theorem witness_SettingsAreWritten :
    sc.readyAs .n0 .purser ∧ (List.replicate 8 2500#16).length = 8 ∧ 10000 < (10001#16).toNat ∧ (2500#16).toNat ≤ 2500 ∧
    (List.replicate 64 0#16).length = 64 ∧
    (0xFFFFFFFF#32).toInt < 0 ∧ 50000000 < (50000001#32).toInt ∧ 1000000 < (1000001#32).toInt ∧
    sc.pendingTariff = none ∧ ({ sc with pendingTariff := some Tariff.cold } : State).pendingTariff ≠ none := by
  refine ⟨by decide, by decide, by decide, by decide, by decide, by decide, by decide, by decide, rfl, ?_⟩
  exact Option.some_ne_none _

/-- The store BUSY and IDLE; the image VALID and INVALID; loaded and not. -/
theorem witness_SettingsImage :
    sc.readyAs .n0 .purser ∧ sc.store = .idle ∧ sc.image = none ∧ sc.loaded = false ∧
    ({ sc with store := .busy .n0 sc.snapshot } : State).store = .busy .n0 sc.snapshot ∧
    ({ sc with image := some sc.snapshot } : State).image = some sc.snapshot ∧ ({ sc with loaded := true } : State).loaded = true := by
  decide

/-- With an account, and at sea without one. -/
theorem witness_VoyagesAreCleared :
    sc.readyAs .n0 .purser ∧ sc.accounts ≠ [] ∧
    State.reset.readyAs .n0 .purser ∧ State.reset.call.state = .atSea ∧ State.reset.accounts = [] := by
  decide

/-! ## Witnesses: what every step keeps -/

/-- The small state with its counters true. -/
def scCounted : State := { sc with counters := { Counters.zero with aboard := 1 } }

/-- A state with records that meets every invariant that is a check. -/
theorem witness_checks :
    scCounted.portsBounded = true ∧ scCounted.lanesBounded = true ∧ scCounted.tablesWf = true ∧
    scCounted.cardsInRange = true ∧ scCounted.unlocksOk = true ∧ scCounted.logOk = true ∧
    scCounted.closuresOk = true ∧ scCounted.callOk = true ∧ scCounted.missingExact = true ∧
    scCounted.countersExact = true ∧ scCounted.clockOk = true ∧ scCounted.settingsOk = true := by
  decide

/-- A hold of 5.00 LIVE and a charge of 5.00 in the log, on the account of the small state. -/
def scFull : State :=
  { scCounted with
    roster := [(0, { guest with held := 500 })], accounts := [(0, { billed with held := 500 })], holds := [(0, ⟨5, some tab⟩)],
    log := [meal], nextSeq := 2 }

/-- Its amounts are in range, and its settings. -/
theorem witness_amounts : scFull.amountsOk ∧ scFull.settingsOk = true := by
  refine ⟨⟨fun i a ha => ?_, fun i c hc => ?_⟩, by decide⟩
  · obtain ⟨rfl, rfl⟩ := fetch_one ha; decide
  · obtain ⟨rfl, rfl⟩ := fetch_one hc
    exact ⟨by decide, fun _ r hr => by cases hr; exact ⟨{ billed with held := 500 }, by decide⟩⟩

/-- It keeps the accounts' lists, the held figures and the totals. -/
theorem witness_records : scFull.foliosOk ∧ scFull.holdsOk ∧ scFull.ledgerOk := by
  refine ⟨⟨fun i c j d hc hd _ => ?_, fun i c j d hc hd _ => ?_, fun i c j d hc hd _ => ?_, fun i a ha => ?_⟩,
    ⟨fun i x h hx hl => ?_, fun i a ha => ?_, fun i c hc => ?_⟩, fun i a ha => ?_, fun e he => ?_⟩
  · rw [(fetch_one hc).1, (fetch_one hd).1]
  · rw [(fetch_one hc).1, (fetch_one hd).1]
  · rw [(fetch_one hc).1, (fetch_one hd).1]
  · obtain ⟨rfl, rfl⟩ := fetch_one ha
    exact ⟨by decide, by decide, by decide, by decide, fun h hh => ⟨{ guest with held := 500 }, by
      cases hh <;> [decide; contradiction]⟩⟩
  · obtain ⟨rfl, rfl⟩ := fetch_one hx; cases hl
    exact ⟨⟨{ billed with held := 500 }, by decide⟩, { guest with held := 500 }, by decide⟩
  · obtain ⟨rfl, rfl⟩ := fetch_one ha; decide
  · obtain ⟨rfl, rfl⟩ := fetch_one hc; decide
  · obtain ⟨rfl, rfl⟩ := fetch_one ha
    refine ⟨by decide, by decide, fun q hq => ?_⟩
    have : 1 = q := by simpa [billed, bill] using hq.symm
    subst this; exact ⟨by decide, by decide⟩
  · cases he with
    | head => exact ⟨by decide, by decide, by simp [meal], by simp [meal]⟩
    | tail _ h => cases h

/-- It meets the checks as well, and its next step, of a tick, is a next state. -/
theorem witness_GrantsStayTwoSided_HeldFigures_Totals :
    scFull.tablesWf = true ∧ scFull.logOk = true ∧ scCounted.tablesWf = true ∧ scCounted.grantsOk ∧
    ∃ t, step { scFull with pending := [.tick] } = .next t :=
  ⟨by decide, by decide, by decide, sc_grantsOk bill, _, rfl⟩

/-- Its next step, of a tick, is a next state. -/
theorem witness_step : ∃ t, step { scCounted with pending := [.tick] } = .next t := ⟨_, rfl⟩

end Sys2Proof.Tests
end

section
/-! PROOFS. What the steps do to the records, said once: tables whose records follow those of another, and a
classification of everything a step may do to the roster, accounts, cabins, holds, log, unlocks and closures. -/

namespace Sys2Proof.Machine

/-! ## Tables that follow one another -/

section Tables

variable {α : Type} {R : α → α → Prop}

/-- The same slots are listed in both tables, each record of one related to that of the other. -/
structure Tracks (R : α → α → Prop) (t t' : Table α) : Prop where
  wf : ∀ slots, t.wf slots = true → t'.wf slots = true
  onto : ∀ k a, t.fetch k = some a → ∃ a', t'.fetch k = some a' ∧ R a a'
  back : ∀ k a', t'.fetch k = some a' → ∃ a, t.fetch k = some a ∧ R a a'

theorem Tracks.refl (hR : ∀ a, R a a) (t : Table α) : Tracks R t t :=
  ⟨fun _ h => h, fun _ a h => ⟨a, h, hR a⟩, fun _ a h => ⟨a, h, hR a⟩⟩

theorem Tracks.trans (hR : ∀ {a b c}, R a b → R b c → R a c) {t u v : Table α} (h : Tracks R t u)
    (k : Tracks R u v) : Tracks R t v := by
  refine ⟨fun n hn => k.wf n (h.wf n hn), fun i a ha => ?_, fun i c hc => ?_⟩
  · obtain ⟨b, hb, hab⟩ := h.onto i a ha
    obtain ⟨c, hc, hbc⟩ := k.onto i b hb
    exact ⟨c, hc, hR hab hbc⟩
  · obtain ⟨b, hb, hbc⟩ := k.back i c hc
    obtain ⟨a, ha, hab⟩ := h.back i b hb
    exact ⟨a, ha, hR hab hbc⟩

theorem Tracks.mono {S : α → α → Prop} (hRS : ∀ a b, R a b → S a b) {t t' : Table α} (h : Tracks R t t') :
    Tracks S t t' := by
  refine ⟨h.wf, fun k a ha => ?_, fun k b hb => ?_⟩
  · obtain ⟨b, hb, hab⟩ := h.onto k a ha
    exact ⟨b, hb, hRS a b hab⟩
  · obtain ⟨a, ha, hab⟩ := h.back k b hb
    exact ⟨a, ha, hRS a b hab⟩

/-- Tables that read alike but at one listed slot, whose record is rewritten. -/
theorem Tracks.of_slot (hR : ∀ a, R a a) {t t' : Table α} {k : Nat} {a x : α}
    (hw : ∀ slots, t.wf slots = true → t'.wf slots = true) (ha : t.fetch k = some a) (hx : t'.fetch k = some x)
    (hne : ∀ j, j ≠ k → t'.fetch j = t.fetch j) (hax : R a x) : Tracks R t t' := by
  refine ⟨hw, fun j b hb => ?_, fun j b hb => ?_⟩ <;> by_cases hj : j = k
  · subst hj; rw [ha] at hb; cases hb; exact ⟨x, hx, hax⟩
  · exact ⟨b, (hne j hj).trans hb, hR b⟩
  · subst hj; rw [hx] at hb; cases hb; exact ⟨a, ha, hax⟩
  · exact ⟨b, (hne j hj).symm.trans hb, hR b⟩

theorem Tracks.store (hR : ∀ a, R a a) {t : Table α} {k : Nat} {a x : α} (ha : t.fetch k = some a) (hx : R a x) :
    Tracks R t (t.store k x) :=
  Tracks.of_slot hR (fun _ h => Table.wf_store x h (Table.slot_lt h (Table.mem_of_fetch ha))) ha
    (Table.fetch_store_same t k x) (fun _ hj => Table.fetch_store_ne t x hj) hx

theorem Tracks.modify (hR : ∀ a, R a a) (t : Table α) (k : Nat) (f : α → α)
    (hf : ∀ a, t.fetch k = some a → R a (f a)) : Tracks R t (t.modify k f) := by
  cases ha : t.fetch k with
  | none =>
    have same : ∀ j, (t.modify k f).fetch j = t.fetch j := by
      intro j
      rw [Table.fetch_modify]
      split
      · subst_vars; rw [ha]; rfl
      · rfl
    exact ⟨fun _ => Table.wf_modify k f, fun j a h => ⟨a, (same j).trans h, hR a⟩,
      fun j a h => ⟨a, (same j).symm.trans h, hR a⟩⟩
  | some a =>
    refine Tracks.of_slot hR (fun _ => Table.wf_modify k f) ha (x := f a) ?_ (fun j hj => ?_) (hf a ha)
    · rw [Table.fetch_modify, if_pos rfl, ha]; rfl
    · rw [Table.fetch_modify, if_neg hj]

/-! ## Reading a table's records -/

/-- Where no record carries a key, no slot reads as one that does. -/
theorem Table.fetch_of_search_none {t : Table α} {p : α → Bool} (h : t.search p = none) {k : Nat} {a : α}
    (ha : t.fetch k = some a) : p a = false := by
  induction t with
  | nil => cases ha
  | cons e rest ih =>
    obtain ⟨i, b⟩ := e
    simp only [Table.search] at h
    simp only [Table.fetch] at ha
    split at h
    · cases h
    · split at ha
      · cases ha; exact eq_false_of_ne_true ‹_›
      · exact ih h ha

/-- A property of every listed record is one of every record that a slot reads as. -/
theorem Table.all_iff_fetch {t : Table α} {slots : Nat} (hw : t.wf slots = true) (p : α → Bool) :
    t.all (fun e => p e.2) = true ↔ ∀ k a, t.fetch k = some a → p a = true := by
  rw [List.all_eq_true]
  constructor
  · exact fun h k a ha => h _ (Table.mem_of_fetch ha)
  · exact fun h e he => h e.1 e.2 (Table.fetch_of_mem (Table.rising_of_wf hw) he)

/-- A listed slot is no FREE slot. -/
theorem Table.ne_of_fetch {t : Table α} {i k : Nat} {a : α} (hi : t.fetch i = some a) (hk : t.fetch k = none) :
    i ≠ k := by
  rintro rfl; rw [hi] at hk; cases hk

/-- What a slot reads as after a write: the record written, or at another slot the record as it was. -/
theorem Table.fetch_store_cases {t : Table α} {k i : Nat} {x a : α} (h : (t.store k x).fetch i = some a) :
    (i = k ∧ a = x) ∨ (i ≠ k ∧ t.fetch i = some a) := by
  by_cases hi : i = k
  · subst hi; rw [Table.fetch_store_same] at h; exact .inl ⟨rfl, (Option.some.inj h).symm⟩
  · rw [Table.fetch_store_ne _ _ hi] at h; exact .inr ⟨hi, h⟩

/-- A slot that reads as a record after another was freed is one of the other slots, as it was. -/
theorem Table.fetch_remove_cases {t : Table α} {slots k i : Nat} {a : α} (hw : t.wf slots = true)
    (h : (t.remove k).fetch i = some a) : i ≠ k ∧ t.fetch i = some a := by
  by_cases hi : i = k
  · subst hi; rw [Table.fetch_remove_same _ (Table.rising_of_wf hw)] at h; cases h
  · rw [Table.fetch_remove_ne _ hi] at h; exact ⟨hi, h⟩

end Tables

/-- The canonical form of every table, table by table. -/
theorem State.tablesWf_iff {s : State} : s.tablesWf = true ↔
    s.roster.wf Config.cardholderSlots = true ∧ s.accounts.wf Config.accountSlots = true ∧
      s.cabins.wf Config.cabinSlots = true ∧ s.holds.wf Config.holdSlots = true := by
  simp [State.tablesWf, and_assoc]

theorem State.roster_wf {s : State} (h : s.tablesWf = true) : s.roster.wf Config.cardholderSlots = true :=
  (State.tablesWf_iff.mp h).left

theorem State.accounts_wf {s : State} (h : s.tablesWf = true) : s.accounts.wf Config.accountSlots = true :=
  (State.tablesWf_iff.mp h).right.left

theorem State.cabins_wf {s : State} (h : s.tablesWf = true) : s.cabins.wf Config.cabinSlots = true :=
  (State.tablesWf_iff.mp h).right.right.left

theorem State.holds_wf {s : State} (h : s.tablesWf = true) : s.holds.wf Config.holdSlots = true :=
  (State.tablesWf_iff.mp h).right.right.right

section Lookup

variable {s : State} {slot key : Nat}

theorem State.fetch_of_findCard {c : Cardholder} (hw : s.tablesWf = true) (h : s.findCard key = some (slot, c)) :
    s.roster.fetch slot = some c ∧ c.card = key :=
  ⟨Table.fetch_of_search (State.roster_wf hw) h, by simpa using Table.search_pred h⟩

theorem State.fetch_of_findFolio {a : Account} (hw : s.tablesWf = true) (h : s.findFolio key = some (slot, a)) :
    s.accounts.fetch slot = some a ∧ a.folio = key :=
  ⟨Table.fetch_of_search (State.accounts_wf hw) h, by simpa using Table.search_pred h⟩

theorem State.fetch_of_findCabin {k : Cabin} (hw : s.tablesWf = true) (h : s.findCabin key = some (slot, k)) :
    s.cabins.fetch slot = some k ∧ k.number = key :=
  ⟨Table.fetch_of_search (State.cabins_wf hw) h, by simpa using Table.search_pred h⟩

/-- A LIVE hold that a slot of the hold table reads as is listed. -/
theorem State.fetch_of_holdSlot {h : Hold} (hl : (s.holdSlot slot).live = some h) :
    s.holds.fetch slot = some (s.holdSlot slot) := by
  unfold State.holdSlot at hl ⊢
  cases hf : s.holds.fetch slot with
  | none => rw [hf] at hl; cases hl
  | some x => rfl

end Lookup

end Sys2Proof.Machine
end

section
/-! PROOFS. Steps that are calm for the records: they edit cardholders and cabins in place, and leave the accounts,
holds and log as they are. -/

namespace Sys2Proof.Machine

/-! ## The records of a state -/

/-- The part of a state that the invariants of the records speak of. -/
structure Records where
  roster : Table Cardholder
  accounts : Table Account
  nextSerial : Nat
  cabins : Table Cabin
  unlocks : List Unlock
  nextToken : Nat
  log : List Entry
  nextSeq : Nat
  holds : Table HoldSlot
  closures : List Summary
  shipDay : Nat

def State.records (s : State) : Records :=
  { roster := s.roster, accounts := s.accounts, nextSerial := s.nextSerial, cabins := s.cabins, unlocks := s.unlocks,
    nextToken := s.nextToken, log := s.log, nextSeq := s.nextSeq, holds := s.holds, closures := s.closures,
    shipDay := s.shipDay }

/-- The reset state with records put in: a state for each value of the records. -/
def Records.state (r : Records) : State :=
  { State.reset with
    roster := r.roster, accounts := r.accounts, nextSerial := r.nextSerial, cabins := r.cabins, unlocks := r.unlocks,
    nextToken := r.nextToken, log := r.log, nextSeq := r.nextSeq, holds := r.holds, closures := r.closures,
    shipDay := r.shipDay }

/-- A property that only the records enter holds of every state with the same records. -/
theorem of_records_eq {I : State → Prop} (hI : ∀ s, I s ↔ I s.records.state) {s t : State}
    (h : t.records = s.records) (hs : I s) : I t := by
  rw [hI t, h, ← hI s]; exact hs

/-! ## Records edited in place -/

/-- A cardholder with the fields that grants, account lists and holds name as they were, in range still. -/
structure Cardholder.Steady (c d : Cardholder) : Prop where
  card : d.card = c.card
  kind : d.kind = c.kind
  account : d.account = c.account
  cabins : d.cabins = c.cabins
  held : d.held = c.held
  closed : d.state = .closed ↔ c.state = .closed
  range : c.inRange = true → d.inRange = true

/-- A cardholder with its spending as it was, too. -/
structure Cardholder.Edited (c d : Cardholder) : Prop extends Cardholder.Steady c d where
  spent : d.spent = c.spent
  spentDay : d.spentDay = c.spentDay

/-- An account with its keys, list and held total as they were, OPEN still, its cursor in SETTLING alone still. -/
structure Account.Steady (a b : Account) : Prop where
  folio : b.folio = a.folio
  serial : b.serial = a.serial
  holders : b.holders = a.holders
  held : b.held = a.held
  opened : a.state = .opened → b.state = .opened
  cursor : (a.cursor ≠ none → a.state = .settling) → b.cursor ≠ none → b.state = .settling

/-- A cabin with its number and grantees as they were, and no privacy set on an ungranted one. -/
structure Cabin.Steady (k r : Cabin) : Prop where
  number : r.number = k.number
  grantees : r.grantees = k.grantees
  privacy : r.privacy = true → k.privacy = true ∨ k.grantees ≠ []

theorem Cardholder.Steady.refl (c : Cardholder) : c.Steady c := ⟨rfl, rfl, rfl, rfl, rfl, Iff.rfl, id⟩

theorem Cardholder.Steady.trans {c d e : Cardholder} (h : c.Steady d) (k : d.Steady e) : c.Steady e :=
  ⟨k.card.trans h.card, k.kind.trans h.kind, k.account.trans h.account, k.cabins.trans h.cabins, k.held.trans h.held,
    k.closed.trans h.closed, fun hc => k.range (h.range hc)⟩

theorem Cardholder.Edited.refl (c : Cardholder) : c.Edited c := ⟨.refl c, rfl, rfl⟩

theorem Cardholder.Edited.trans {c d e : Cardholder} (h : c.Edited d) (k : d.Edited e) : c.Edited e :=
  ⟨h.toSteady.trans k.toSteady, k.spent.trans h.spent, k.spentDay.trans h.spentDay⟩

theorem Account.Steady.refl (a : Account) : a.Steady a := ⟨rfl, rfl, rfl, rfl, id, id⟩

theorem Account.Steady.trans {a b c : Account} (h : a.Steady b) (k : b.Steady c) : a.Steady c :=
  ⟨k.folio.trans h.folio, k.serial.trans h.serial, k.holders.trans h.holders, k.held.trans h.held,
    fun ha => k.opened (h.opened ha), fun ha => k.cursor (h.cursor ha)⟩

theorem Cabin.Steady.refl (k : Cabin) : k.Steady k := ⟨rfl, rfl, .inl⟩

theorem Cabin.Steady.trans {k l m : Cabin} (h : k.Steady l) (h' : l.Steady m) : k.Steady m := by
  refine ⟨h'.number.trans h.number, h'.grantees.trans h.grantees, fun hp => ?_⟩
  rcases h'.privacy hp with hl | hl
  · exact h.privacy hl
  · exact .inr (h.grantees ▸ hl)

/-- What the range of a cardholder's small fields says. -/
theorem Cardholder.inRange_iff {c : Cardholder} : c.inRange = true ↔
    c.gen ≤ 255 ∧ -32 ≤ c.capOffset ∧ c.capOffset ≤ 31 ∧ c.conflicts ≤ 15 ∧
      c.presence.isSome = (c.kind != .staff) ∧ c.account.isSome = (c.kind != .staff) := by
  simp [Cardholder.inRange, and_assoc]

/-! ## Calm steps -/

/-- Cardholders and cabins are edited in place, the unlock list keeps its law, no closure is added and the ship day
does not fall; accounts, holds and log are as they were. -/
structure Calm (s t : State) : Prop where
  roster : Tracks Cardholder.Edited s.roster t.roster
  cabins : Tracks Cabin.Steady s.cabins t.cabins
  accounts : t.accounts = s.accounts
  nextSerial : t.nextSerial = s.nextSerial
  holds : t.holds = s.holds
  log : t.log = s.log
  nextSeq : t.nextSeq = s.nextSeq
  unlocks : s.unlocksOk = true → t.unlocksOk = true
  closures : t.closures.length ≤ s.closures.length
  day : s.shipDay ≤ t.shipDay

theorem Calm.trans {s t u : State} (h : Calm s t) (k : Calm t u) : Calm s u :=
  ⟨h.roster.trans .trans k.roster, h.cabins.trans .trans k.cabins, k.accounts.trans h.accounts,
    k.nextSerial.trans h.nextSerial, k.holds.trans h.holds, k.log.trans h.log, k.nextSeq.trans h.nextSeq,
    fun hu => k.unlocks (h.unlocks hu), Nat.le_trans k.closures h.closures, Nat.le_trans h.day k.day⟩

/-- A step that changes no more of the records than a calm one may is calm where each part it changes is. -/
theorem Calm.of_parts {s t : State} {r : Table Cardholder} {k : Table Cabin} {u : List Unlock} {n d : Nat}
    {c : List Summary}
    (h : t.records = { s.records with
      roster := r, cabins := k, unlocks := u, nextToken := n, closures := c, shipDay := d })
    (hr : Tracks Cardholder.Edited s.roster r) (hk : Tracks Cabin.Steady s.cabins k)
    (hu : s.unlocksOk = true → ({ s with unlocks := u, nextToken := n } : State).unlocksOk = true)
    (hc : c.length ≤ s.closures.length) (hd : s.shipDay ≤ d) : Calm s t := by
  simp only [State.records, Records.mk.injEq] at h
  obtain ⟨e1, e2, e3, e4, e5, e6, e7, e8, e9, e10, e11⟩ := h
  refine ⟨by rw [e1]; exact hr, by rw [e4]; exact hk, e2, e3, e9, e7, e8, fun h => ?_, by rw [e10]; exact hc,
    by rw [e11]; exact hd⟩
  have := hu h
  simp only [State.unlocksOk] at this ⊢
  rw [e5, e6]; exact this

variable {s t : State}

theorem Calm.of_records (h : t.records = s.records) : Calm s t :=
  Calm.of_parts h (.refl .refl _) (.refl .refl _) id (Nat.le_refl _) (Nat.le_refl _)

theorem Calm.refl (s : State) : Calm s s := .of_records rfl

theorem Calm.of_roster {r : Table Cardholder} (h : t.records = { s.records with roster := r })
    (hr : Tracks Cardholder.Edited s.roster r) : Calm s t :=
  Calm.of_parts h hr (.refl .refl _) id (Nat.le_refl _) (Nat.le_refl _)

theorem Calm.of_cabins {k : Table Cabin} (h : t.records = { s.records with cabins := k })
    (hk : Tracks Cabin.Steady s.cabins k) : Calm s t :=
  Calm.of_parts h (.refl .refl _) hk id (Nat.le_refl _) (Nat.le_refl _)

theorem Calm.of_unlocks {u : List Unlock} {n : Nat} (h : t.records = { s.records with unlocks := u, nextToken := n })
    (hu : s.unlocksOk = true → ({ s with unlocks := u, nextToken := n } : State).unlocksOk = true) : Calm s t :=
  Calm.of_parts h (.refl .refl _) (.refl .refl _) hu (Nat.le_refl _) (Nat.le_refl _)

theorem Calm.of_closures {c : List Summary} (h : t.records = { s.records with closures := c })
    (hc : c.length ≤ s.closures.length) : Calm s t :=
  Calm.of_parts h (.refl .refl _) (.refl .refl _) id hc (Nat.le_refl _)

theorem Calm.of_day {d : Nat} (h : t.records = { s.records with shipDay := d }) (hd : s.shipDay ≤ d) : Calm s t :=
  Calm.of_parts h (.refl .refl _) (.refl .refl _) id (Nat.le_refl _) hd

/-- One cardholder rewritten in place. -/
theorem Calm.card {slot : Nat} {c d : Cardholder} (hc : s.roster.fetch slot = some c)
    (h : t.records = { s.records with roster := s.roster.store slot d }) (hd : c.Edited d) : Calm s t :=
  .of_roster h (.store .refl hc hd)

/-- One cabin rewritten in place. -/
theorem Calm.cabin {slot : Nat} {k r : Cabin} (hk : s.cabins.fetch slot = some k)
    (h : t.records = { s.records with cabins := s.cabins.store slot r }) (hr : k.Steady r) : Calm s t :=
  .of_cabins h (.store .refl hk hr)

/-! ## Conflict reports and declines (01 R11, R12; 04 R76, R77; 02 R37) -/

theorem Calm.reportConflict (s : State) (slot : Nat) : Calm s (s.reportConflict slot) := by
  unfold State.reportConflict
  split
  · exact .refl s
  · rename_i c hc
    have edited : ∀ st : CardState, (st = .closed ↔ c.state = .closed) →
        c.Edited { c with conflicts := conflictsAfter c.conflicts, state := st } := by
      refine fun st hst => ⟨⟨rfl, rfl, rfl, rfl, rfl, hst, fun h => ?_⟩, rfl, rfl⟩
      obtain ⟨h1, h2, h3, -, h5, h6⟩ := Cardholder.inRange_iff.mp h
      exact Cardholder.inRange_iff.mpr ⟨h1, h2, h3, Nat.min_le_left _ _, h5, h6⟩
    dsimp only
    split
    · rename_i hs
      have ha : c.state = .active := by simp [suspends] at hs; exact hs.2
      exact .card hc rfl (edited .suspended (by simp [ha]))
    · exact .card hc rfl (edited c.state Iff.rfl)

theorem Calm.declineEffect (s : State) (card : Nat) (r : Result) : Calm s (s.declineEffect card r) := by
  unfold State.declineEffect
  split
  · exact .of_records rfl
  · split
    · exact .refl s
    · exact .reportConflict _ _
  · exact .refl s

theorem Calm.sideReport (s : State) (slot : Nat) (c : Cardholder) (v : AccessVerdict) :
    Calm s (s.sideReport slot c v) := by
  unfold State.sideReport
  split
  · exact .of_records rfl
  · exact .reportConflict _ _
  · exact .refl s

/-! ## Cabins: history, lock faults, pending unlocks (chapter 2) -/

theorem Calm.addEvent (s : State) (slot card : Nat) (r : HistoryResult) : Calm s (s.addEvent slot card r) :=
  .of_cabins rfl (.modify .refl _ _ _ (fun _ _ => ⟨rfl, rfl, .inl⟩))

theorem Calm.denialEvent (s : State) (card cabin : Nat) (v : AccessVerdict) : Calm s (s.denialEvent card cabin v) := by
  unfold State.denialEvent
  split
  · exact .refl s
  · exact .refl s
  · exact .refl s
  · split
    · exact .refl s
    · exact .addEvent _ _ _ _

theorem Calm.jamIf (s : State) (o : HistoryResult) (slot number token : Nat) :
    Calm s (s.jamIf o slot number token) := by
  unfold State.jamIf
  split
  · exact .of_cabins rfl (.modify .refl _ _ _ (fun _ _ => ⟨rfl, rfl, .inl⟩))
  · exact .refl s

/-- What the law of the unlock list says (02 R30, R31). -/
theorem State.unlocksOk_iff : s.unlocksOk = true ↔
    s.unlocks.length ≤ 64 ∧ (s.unlocks.map (·.cabin)).Nodup ∧ 1 ≤ s.nextToken ∧ s.nextToken ≤ 65535 := by
  simp [State.unlocksOk, and_assoc]

theorem Calm.dropUnlock (s : State) (cabin : Nat) : Calm s (s.dropUnlock cabin) := by
  refine .of_unlocks rfl (fun h => ?_)
  obtain ⟨h1, h2, h3⟩ := State.unlocksOk_iff.mp h
  exact State.unlocksOk_iff.mpr ⟨Nat.le_trans (List.length_filter_le _ _) h1,
    h2.sublist (List.filter_sublist.map _), h3⟩

theorem Calm.regrant (s : State) (p : Port) (cabin : Nat) : Calm s (s.regrant p cabin) := by
  refine .of_unlocks rfl (fun h => ?_)
  obtain ⟨h1, h2, h3⟩ := State.unlocksOk_iff.mp h
  have same : (s.unlocks.map (fun u => if u.cabin = cabin then { u with port := p, deadline := s.unlockBy } else u)).map
      (·.cabin) = s.unlocks.map (·.cabin) := by
    rw [List.map_map]
    refine List.map_congr_left (fun u _ => ?_)
    simp only [Function.comp]
    split <;> rfl
  exact State.unlocksOk_iff.mpr ⟨Nat.le_trans (Nat.le_of_eq (List.length_map _)) h1, same ▸ h2, h3⟩

/-- A new entry joins a list with a place, for a cabin that has none (02 R30, R36). -/
theorem Calm.newUnlock (s : State) (p : Port) (holder cabin : Nat) (hl : s.unlocks.length < 64)
    (hn : s.unlockOf cabin = none) : Calm s (s.newUnlock p holder cabin) := by
  refine .of_unlocks rfl (fun h => ?_)
  obtain ⟨-, h2, h3, h4⟩ := State.unlocksOk_iff.mp h
  have hne : cabin ∉ s.unlocks.map (·.cabin) := by
    simp only [State.unlockOf, List.find?_eq_none, beq_iff_eq] at hn
    rintro hm
    obtain ⟨u, hu, he⟩ := List.mem_map.mp hm
    exact hn u hu he
  refine State.unlocksOk_iff.mpr ⟨?_, ?_, ?_⟩
  · simp only [State.newUnlock, List.length_append, List.length_singleton]; omega
  · simp only [State.newUnlock, List.map_append, List.map_cons, List.map_nil]
    exact List.nodup_append.mpr ⟨h2, by simp, fun a ha b hb => by simp at hb; rintro rfl; exact hne (hb ▸ ha)⟩
  · simp only [State.newUnlock, tokenAfter]; split <;> omega

theorem Calm.expireUnlock (s : State) (cabin : Nat) : Calm s (s.expireUnlock cabin) := by
  unfold State.expireUnlock
  split
  · exact .refl s
  · rename_i u _
    refine ((Calm.dropUnlock s cabin).trans
      (.addEvent (s.dropUnlock cabin) cabin ((s.cardNumber u.holder).getD 0) .unconfirmed)).trans
      (.of_cabins rfl ?_)
    exact .refl .refl _

/-! ## Presence (chapter 7) -/

/-- A move of a guest's presence edits its record (07 R133). -/
theorem Calm.movePresence (s : State) (slot : Nat) (p q : Presence) (tr : Option Transit)
    (hg : ∀ c, s.roster.fetch slot = some c → c.presence.isSome = true) : Calm s (s.movePresence slot p q tr) := by
  refine .of_roster rfl (.modify .refl _ _ _ (fun c hc => ⟨⟨rfl, rfl, rfl, rfl, rfl, Iff.rfl, fun h => ?_⟩, rfl, rfl⟩))
  obtain ⟨h1, h2, h3, h4, h5, h6⟩ := Cardholder.inRange_iff.mp h
  exact Cardholder.inRange_iff.mpr ⟨h1, h2, h3, h4, by rw [← h5, hg c hc]; rfl, h6⟩

theorem Calm.leaveMissing (s : State) (slot : Nat) : Calm s (s.leaveMissing slot) := by
  obtain ⟨_, _, _, e⟩ := State.leaveMissing_frame s slot
  rw [e]; exact .of_records rfl

theorem Calm.followPresence (s : State) (slot : Nat) (q : Presence) : Calm s (s.followPresence slot q) := by
  unfold State.followPresence
  split
  · exact .refl s
  cases q with
  | ashore => exact .of_records rfl
  | aboard | disembarked | notBoarded => exact .leaveMissing _ _

theorem Calm.setPresence (s : State) (slot : Nat) (p q : Presence)
    (hg : ∀ c, s.roster.fetch slot = some c → c.presence.isSome = true) : Calm s (s.setPresence slot p q) := by
  unfold State.setPresence
  split
  · exact .refl s
  · exact (Calm.movePresence s slot p q _ hg).trans (.followPresence _ _ _)

/-- A decision moves the presence of guests alone (07 R134 to R139). -/
def ReadEffect.ofGuest (s : State) : ReadEffect → Prop
  | .nothing => True
  | .conflict _ => True
  | .leaves slot _ => ∀ c, s.roster.fetch slot = some c → c.presence.isSome = true
  | .boards slot _ => ∀ c, s.roster.fetch slot = some c → c.presence.isSome = true

theorem decideRead_ofGuest {s : State} (hw : s.tablesWf = true) (card gen : Nat) (dir : Direction) :
    (s.decideRead card gen dir).effect.ofGuest s := by
  unfold State.decideRead
  split
  · trivial
  split
  · trivial
  rename_i slot c hf
  have key : c.presence.isSome = true → ∀ d, s.roster.fetch slot = some d → d.presence.isSome = true := by
    intro hp d hd
    rw [(State.fetch_of_findCard hw hf).1] at hd; cases hd; exact hp
  split
  · trivial
  split
  · trivial
  split
  · trivial
  cases dir with
  | outward =>
    simp only [State.decideOut]
    split
    · trivial
    rename_i hp
    split
    · trivial
    split
    · trivial
    split
    · trivial
    · exact key (by rw [not_not.mp hp]; rfl)
  | inward =>
    simp only [State.decideIn]
    split
    · trivial
    split
    · trivial
    · rename_i hp
      split
      · trivial
      · exact key (by rw [hp]; rfl)
    · rename_i hp
      split
      · trivial
      · exact key (by rw [hp]; rfl)
    · trivial
    · trivial

theorem judge_ofGuest {s : State} (hw : s.tablesWf = true) (l : Lane) (r : LaneRead) :
    (s.judge l r).effect.ofGuest s := by
  unfold State.judge
  split
  · trivial
  · exact decideRead_ofGuest hw _ _ _

theorem Calm.applyRead (s : State) (l : Lane) (e : ReadEffect) (he : e.ofGuest s) : Calm s (s.applyRead l e) := by
  cases e with
  | nothing => exact .refl s
  | conflict slot => exact .reportConflict s slot
  | leaves slot goal => exact .movePresence s slot _ _ _ he
  | boards slot former => exact (Calm.movePresence s slot _ _ _ he).trans (.leaveMissing _ _)

/-! ## Reads on the lanes (chapter 6) -/

theorem Calm.modLane (s : State) (l : Lane) (f : LaneState → LaneState) : Calm s (s.modLane l f) := .of_records rfl

theorem Calm.takeRead (s : State) (hw : s.tablesWf = true) (l : Lane) (r : LaneRead) : Calm s (s.takeRead l r) := by
  unfold State.takeRead
  repeat' split
  · exact .modLane _ _ _
  · exact .modLane _ _ _
  · exact (Calm.applyRead s l _ (judge_ofGuest hw l r)).trans (.modLane _ _ _)

theorem Calm.validRead (s : State) (hw : s.tablesWf = true) (l : Lane) (r : LaneRead) : Calm s (s.validRead l r) := by
  unfold State.validRead
  repeat' split
  · exact .takeRead s hw l r
  · exact .modLane _ _ _
  · exact .modLane _ _ _

theorem Calm.completeMessage (s : State) (hw : s.tablesWf = true) (l : Lane) (kind : Byte) (card : BitVec 32)
    (gen direction seq : Byte) (crc : BitVec 16) : Calm s (s.completeMessage l kind card gen direction seq crc) := by
  unfold State.completeMessage
  repeat' split
  · exact .modLane _ _ _
  · exact .modLane _ _ _
  · exact .modLane _ _ _
  · exact (Calm.modLane s l _).trans (.validRead (s.modLane l _) hw _ _)

theorem Calm.readMessage (s : State) (hw : s.tablesWf = true) (l : Lane) (kind : Byte) (card : BitVec 32)
    (gen direction seq : Byte) (crc : BitVec 16) : Calm s (s.readMessage l kind card gen direction seq crc) := by
  unfold State.readMessage
  split
  · exact .refl s
  · exact .completeMessage s hw _ _ _ _ _ _ _

theorem Calm.laneByte (s : State) (hw : s.tablesWf = true) (l : Lane) (b : Byte) : Calm s (s.laneByte l b) := by
  unfold State.laneByte State.takeByte State.completeBytes
  split
  · exact .refl s
  split
  · split
    · exact .modLane _ _ _
    · exact .refl s
  · split
    · exact .modLane _ _ _
    · exact .completeMessage s hw _ _ _ _ _ _ _

theorem Calm.endOfTransmission (s : State) (hw : s.tablesWf = true) (l : Lane) : Calm s (s.endOfTransmission l) := by
  unfold State.endOfTransmission
  repeat' split
  · exact .refl s
  · exact .modLane _ _ _
  · exact (Calm.modLane s l _).trans (.takeRead (s.modLane l _) hw _ _)

/-! ## The clock (chapter 8) -/

theorem Calm.advanceTo (s : State) (time : Nat) : Calm s (s.advanceTo time) := by
  have hd := advanceTo_day s time
  obtain ⟨_, _, _, _, _, _, e⟩ := State.advanceTo_frame s time
  rw [e] at hd ⊢
  exact .of_day rfl hd

theorem Calm.advance (s : State) : Calm s s.advance := by
  unfold State.advance
  split
  · exact .advanceTo s _
  · exact .refl s

theorem Calm.takeTick (s : State) : Calm s s.takeTick := by
  have ticked := Calm.advance s
  unfold State.takeTick
  split
  · exact ticked.trans (.of_records rfl)
  · exact ticked.trans (.of_records rfl)

theorem Calm.loseTick (s : State) : Calm s s.loseTick := by
  unfold State.loseTick
  split
  · exact .refl s
  · exact ((Calm.of_records rfl : Calm s (s.reach _)).trans (.advance _)).trans (.of_records rfl)

theorem Calm.takeSecond (s : State) : Calm s s.takeSecond := by
  unfold State.takeSecond
  split
  · exact .refl s
  · exact ((Calm.of_records rfl : Calm s (s.reach _)).trans (.advance _)).trans (.of_records rfl)

end Sys2Proof.Machine
end

section
/-! PROOFS. Everything a step may do to the records: it is calm, or makes one of the moves named here. -/

namespace Sys2Proof.Machine

/-! ## The moves -/

/-- An account rewritten steadily, its amounts in range still. -/
structure Account.Billed (a b : Account) : Prop extends Account.Steady a b where
  range : a.inRange = true → b.inRange = true

/-- What a settlement walk of an OPEN chain may leave of its account (05 R101): the walk's account, or at the end of the
chain that account SETTLED. -/
def walkLeaves (w : Walk) (b : Account) : Prop :=
  b = w.account ∨ (b = { w.account with state := .settled } ∧ w.account.cursor = none)

/-- The moves of the records that a step may make. -/
inductive Moves (s : State) : State → Prop
  | calm {t : State} (h : Calm s t) : Moves s t
  | apart {u t : State} (e : t.records = u.records) (h : Moves s u) : Moves s t
  | cleared {t : State} (e : t.records = State.reset.records) : Moves s t
  | bill {slot : Nat} {a b : Account} (ha : s.accounts.fetch slot = some a) (hb : a.Billed b) :
      Moves s (s.withAccount slot b)
  | settleBegin {slot : Nat} {a : Account} (ha : s.accounts.fetch slot = some a) (hl : s.liveHolds a.serial = 0) :
      Moves s (s.withAccount slot { a with state := .settling, cursor := a.first })
  | settleStep {slot : Nat} {a b : Account} (ha : s.accounts.fetch slot = some a) (hs : a.state = .settling)
      (hb : walkLeaves (walk s.log a 0 Config.settleStride) b) :
      Moves s (s.walked slot (walk s.log a 0 Config.settleStride) b)
  | adjust (folio : BitVec 32) (kind : Byte) (amount : BitVec 32) : Moves s (serveAdjust folio kind amount s).1
  | charge (p : Port) (outlet : BitVec 16) (cls : Byte) (unit : BitVec 32) (qty : Byte) (cards : List Presentation) :
      Moves s (serveCharge p outlet cls unit qty cards s).1
  | void {e : Entry} {g : List Entry} (hg : s.voidGroup e = .ok g) : Moves s (s.voidAll g)
  | enrolStaff {slot card : Nat} (mask : BitVec 32) (hslot : s.roster.freeSlot Config.cardholderSlots = some slot)
      (hc : s.findCard card = none) : Moves s (s.withCard slot (newStaff card mask))
  | enrolGuest {slot card aslot : Nat} {kind : CardKind} {a : Account} (mask : BitVec 8) (hk : kind ≠ .staff)
      (hslot : s.roster.freeSlot Config.cardholderSlots = some slot) (hc : s.findCard card = none)
      (ha : s.accounts.fetch aslot = some a) (hl : a.holders.length < Config.holdersPerAccount) :
      Moves s { s with
        roster := s.roster.store slot (newGuest kind card a.serial aslot mask s.shipDay)
        accounts := s.accounts.store aslot { a with holders := a.holders ++ [slot] } }
  | purge {slot : Nat} {c : Cardholder} (hc : s.roster.fetch slot = some c) (hp : c.purgeable = true) :
      Moves s { s with roster := s.roster.remove slot }
  | openAccount {slot folio limit deposit : Nat} (hslot : s.accounts.freeSlot Config.accountSlots = some slot)
      (hf : s.findFolio folio = none) (hl : limit ≤ Config.capMax) (hd : deposit ≤ Config.depositMax) :
      Moves s { s with
        accounts := s.accounts.store slot
          { state := .opened, folio := folio, serial := s.nextSerial, holders := [], limit := limit,
            deposit := deposit, package := 0, minorRelease := false, posted := 0, held := 0, settled := 0,
            first := none, last := none, count := 0, cursor := none }
        nextSerial := s.nextSerial + 1 }
  | close {slot : Nat} {a : Account} (ha : s.accounts.fetch slot = some a) (hs : a.state = .settled)
      (hq : s.closures.length < Config.closurePlaces) : Moves s (s.closeAccount slot a)
  | define {slot number deck : Nat} (hslot : s.cabins.freeSlot Config.cabinSlots = some slot)
      (hn : s.findCabin number = none) :
      Moves s (s.withCabin slot
        { number := number, deck := deck, blocked := .none, privacy := false, grantees := [], history := [] })
  | undefine {slot : Nat} {k : Cabin} (hk : s.cabins.fetch slot = some k) (hg : k.grantees = []) :
      Moves s { s with cabins := s.cabins.remove slot }
  | grant {slot kslot : Nat} {c : Cardholder} {k : Cabin} (hc : s.roster.fetch slot = some c)
      (hk : s.cabins.fetch kslot = some k) (hs : ¬ (c.kind = .staff ∨ c.state = .closed)) (hn : kslot ∉ c.cabins)
      (hl : c.cabins.length < Config.cabinsPerCardholder) (hg : k.grantees.length < Config.granteesPerCabin) :
      Moves s { s with
        roster := s.roster.store slot { c with cabins := c.cabins ++ [kslot] }
        cabins := s.cabins.store kslot { k with grantees := k.grantees ++ [slot] } }
  | unpair (holders : List Nat) (kslot : Nat) : Moves s (holders.foldl (fun t h => t.unpair h kslot) s)
  | holdOpen (p : Port) (card : BitVec 32) (gen : Byte) (outlet : BitVec 16) (cls : Byte) (gross lifetime : BitVec 32) :
      Moves s (serveHoldOpen p card gen outlet cls gross lifetime s).1
  | holdComplete (p : Port) (slot reuse : Byte) (gross : BitVec 32) :
      Moves s (serveHoldComplete p slot reuse gross s).1
  | endHold {slot : Nat} {h : Hold} (hl : (s.holdSlot slot).live = some h) : Moves s (s.endHold slot h)

variable {s t : State}

theorem Moves.of_eq (h : t = s) : Moves s t := by rw [h]; exact .calm (.refl s)

theorem Moves.apart_of {u : State} (h : Moves s u) (e : t.records = u.records) : Moves s t := .apart e h

theorem Moves.of_records (h : t.records = s.records) : Moves s t := .calm (.of_records h)

theorem State.noteOverLimit_records (s : State) (a : Account) : (s.noteOverLimit a).records = s.records := by
  obtain ⟨_, e⟩ := State.noteOverLimit_frame s a
  rw [e]; rfl

/-! ## What each request moves -/

theorem serveReissue_moves (hw : s.tablesWf = true) (card : BitVec 32) : Moves s (serveReissue card s).1 := by
  rcases serveReissue_cases card s with e | ⟨slot, c, hf, -, hg, e⟩ <;> rw [e]
  · exact .calm (.refl s)
  · refine .calm (.card (State.fetch_of_findCard hw hf).1 rfl
      ⟨⟨rfl, rfl, rfl, rfl, rfl, Iff.rfl, fun h => ?_⟩, rfl, rfl⟩)
    obtain ⟨-, h⟩ := Cardholder.inRange_iff.mp h
    exact Cardholder.inRange_iff.mpr ⟨by dsimp only; omega, h⟩

theorem serveSuspend_moves (hw : s.tablesWf = true) (card : BitVec 32) : Moves s (serveSuspend card s).1 := by
  rcases serveSuspend_cases card s with e | ⟨slot, c, hf, ha, e⟩ <;> rw [e]
  · exact .calm (.refl s)
  · exact .calm (.card (State.fetch_of_findCard hw hf).1 rfl
      ⟨⟨rfl, rfl, rfl, rfl, rfl, by simp [ha], id⟩, rfl, rfl⟩)

theorem serveResume_moves (hw : s.tablesWf = true) (card : BitVec 32) : Moves s (serveResume card s).1 := by
  rcases serveResume_cases card s with e | ⟨slot, c, hf, ha, e⟩ <;> rw [e]
  · exact .calm (.refl s)
  · refine .calm (.card (State.fetch_of_findCard hw hf).1 rfl
      ⟨⟨rfl, rfl, rfl, rfl, rfl, by simp [ha], fun h => ?_⟩, rfl, rfl⟩)
    obtain ⟨h1, h2, h3, -, h5⟩ := Cardholder.inRange_iff.mp h
    exact Cardholder.inRange_iff.mpr ⟨h1, h2, h3, Nat.zero_le _, h5⟩

theorem serveSetClassMask_moves (hw : s.tablesWf = true) (card : BitVec 32) (mask : Byte) :
    Moves s (serveSetClassMask card mask s).1 := by
  rcases serveSetClassMask_cases card mask s with e | ⟨slot, c, hf, -, e⟩ <;> rw [e]
  · exact .calm (.refl s)
  · exact .calm (.card (State.fetch_of_findCard hw hf).1 rfl
      ⟨⟨rfl, rfl, rfl, rfl, rfl, Iff.rfl, id⟩, rfl, rfl⟩)

theorem serveSetDeckMask_moves (hw : s.tablesWf = true) (card : BitVec 32) (mask : BitVec 32) :
    Moves s (serveSetDeckMask card mask s).1 := by
  rcases serveSetDeckMask_cases card mask s with e | ⟨slot, c, hf, -, -, e⟩ <;> rw [e]
  · exact .calm (.refl s)
  · exact .calm (.card (State.fetch_of_findCard hw hf).1 rfl
      ⟨⟨rfl, rfl, rfl, rfl, rfl, Iff.rfl, id⟩, rfl, rfl⟩)

/-- A cap offset in its range written to a cardholder (03 R63, R64). -/
theorem Cardholder.edited_capOffset (c : Cardholder) {x : Int} (h1 : c.inRange = true → -32 ≤ x)
    (h2 : c.inRange = true → x ≤ 31) : c.Edited { c with capOffset := x } := by
  refine ⟨⟨rfl, rfl, rfl, rfl, rfl, Iff.rfl, fun h => ?_⟩, rfl, rfl⟩
  obtain ⟨hg, -, -, h⟩ := Cardholder.inRange_iff.mp h
  exact Cardholder.inRange_iff.mpr ⟨hg, h1 ‹_›, h2 ‹_›, h⟩

theorem serveCapUp_moves (hw : s.tablesWf = true) (card : BitVec 32) : Moves s (serveCapUp card s).1 := by
  rcases serveCapUp_cases card s with e | ⟨slot, c, hf, -, hc, e⟩ <;> rw [e]
  · exact .calm (.refl s)
  · refine .calm (.card (State.fetch_of_findCard hw hf).1 rfl (c.edited_capOffset (fun h => ?_) (fun h => ?_))) <;>
      have := Cardholder.inRange_iff.mp h <;> omega

theorem serveCapDown_moves (hw : s.tablesWf = true) (card : BitVec 32) : Moves s (serveCapDown card s).1 := by
  rcases serveCapDown_cases card s with e | ⟨slot, c, hf, -, hc, e⟩ <;> rw [e]
  · exact .calm (.refl s)
  · refine .calm (.card (State.fetch_of_findCard hw hf).1 rfl (c.edited_capOffset (fun h => ?_) (fun h => ?_))) <;>
      have := Cardholder.inRange_iff.mp h <;> omega

theorem clampOffset_range (x : Int) : -32 ≤ clampOffset x ∧ clampOffset x ≤ 31 := by
  unfold clampOffset
  split
  · omega
  · split <;> omega

theorem serveSetCapOffset_moves (hw : s.tablesWf = true) (card : BitVec 32) (offset : Byte) :
    Moves s (serveSetCapOffset card offset s).1 := by
  rcases serveSetCapOffset_cases card offset s with e | ⟨slot, c, hf, -, e⟩ <;> rw [e]
  · exact .calm (.refl s)
  · exact .calm (.card (State.fetch_of_findCard hw hf).1 rfl (c.edited_capOffset
      (fun _ => (clampOffset_range _).1) (fun _ => (clampOffset_range _).2)))

theorem serveSetPresence_moves (hw : s.tablesWf = true) (card : BitVec 32) (presence : Byte) :
    Moves s (serveSetPresence card presence s).1 := by
  rcases serveSetPresence_cases card presence s with e | ⟨q, slot, c, p, -, hf, hp, e⟩ <;> rw [e]
  · exact .calm (.refl s)
  · refine .calm (.setPresence s slot p q (fun d hd => ?_))
    rw [(State.fetch_of_findCard hw hf).1] at hd; cases hd
    rw [hp]; rfl

theorem enrolStaff_moves {card : Nat} (mask : BitVec 32) (hc : s.findCard card = none) :
    Moves s (enrolStaff card mask s).1 := by
  unfold enrolStaff
  split
  · exact .calm (.refl s)
  · exact .enrolStaff mask ‹_› hc

theorem enrolGuest_moves (hw : s.tablesWf = true) {kind : CardKind} (hk : kind ≠ .staff) {card : Nat} (folio : Nat)
    (mask : BitVec 8) (hc : s.findCard card = none) : Moves s (enrolGuest kind card folio mask s).1 := by
  unfold enrolGuest
  split
  · exact .calm (.refl s)
  split
  · exact .calm (.refl s)
  split
  · exact .calm (.refl s)
  split
  · exact .calm (.refl s)
  · rename_i slot _
    exact .apart_of (.enrolGuest mask hk ‹_› hc (State.fetch_of_findFolio hw ‹_›).1 (Nat.lt_of_not_le ‹_›)) rfl

theorem serveEnrol_moves (hw : s.tablesWf = true) (card : BitVec 32) (kind : Byte) (folio : BitVec 32)
    (classMask : Byte) (deckMask : BitVec 32) : Moves s (serveEnrol card kind folio classMask deckMask s).1 := by
  unfold serveEnrol
  split
  · exact .calm (.refl s)
  split
  · exact .calm (.refl s)
  split
  · exact .calm (.refl s)
  · have hc : s.findCard card.toNat = none := by simpa using ‹¬ (s.findCard card.toNat).isSome = true›
    split
    · exact enrolStaff_moves deckMask hc
    · exact enrolGuest_moves hw (by decide) _ _ hc
    · exact enrolGuest_moves hw (by decide) _ _ hc

theorem servePurge_moves (hw : s.tablesWf = true) (card : BitVec 32) : Moves s (servePurge card s).1 := by
  rcases servePurge_cases card s with e | ⟨slot, c, hf, hp, -, e⟩ <;> rw [e]
  · exact .calm (.refl s)
  · exact .apart_of (.purge (State.fetch_of_findCard hw hf).1 (by simpa using hp)) rfl

theorem serveOpenAccount_moves (folio limit deposit : BitVec 32) (s : State) :
    Moves s (serveOpenAccount folio limit deposit s).1 := by
  unfold serveOpenAccount
  split
  · exact .calm (.refl s)
  split
  · exact .calm (.refl s)
  split
  · exact .calm (.refl s)
  split
  · exact .calm (.refl s)
  split
  · exact .calm (.refl s)
  · rename_i ha hf _ _ _ hslot
    exact .openAccount hslot (by simpa using hf) (by omega) (by omega)

/-- A limit in range written to an account (01 R15). -/
theorem serveSetLimit_moves (hw : s.tablesWf = true) (folio amount : BitVec 32) :
    Moves s (serveSetLimit folio amount s).1 := by
  rcases serveSetLimit_cases folio amount s with e | ⟨slot, a, hf, hl, e⟩ <;> rw [e]
  · exact .calm (.refl s)
  · refine .apart (State.noteOverLimit_records _ _)
      (.bill (State.fetch_of_findFolio hw hf).1 ⟨⟨rfl, rfl, rfl, rfl, id, id⟩, fun h => ?_⟩)
    obtain ⟨-, h⟩ := Account.inRange_iff.mp h
    exact Account.inRange_iff.mpr ⟨Nat.le_of_not_lt hl, h⟩

theorem serveSetDeposit_moves (hw : s.tablesWf = true) (folio amount : BitVec 32) :
    Moves s (serveSetDeposit folio amount s).1 := by
  rcases serveSetDeposit_cases folio amount s with e | ⟨slot, a, hf, hl, e⟩ <;> rw [e]
  · exact .calm (.refl s)
  · refine .apart (State.noteOverLimit_records _ _)
      (.bill (State.fetch_of_findFolio hw hf).1 ⟨⟨rfl, rfl, rfl, rfl, id, id⟩, fun h => ?_⟩)
    obtain ⟨h1, -, h⟩ := Account.inRange_iff.mp h
    exact Account.inRange_iff.mpr ⟨h1, Nat.le_of_not_lt hl, h⟩

theorem serveSetPackage_moves (hw : s.tablesWf = true) (folio : BitVec 32) (package : Byte) :
    Moves s (serveSetPackage folio package s).1 := by
  rcases serveSetPackage_cases folio package s with e | ⟨slot, a, hl, hf, e⟩ <;> rw [e]
  · exact .calm (.refl s)
  · refine .bill (State.fetch_of_findFolio hw hf).1 ⟨⟨rfl, rfl, rfl, rfl, id, id⟩, fun h => ?_⟩
    obtain ⟨h1, h2, -, h⟩ := Account.inRange_iff.mp h
    exact Account.inRange_iff.mpr ⟨h1, h2, Nat.le_of_not_lt hl, h⟩

theorem serveSetMinorRelease_moves (hw : s.tablesWf = true) (folio : BitVec 32) (value : Byte) :
    Moves s (serveSetMinorRelease folio value s).1 := by
  rcases serveSetMinorRelease_cases folio value s with e | ⟨b, slot, a, -, hf, e⟩ <;> rw [e]
  · exact .calm (.refl s)
  · exact .bill (State.fetch_of_findFolio hw hf).1 ⟨⟨rfl, rfl, rfl, rfl, id, id⟩, id⟩

theorem serveReopen_moves (hw : s.tablesWf = true) (folio : BitVec 32) : Moves s (serveReopen folio s).1 := by
  rcases serveReopen_cases folio s with e | ⟨slot, a, hf, -, e⟩ <;> rw [e]
  · exact .calm (.refl s)
  · exact .apart (State.noteOverLimit_records _ _) (.bill (State.fetch_of_findFolio hw hf).1
      ⟨⟨rfl, rfl, rfl, rfl, fun _ => rfl, fun _ h => absurd rfl h⟩, id⟩)

theorem serveSettleBegin_moves (hw : s.tablesWf = true) (folio : BitVec 32) : Moves s (serveSettleBegin folio s).1 := by
  rcases serveSettleBegin_cases folio s with e | ⟨slot, a, hf, -, hl, e⟩ <;> rw [e]
  · exact .calm (.refl s)
  · exact .settleBegin (State.fetch_of_findFolio hw hf).1 (by simpa using hl)

theorem serveSettleStep_moves (hw : s.tablesWf = true) (folio : BitVec 32) : Moves s (serveSettleStep folio s).1 := by
  unfold serveSettleStep
  split
  · exact .calm (.refl s)
  rename_i slot a hf
  have ha := (State.fetch_of_findFolio hw hf).1
  split
  · exact .calm (.refl s)
  · exact .calm (.refl s)
  rename_i hs
  dsimp only
  split
  · exact .settleStep ha hs (.inl rfl)
  · exact .settleStep ha hs (.inl rfl)
  · exact .settleStep ha hs (.inr ⟨rfl, ‹_›⟩)

theorem serveClose_moves (hw : s.tablesWf = true) (folio : BitVec 32) : Moves s (serveClose folio s).1 := by
  rcases serveClose_cases folio s with e | ⟨slot, a, hf, hs, hq, e⟩ <;> rw [e]
  · exact .calm (.refl s)
  · exact .close (State.fetch_of_findFolio hw hf).1 (by simpa using hs) (Nat.lt_of_not_le hq)

theorem serveTakeClosure_moves (s : State) : Moves s (serveTakeClosure s).1 := by
  rcases serveTakeClosure_cases s with e | ⟨x, rest, hc, e⟩ <;> rw [e]
  · exact .calm (.refl s)
  · exact .calm (.of_closures rfl (by simp [hc]))

theorem serveDefineCabin_moves (cabin : BitVec 16) (deck : Byte) (s : State) :
    Moves s (serveDefineCabin cabin deck s).1 := by
  rcases serveDefineCabin_cases cabin deck s with e | ⟨slot, -, hn, hslot, e⟩ <;> rw [e]
  · exact .calm (.refl s)
  · exact .define hslot (by simpa using hn)

theorem serveUndefineCabin_moves (hw : s.tablesWf = true) (cabin : BitVec 16) :
    Moves s (serveUndefineCabin cabin s).1 := by
  rcases serveUndefineCabin_cases cabin s with e | ⟨slot, k, hf, hg, e⟩ <;> rw [e]
  · exact .calm (.refl s)
  · exact .apart_of (.undefine (State.fetch_of_findCabin hw hf).1 (by_contra fun h => hg (.inl h))) rfl

theorem serveBlockCabin_moves (hw : s.tablesWf = true) (cabin : BitVec 16) : Moves s (serveBlockCabin cabin s).1 := by
  rcases serveBlockCabin_cases cabin s with e | ⟨slot, k, b, hf, e⟩ <;> rw [e]
  · exact .calm (.refl s)
  · exact .calm (.cabin (State.fetch_of_findCabin hw hf).1 rfl ⟨rfl, rfl, .inl⟩)

theorem serveUnblockCabin_moves (hw : s.tablesWf = true) (cabin : BitVec 16) :
    Moves s (serveUnblockCabin cabin s).1 := by
  rcases serveUnblockCabin_cases cabin s with e | ⟨slot, k, hf, e⟩ <;> rw [e]
  · exact .calm (.refl s)
  · exact .calm (.cabin (State.fetch_of_findCabin hw hf).1 rfl ⟨rfl, rfl, .inl⟩)

theorem servePrivacySet_moves (hw : s.tablesWf = true) (cabin : BitVec 16) : Moves s (servePrivacySet cabin s).1 := by
  rcases servePrivacySet_cases cabin s with e | ⟨slot, k, hf, hg, e⟩ <;> rw [e]
  · exact .calm (.refl s)
  · exact .calm (.cabin (State.fetch_of_findCabin hw hf).1 rfl ⟨rfl, rfl, fun _ => .inr hg⟩)

theorem servePrivacyClear_moves (hw : s.tablesWf = true) (cabin : BitVec 16) :
    Moves s (servePrivacyClear cabin s).1 := by
  rcases servePrivacyClear_cases cabin s with e | ⟨slot, k, hf, e⟩ <;> rw [e]
  · exact .calm (.refl s)
  · exact .calm (.cabin (State.fetch_of_findCabin hw hf).1 rfl ⟨rfl, rfl, fun h => by cases h⟩)

theorem serveGrantCabin_moves (hw : s.tablesWf = true) (card : BitVec 32) (cabin : BitVec 16) :
    Moves s (serveGrantCabin card cabin s).1 := by
  rcases serveGrantCabin_cases card cabin s with e | ⟨slot, c, kslot, k, hf, hk, hs, hn, hl, e⟩ <;> rw [e]
  · exact .calm (.refl s)
  · rw [not_or, Nat.not_le, Nat.not_le] at hl
    exact .grant (State.fetch_of_findCard hw hf).1 (State.fetch_of_findCabin hw hk).1 hs hn hl.1 hl.2

theorem serveRevokeCabin_moves (card : BitVec 32) (cabin : BitVec 16) (s : State) :
    Moves s (serveRevokeCabin card cabin s).1 := by
  rcases serveRevokeCabin_cases card cabin s with e | ⟨slot, c, kslot, k, -, -, -, e⟩ <;> rw [e]
  · exact .calm (.refl s)
  · exact .unpair [slot] kslot

theorem serveRekeyCabin_moves (cabin : BitVec 16) (s : State) : Moves s (serveRekeyCabin cabin s).1 := by
  rcases serveRekeyCabin_cases cabin s with e | ⟨slot, k, -, e⟩ <;> rw [e]
  · exact .calm (.refl s)
  · exact .unpair k.grantees slot

theorem live_of_liveHold {slot reuse : Nat} {h : Hold} (hl : s.liveHold slot reuse = some h) :
    (s.holdSlot slot).live = some h := by
  unfold State.liveHold at hl
  split at hl
  · exact hl
  · cases hl

theorem serveHoldRelease_moves (p : Port) (slot reuse : Byte) (s : State) :
    Moves s (serveHoldRelease p slot reuse s).1 := by
  rcases serveHoldRelease_cases p slot reuse s with e | ⟨h, hl, -, e⟩ <;> rw [e]
  · exact .calm (.refl s)
  · exact .endHold (live_of_liveHold hl)

theorem serveVoid_moves (p : Port) (seq : BitVec 32) (outlet : BitVec 16) (s : State) :
    Moves s (serveVoid p seq outlet s).1 := by
  rcases serveVoid_cases p seq outlet s with e | ⟨x, g, -, hg, e⟩ <;> rw [e]
  · exact .calm (.refl s)
  · exact .void hg

theorem serveWindowAct_moves (p : Port) (action : Byte) (s : State) : Moves s (serveWindowAct p action s).1 := by
  rcases serveWindowAct_cases p action s with e | ⟨w, e⟩ | ⟨x, g, w, hg, e⟩ <;> rw [e]
  · exact .calm (.refl s)
  · exact .of_records rfl
  · exact .apart_of (.void hg) rfl

/-- The checks of a cardholder's kind refuse, where they do, with a denial (02 R34, R35). -/
theorem kindRefusal_ne_grant (c : Cardholder) (slot : Nat) (k : Cabin) : kindRefusal c slot k ≠ some .grant := by
  unfold kindRefusal guestRefusal staffRefusal
  repeat' split
  all_goals exact nofun

/-- A GRANT is decided by the pending unlock check (02 R33 to R36). -/
theorem pendingCheck_of_grant {slot gen cabin kslot : Nat} {c : Cardholder} {k : Cabin}
    (hf : s.findCabin cabin = some (kslot, k)) (h : s.accessVerdict slot c gen cabin = .grant) :
    s.pendingCheck slot kslot = .grant := by
  unfold State.accessVerdict at h
  simp only [hf] at h
  split at h
  · cases h
  split at h
  · cases h
  split at h
  · cases h
  · cases h
  · split at h
    · exact absurd (h ▸ ‹_›) (kindRefusal_ne_grant c kslot k)
    · exact h

theorem serveAccessQuery_moves (p : Port) (card : BitVec 32) (gen : Byte) (cabin : BitVec 16) (s : State) :
    Moves s (serveAccessQuery p card gen cabin s).1 := by
  rcases serveAccessQuery_cases p card gen cabin s with
    e | ⟨slot, c, -, ⟨kslot, k, hv, hf, ⟨-, e⟩ | ⟨hn, e⟩⟩ | e⟩ <;> rw [e]
  · exact .calm (.refl s)
  · exact .calm (.regrant s p kslot)
  · refine .calm (.newUnlock s p slot kslot ?_ hn)
    have h := pendingCheck_of_grant hf hv
    simp only [State.pendingCheck, hn] at h
    by_contra hl
    rw [if_neg hl] at h; cases h
  · exact .calm ((Calm.denialEvent s _ _ _).trans (.sideReport _ _ _ _))

theorem serveLockReport_moves (cabin token : BitVec 16) (outcome : Byte) (s : State) :
    Moves s (serveLockReport cabin token outcome s).1 := by
  rcases serveLockReport_cases cabin token outcome s with e | ⟨result, slot, k, -, -, ⟨u, -, e⟩ | e⟩ <;> rw [e]
  · exact .calm (.refl s)
  · exact .calm (((Calm.dropUnlock s slot).trans (.addEvent _ _ _ _)).trans (.jamIf _ _ _ _ _))
  · exact .calm (.jamIf _ _ _ _ _)

theorem serveSetTime_moves (time : BitVec 32) (s : State) : Moves s (serveSetTime time s).1 := by
  rcases serveSetTime_cases time s with e | ⟨-, -, e⟩ <;> rw [e]
  · exact .calm (.refl s)
  · exact .calm (.advanceTo s _)

theorem serveVoyageClear_moves (s : State) : Moves s (serveVoyageClear s).1 := by
  rcases serveVoyageClear_cases s with e | ⟨-, e⟩ <;> rw [e]
  · exact .calm (.refl s)
  · exact .cleared rfl

end Sys2Proof.Machine
end

section
/-! PROOFS. Every request and every event makes one of the moves, so every step does. -/

namespace Sys2Proof.Machine

variable {s t : State}

/-- A request whose rule leaves the records as they are. -/
theorem Moves.of_frame {u : State} (e : t = u) (h : u.records = s.records) : Moves s t := by
  rw [e]; exact .of_records h

/-- Every request makes one of the moves (09 R167). -/
theorem serve_moves (hw : s.tablesWf = true) (p : Port) (req : Request) : Moves s (serve p req s).1 := by
  cases req with
  | badFrame | unknown | badLength | noOp | readPortStatus | readCounts | readCall | readSettings =>
    exact .calm (.refl s)
  | readTime | setOptions _ => exact .of_records rfl
  | setNoticeMask mask => obtain ⟨_, e⟩ := serveSetNoticeMask_frame p mask s; exact .of_frame e rfl
  | readCardholder card => exact .of_eq (serveReadCardholder_frame card s)
  | readAccount folio => exact .of_eq (serveReadAccount_frame folio s)
  | readCabin cabin => exact .of_eq (serveReadCabin_frame cabin s)
  | readHold slot reuse => exact .of_eq (serveReadHold_frame slot reuse s)
  | readEntry seq => exact .of_eq (serveReadEntry_frame seq s)
  | readLane lane => exact .of_eq (serveReadLane_frame lane s)
  | windowOpen collection mode key start =>
    obtain ⟨_, e⟩ := serveWindowOpen_frame p collection mode key start s; exact .of_frame e rfl
  | windowRead => obtain ⟨_, e⟩ := serveWindowRead_frame p s; exact .of_frame e rfl
  | price cls unit qty k card package => exact .of_eq (servePrice_frame cls unit qty k card package s)
  | charge outlet cls unit qty cards => exact .charge p outlet cls unit qty cards
  | holdOpen card gen outlet cls gross lifetime => exact .holdOpen p card gen outlet cls gross lifetime
  | holdComplete slot reuse gross => exact .holdComplete p slot reuse gross
  | holdRelease slot reuse => exact serveHoldRelease_moves p slot reuse s
  | void seq outlet => exact serveVoid_moves p seq outlet s
  | accessQuery card gen cabin => exact serveAccessQuery_moves p card gen cabin s
  | lockReport cabin token outcome => exact serveLockReport_moves cabin token outcome s
  | privacySet cabin => exact servePrivacySet_moves hw cabin
  | privacyClear cabin => exact servePrivacyClear_moves hw cabin
  | enrol card kind folio classMask deckMask => exact serveEnrol_moves hw card kind folio classMask deckMask
  | reissue card => exact serveReissue_moves hw card
  | suspend card => exact serveSuspend_moves hw card
  | resume card => exact serveResume_moves hw card
  | purge card => exact servePurge_moves hw card
  | setClassMask card mask => exact serveSetClassMask_moves hw card mask
  | setDeckMask card mask => exact serveSetDeckMask_moves hw card mask
  | capUp card => exact serveCapUp_moves hw card
  | capDown card => exact serveCapDown_moves hw card
  | setCapOffset card offset => exact serveSetCapOffset_moves hw card offset
  | openAccount folio limit deposit => exact serveOpenAccount_moves folio limit deposit s
  | setLimit folio amount => exact serveSetLimit_moves hw folio amount
  | setDeposit folio amount => exact serveSetDeposit_moves hw folio amount
  | setPackage folio package => exact serveSetPackage_moves hw folio package
  | setMinorRelease folio value => exact serveSetMinorRelease_moves hw folio value
  | adjust folio kind amount => exact .adjust folio kind amount
  | settleBegin folio => exact serveSettleBegin_moves hw folio
  | settleStep folio => exact serveSettleStep_moves hw folio
  | reopen folio => exact serveReopen_moves hw folio
  | close folio => exact serveClose_moves hw folio
  | takeClosure => exact serveTakeClosure_moves s
  | defineCabin cabin deck => exact serveDefineCabin_moves cabin deck s
  | undefineCabin cabin => exact serveUndefineCabin_moves hw cabin
  | grantCabin card cabin => exact serveGrantCabin_moves hw card cabin
  | revokeCabin card cabin => exact serveRevokeCabin_moves card cabin s
  | rekeyCabin cabin => exact serveRekeyCabin_moves cabin s
  | blockCabin cabin => exact serveBlockCabin_moves hw cabin
  | unblockCabin cabin => exact serveUnblockCabin_moves hw cabin
  | setPresence card presence => exact serveSetPresence_moves hw card presence
  | openCall kind allAboard mode closeTime =>
    obtain ⟨_, e⟩ := serveOpenCall_frame kind allAboard mode closeTime s; exact .of_frame e rfl
  | closeCall force => obtain ⟨_, _, _, e⟩ := serveCloseCall_frame force s; exact .of_frame e rfl
  | laneMode lane mode direction clearFaults =>
    obtain ⟨_, e⟩ := serveLaneMode_frame lane mode direction clearFaults s; exact .of_frame e rfl
  | injectRead lane card gen direction seq => exact .of_eq (serveInjectRead_frame lane card gen direction seq s)
  | setTime time => exact serveSetTime_moves time s
  | setTariff1 part => obtain ⟨_, e⟩ := serveSetTariff1_frame part s; exact .of_frame e rfl
  | setTariff2 rows => obtain ⟨_, e⟩ := serveSetTariff2_frame rows s; exact .of_frame e rfl
  | loadSettings => obtain ⟨_, _, _, _, _, e⟩ := serveLoadSettings_frame s; exact .of_frame e rfl
  | saveSettings => obtain ⟨_, _, e⟩ := serveSaveSettings_frame p s; exact .of_frame e rfl
  | voyageClear => exact serveVoyageClear_moves s
  | windowAct action => exact serveWindowAct_moves p action s

/-- START_UP clears the records, or empties the unlock list alone (10 R184). -/
theorem startUp_moves (s : State) (straps : Quad (BitVec 2)) (lost : Bool) : Moves s (s.startUp straps lost) := by
  unfold State.startUp
  split
  · refine .calm (.of_unlocks rfl (fun h => ?_))
    obtain ⟨-, -, h⟩ := State.unlocksOk_iff.mp h
    exact State.unlocksOk_iff.mpr ⟨Nat.zero_le _, List.nodup_nil, h⟩
  · exact .cleared (by simp only [State.records, State.restart, State.coldRecords, State.clearRecords, State.reset])

/-- The expiry of a hold ends it (04 R87). -/
theorem expireHold_moves (s : State) (slot : Nat) : Moves s (s.expireHold slot) := by
  unfold State.expireHold
  split
  · exact .calm (.refl s)
  split
  · exact .apart_of (.endHold ‹_›) rfl
  · exact .calm (.refl s)

/-- A state that ports and queue alone set apart from another. -/
def State.apart (s x : State) : Prop := ∃ ports pending, x = { s with ports := ports, pending := pending }

/-- Each rule and each event makes a move, from a state set apart by its ports and queue alone. -/
theorem moves_leads (s : State) :
    Leads (fun x => x.tablesWf = true ∧ s.apart x) (fun t => ∃ x, s.apart x ∧ Moves x t) where
  here := fun x h => ⟨x, h.2, .calm (.refl x)⟩
  queue := by rintro x l ⟨h, ports, pending, rfl⟩; exact ⟨h, ports, l, rfl⟩
  portBefore := by rintro x p f ⟨h, ports, pending, rfl⟩; exact ⟨h, _, pending, rfl⟩
  port := by rintro t p f ⟨x, hx, h⟩; exact ⟨x, hx, .apart_of h rfl⟩
  timer := fun x h => ⟨x, h.2, .of_records rfl⟩
  serve := fun p req x h => ⟨x, h.2, serve_moves h.1 p req⟩
  startUp := fun x straps lost h => ⟨x, h.2, startUp_moves x straps lost⟩
  completeSave := fun x h => by obtain ⟨_, _, _, _, e⟩ := x.completeSave_frame; exact ⟨x, h.2, .of_frame e rfl⟩
  failSave := fun x h => by obtain ⟨_, _, e⟩ := x.failSave_frame; exact ⟨x, h.2, .of_frame e rfl⟩
  readMessage := fun x l kind card gen direction seq crc h =>
    ⟨x, h.2, .calm (.readMessage x h.1 l kind card gen direction seq crc)⟩
  laneByte := fun x l b h => ⟨x, h.2, .calm (.laneByte x h.1 l b)⟩
  framingFault := fun x l h => by obtain ⟨_, e⟩ := x.framingFault_frame l; exact ⟨x, h.2, .of_frame e rfl⟩
  gapFault := fun x l h => by obtain ⟨_, _, e⟩ := x.gapFault_frame l; exact ⟨x, h.2, .of_frame e rfl⟩
  endOfTransmission := fun x l h => ⟨x, h.2, .calm (.endOfTransmission x h.1 l)⟩
  repeatExpiry := fun x l h => by obtain ⟨_, e⟩ := x.repeatExpiry_frame l; exact ⟨x, h.2, .of_frame e rfl⟩
  takeTick := fun x h => ⟨x, h.2, .calm (.takeTick x)⟩
  loseTick := fun x h => ⟨x, h.2, .calm (.loseTick x)⟩
  takeSecond := fun x h => ⟨x, h.2, .calm (.takeSecond x)⟩
  expireHold := fun x slot h => ⟨x, h.2, expireHold_moves x slot.toNat⟩
  expireUnlock := fun x cabin h => ⟨x, h.2, .calm (.expireUnlock x cabin)⟩
  takeAllAboard := fun x h => by obtain ⟨_, _, _, e⟩ := x.takeAllAboard_frame; exact ⟨x, h.2, .of_frame e rfl⟩
  takeClose := fun x h => by obtain ⟨_, _, _, e⟩ := x.takeClose_frame; exact ⟨x, h.2, .of_frame e rfl⟩

/-- Every step makes one of the moves, from a state set apart by its ports and queue alone. -/
theorem step_moves (hw : s.tablesWf = true) (hs : step s = .next t) : ∃ x, s.apart x ∧ Moves x t :=
  (moves_leads s).step ⟨hw, s.ports, s.pending, rfl⟩ hs

/-- What every move leads to from a property that ports and queue do not enter, every step does. -/
theorem step_of_moves {P Q : State → Prop}
    (hP : ∀ s ports pending, P s → P { s with ports := ports, pending := pending })
    (hPQ : ∀ s t, s.tablesWf = true → P s → Moves s t → Q t) (hw : s.tablesWf = true) (hs : step s = .next t)
    (h : P s) : Q t := by
  obtain ⟨x, ⟨ports, pending, rfl⟩, hm⟩ := step_moves hw hs
  exact hPQ { s with ports := ports, pending := pending } t hw (hP s ports pending h) hm

end Sys2Proof.Machine
end

section
/-! PROOFS. Steady steps: what a posting, a void, a settlement walk and a spending leave as it was. -/

namespace Sys2Proof.Machine

variable {s t : State}

/-! ## Steady steps -/

/-- Every table is as it was in what grants, account lists and holds name, and no hold or serial is given. -/
structure Steady (s t : State) : Prop where
  roster : Tracks Cardholder.Steady s.roster t.roster
  accounts : Tracks Account.Steady s.accounts t.accounts
  cabins : Tracks Cabin.Steady s.cabins t.cabins
  nextSerial : t.nextSerial = s.nextSerial
  holds : t.holds = s.holds

theorem Steady.refl (s : State) : Steady s s :=
  ⟨.refl .refl _, .refl .refl _, .refl .refl _, rfl, rfl⟩

theorem Steady.trans {u : State} (h : Steady s t) (k : Steady t u) : Steady s u :=
  ⟨h.roster.trans .trans k.roster, h.accounts.trans .trans k.accounts, h.cabins.trans .trans k.cabins,
    k.nextSerial.trans h.nextSerial, k.holds.trans h.holds⟩

theorem Calm.steady (h : Calm s t) : Steady s t :=
  ⟨h.roster.mono (fun _ _ e => e.toSteady), by rw [h.accounts]; exact .refl .refl _, h.cabins, h.nextSerial, h.holds⟩

/-- A state with the accounts rewritten steadily and the log in any form. -/
theorem Steady.of_accounts {a : Table Account} {l : List Entry} {n : Nat} (ha : Tracks Account.Steady s.accounts a) :
    Steady s { s with accounts := a, log := l, nextSeq := n } :=
  ⟨.refl .refl _, ha, .refl .refl _, rfl, rfl⟩

/-- An entry that joins a chain leaves its account's keys, list and held total (04 R72). -/
theorem Account.joined_steady (a : Account) (seq : Nat) (x : Int) : a.Steady (a.joined seq x) := by
  refine ⟨rfl, rfl, rfl, rfl, id, fun ha hc => ?_⟩
  simp only [Account.joined] at hc ⊢
  split at hc
  · exact (‹_ ∧ _› : _ ∧ _).1
  · exact ha hc

theorem Steady.post (s : State) (slot : Nat) (e : Entry) : Steady s (s.post slot e) := by
  unfold State.post
  split
  · exact .refl s
  · exact .of_accounts (.store .refl ‹_› (Account.joined_steady _ _ _))

theorem Steady.spendAt (s : State) (holder amount : Nat) : Steady s (s.spendAt holder amount) :=
  ⟨.modify .refl _ _ _ (fun _ _ => ⟨rfl, rfl, rfl, rfl, rfl, Iff.rfl, id⟩), .refl .refl _, .refl .refl _, rfl, rfl⟩

theorem Steady.postShares (p : Port) (outlet cls : Nat) (pr : Priced) (first : Nat) (shares : List Share) (i : Nat)
    (s : State) : Steady s (s.postShares p outlet cls pr first shares i).1 := by
  induction shares generalizing i s with
  | nil => exact .refl s
  | cons x rest ih => exact ((Steady.post s _ _).trans (.spendAt _ _ _)).trans (ih _ _)

theorem Steady.voidEntry (s : State) (e : Entry) : Steady s (s.voidEntry e) := by
  refine ⟨?_, ?_, .refl .refl _, rfl, rfl⟩
  · dsimp only [State.voidEntry]
    split
    · exact .refl .refl _
    · split
      · exact .modify .refl _ _ _ (fun _ _ => ⟨rfl, rfl, rfl, rfl, rfl, Iff.rfl, id⟩)
      · exact .refl .refl _
  · dsimp only [State.voidEntry]
    split
    · exact .refl .refl _
    · exact .modify .refl _ _ _ (fun _ _ => ⟨rfl, rfl, rfl, rfl, id, id⟩)

theorem Steady.voidAll (s : State) (g : List Entry) : Steady s (s.voidAll g) := by
  unfold State.voidAll
  induction g generalizing s with
  | nil => exact .refl s
  | cons e rest ih => exact (Steady.voidEntry s e).trans (ih _)

/-- A walk moves an account's totals and its cursor alone (05 R100). -/
theorem walk_account (log : List Entry) (a : Account) (passed fuel : Nat) : ∃ x y c,
    (walk log a passed fuel).account = { a with posted := x, settled := y, cursor := c } := by
  induction fuel generalizing log a passed with
  | zero => exact ⟨_, _, _, rfl⟩
  | succ n ih =>
    simp only [walk]
    repeat' split
    · exact ⟨_, _, _, rfl⟩
    · obtain ⟨x, y, c, e⟩ := ih log { a with cursor := _ } (passed + 1)
      exact ⟨x, y, c, e⟩
    · rename_i e _ _ _
      obtain ⟨x, y, c, e⟩ := ih (settleIn log e.seq) { a.settling e with cursor := e.link } (passed + 1)
      exact ⟨x, y, c, e⟩
    · exact ⟨_, _, _, rfl⟩

/-- What a walk leaves of a SETTLING account is that account, steadily. -/
theorem walkLeaves_steady {log : List Entry} {a b : Account} {n : Nat} (hs : a.state = .settling)
    (hb : walkLeaves (walk log a 0 n) b) : a.Steady b := by
  obtain ⟨x, y, c, e⟩ := walk_account log a 0 n
  rcases hb with rfl | ⟨rfl, hc⟩
  · rw [e]; exact ⟨rfl, rfl, rfl, rfl, id, fun _ _ => hs⟩
  · rw [e] at hc ⊢; exact ⟨rfl, rfl, rfl, rfl, fun h => absurd (hs.symm.trans h) (by decide),
      fun _ h => absurd hc h⟩

theorem Steady.walked {slot n : Nat} {a b : Account} (ha : s.accounts.fetch slot = some a) (hs : a.state = .settling)
    (hb : walkLeaves (walk s.log a 0 n) b) : Steady s (s.walked slot (walk s.log a 0 n) b) :=
  .of_accounts (.store .refl ha (walkLeaves_steady hs hb))

theorem Steady.billed {slot : Nat} {a b : Account} (ha : s.accounts.fetch slot = some a) (hb : a.Steady b) :
    Steady s (s.withAccount slot b) :=
  .of_accounts (.store .refl ha hb)

theorem Calm.noteLogFull (s : State) (why : Option Subject × Nat) : Calm s (s.noteLogFull why) := .of_records rfl

theorem Steady.adjust (folio : BitVec 32) (kind : Byte) (amount : BitVec 32) (s : State) :
    Steady s (serveAdjust folio kind amount s).1 := by
  rcases serveAdjust_cases folio kind amount s with e | ⟨why, -, e⟩ | ⟨k, slot, a, -, -, -, -, -, e⟩ <;> rw [e]
  · exact .refl s
  · exact (Calm.noteLogFull s why).steady
  · exact .post _ _ _

theorem Steady.charge (p : Port) (outlet : BitVec 16) (cls : Byte) (unit : BitVec 32) (qty : Byte)
    (cards : List Presentation) (s : State) : Steady s (serveCharge p outlet cls unit qty cards s).1 := by
  rcases serveCharge_cases p outlet cls unit qty cards s with
    e | ⟨card, r, e⟩ | ⟨why, -, e⟩ | ⟨shares, pr, -, -, e⟩ <;> rw [e]
  · exact .refl s
  · exact (Calm.declineEffect _ _ _).steady
  · exact (Calm.noteLogFull s why).steady
  · exact .postShares _ _ _ _ _ _ _ _

/-- HOLD OPEN places a hold for a payer that passed its checks, or is steady (04 R82, R83). -/
theorem serveHoldOpen_steady_or (p : Port) (card : BitVec 32) (gen : Byte) (outlet : BitVec 16) (cls : Byte)
    (gross lifetime : BitVec 32) (s : State) :
    Calm s (serveHoldOpen p card gen outlet cls gross lifetime s).1 ∨
      ∃ x h slot reuse, s.checkCard card.toNat gen.toNat = .ok x ∧ s.freeHold = some slot ∧
        h.serial = x.folio.serial ∧ h.account = x.account ∧ h.holder = x.holder ∧
        (serveHoldOpen p card gen outlet cls gross lifetime s).1 =
          ({ s with holds := putHold s.holds slot { reuse := reuse, live := some h } } : State).moveHeld h
            (fun v => v + h.amount) := by
  rcases serveHoldOpen_cases p card gen outlet cls gross lifetime s with e | ⟨r, e⟩ | ⟨x, hx, e⟩ <;> rw [e]
  · exact .inl (.refl s)
  · exact .inl (.declineEffect _ _ _)
  · rcases placeHold_cases s p x outlet.toNat cls.toNat lifetime.toNat
      (s.tariff.price cls.toNat x.folio.package gross.toNat 1) with e | ⟨slot, hslot, e⟩ <;> rw [e]
    · exact .inl (.refl s)
    · exact .inr ⟨x, _, slot, _, hx, hslot, rfl, rfl, rfl, rfl⟩

/-- HOLD COMPLETE ends its hold and then posts, or is calm (04 R84, R85). -/
theorem serveHoldComplete_steady_or (p : Port) (slot reuse : Byte) (gross : BitVec 32) (s : State) :
    Calm s (serveHoldComplete p slot reuse gross s).1 ∨
      ∃ h, (s.holdSlot slot.toNat).live = some h ∧
        Steady (s.endHold slot.toNat h) (serveHoldComplete p slot reuse gross s).1 := by
  rcases serveHoldComplete_cases p slot reuse gross s with e | ⟨why, -, e⟩ | ⟨h, hl, -, e⟩ <;> rw [e]
  · exact .inl (.refl s)
  · exact .inl (.of_records rfl)
  · exact .inr ⟨h, live_of_liveHold hl, (Steady.post _ _ _).trans (.spendAt _ _ _)⟩

/-! ## The canonical form (01 R2, R13, R17; 04 R81) -/

theorem Steady.tablesWf (h : Steady s t) (hw : s.tablesWf = true) : t.tablesWf = true := by
  obtain ⟨h1, h2, h3, h4⟩ := State.tablesWf_iff.mp hw
  exact State.tablesWf_iff.mpr ⟨h.roster.wf _ h1, h.accounts.wf _ h2, h.cabins.wf _ h3, by rw [h.holds]; exact h4⟩

theorem State.unpair_tablesWf (s : State) (holder kslot : Nat) (hw : s.tablesWf = true) :
    (s.unpair holder kslot).tablesWf = true := by
  obtain ⟨h1, h2, h3, h4⟩ := State.tablesWf_iff.mp hw
  exact State.tablesWf_iff.mpr ⟨Table.wf_modify _ _ h1, h2, Table.wf_modify _ _ h3, h4⟩

/-- What each of a list's steps keeps, all of them together keep. -/
theorem foldl_keeps {α β : Type} {I : α → Prop} {f : α → β → α} (hf : ∀ a b, I a → I (f a b)) (l : List β) {a : α}
    (ha : I a) : I (l.foldl f a) := by
  induction l generalizing a with
  | nil => exact ha
  | cons b l ih => exact ih (hf a b ha)

theorem State.closeHolder_tablesWf (s : State) (holder : Nat) (hw : s.tablesWf = true) :
    (s.closeHolder holder).tablesWf = true := by
  unfold State.closeHolder
  split
  · exact hw
  · obtain ⟨h1, h⟩ := State.tablesWf_iff.mp
      (foldl_keeps (I := fun t : State => t.tablesWf = true) (f := fun t k => t.unpair holder k)
        (fun t k => t.unpair_tablesWf holder k) (‹Cardholder› : Cardholder).cabins hw)
    exact State.tablesWf_iff.mpr ⟨Table.wf_modify _ _ h1, h⟩

theorem State.closeHolders_tablesWf (holders : List Nat) (hw : s.tablesWf = true) :
    (s.closeHolders holders).tablesWf = true :=
  foldl_keeps (I := fun t : State => t.tablesWf = true) (fun t h => t.closeHolder_tablesWf h) holders hw

theorem State.moveHeld_tablesWf (s : State) (h : Hold) (f : Nat → Nat) (hw : s.tablesWf = true) :
    (s.moveHeld h f).tablesWf = true := by
  obtain ⟨h1, h2, h3⟩ := State.tablesWf_iff.mp hw
  exact State.tablesWf_iff.mpr ⟨Table.wf_modify _ _ h1, Table.wf_modify _ _ h2, h3⟩

theorem State.putHold_tablesWf {slot : Nat} (x : HoldSlot) (hslot : slot < Config.holdSlots) (hw : s.tablesWf = true) :
    ({ s with holds := putHold s.holds slot x } : State).tablesWf = true := by
  obtain ⟨h1, h2, h3, h4⟩ := State.tablesWf_iff.mp hw
  exact State.tablesWf_iff.mpr ⟨h1, h2, h3, putHold_wf x h4 hslot⟩

theorem State.endHold_tablesWf {slot : Nat} {h : Hold} (hl : (s.holdSlot slot).live = some h) (hw : s.tablesWf = true) :
    (s.endHold slot h).tablesWf = true :=
  State.moveHeld_tablesWf _ _ _ (State.putHold_tablesWf _
    (Table.slot_lt (State.holds_wf hw) (Table.mem_of_fetch (State.fetch_of_holdSlot hl))) hw)

theorem State.freeHold_lt {slot : Nat} (h : s.freeHold = some slot) : slot < Config.holdSlots :=
  List.mem_range.mp (List.mem_of_find?_eq_some h)

theorem Moves.tablesWf (h : Moves s t) (hw : s.tablesWf = true) : t.tablesWf = true := by
  obtain ⟨hr, ha, hk, hh⟩ := State.tablesWf_iff.mp hw
  induction h with
  | calm h => exact h.steady.tablesWf hw
  | apart e _ ih => exact of_records_eq (I := fun s => s.tablesWf = true) (fun _ => Iff.rfl) e ih
  | cleared e => exact of_records_eq (I := fun s => s.tablesWf = true) (fun _ => Iff.rfl) e (by rfl)
  | bill h hb => exact (Steady.billed h hb.toSteady).tablesWf hw
  | settleBegin h _ =>
    exact State.tablesWf_iff.mpr ⟨hr, Table.wf_store _ ha (Table.slot_lt ha (Table.mem_of_fetch h)), hk, hh⟩
  | settleStep h hs hb => exact (Steady.walked h hs hb).tablesWf hw
  | adjust folio kind amount => exact (Steady.adjust folio kind amount s).tablesWf hw
  | charge p outlet cls unit qty cards => exact (Steady.charge p outlet cls unit qty cards s).tablesWf hw
  | void hg => exact (Steady.voidAll s _).tablesWf hw
  | enrolStaff mask hslot _ =>
    exact State.tablesWf_iff.mpr ⟨Table.wf_store _ hr (Table.freeSlot_spec hr hslot).1, ha, hk, hh⟩
  | enrolGuest mask _ hslot _ h _ =>
    exact State.tablesWf_iff.mpr ⟨Table.wf_store _ hr (Table.freeSlot_spec hr hslot).1,
      Table.wf_store _ ha (Table.slot_lt ha (Table.mem_of_fetch h)), hk, hh⟩
  | purge => exact State.tablesWf_iff.mpr ⟨Table.wf_remove _ hr, ha, hk, hh⟩
  | openAccount hslot =>
    exact State.tablesWf_iff.mpr ⟨hr, Table.wf_store _ ha (Table.freeSlot_spec ha hslot).1, hk, hh⟩
  | @close slot a =>
    obtain ⟨c1, c2, c3⟩ := State.tablesWf_iff.mp (State.closeHolders_tablesWf a.holders hw)
    exact State.tablesWf_iff.mpr ⟨c1, Table.wf_remove _ c2, c3⟩
  | define hslot =>
    exact State.tablesWf_iff.mpr ⟨hr, ha, Table.wf_store _ hk (Table.freeSlot_spec hk hslot).1, hh⟩
  | undefine => exact State.tablesWf_iff.mpr ⟨hr, ha, Table.wf_remove _ hk, hh⟩
  | grant h k =>
    exact State.tablesWf_iff.mpr ⟨Table.wf_store _ hr (Table.slot_lt hr (Table.mem_of_fetch h)), ha,
      Table.wf_store _ hk (Table.slot_lt hk (Table.mem_of_fetch k)), hh⟩
  | unpair holders kslot =>
    exact foldl_keeps (I := fun t : State => t.tablesWf = true) (fun t h => t.unpair_tablesWf h kslot) holders hw
  | holdOpen p card gen outlet cls gross lifetime =>
    rcases serveHoldOpen_steady_or p card gen outlet cls gross lifetime s with
      h | ⟨x, h, slot, reuse, -, hslot, -, -, -, e⟩
    · exact h.steady.tablesWf hw
    · rw [e]; exact State.moveHeld_tablesWf _ _ _ (State.putHold_tablesWf _ (State.freeHold_lt hslot) hw)
  | holdComplete p slot reuse gross =>
    rcases serveHoldComplete_steady_or p slot reuse gross s with h | ⟨x, hl, h⟩
    · exact h.steady.tablesWf hw
    · exact h.tablesWf (State.endHold_tablesWf hl hw)
  | endHold hl => exact State.endHold_tablesWf hl hw

end Sys2Proof.Machine
end

section
/-! PROOFS. RecordsStayInRange: the small fields, the unlock list, the log, the closure queue and the amounts. -/

namespace Sys2Proof.Machine

variable {s t : State}

/-! ## The cardholders' small fields (01 R2, R7, R11; 03 R61) -/

/-- Every cardholder that a slot reads as is in range. -/
def State.cardsFit (s : State) : Prop := ∀ i c, s.roster.fetch i = some c → c.inRange = true

theorem State.cardsInRange_iff (hw : s.tablesWf = true) : s.cardsInRange = true ↔ s.cardsFit :=
  Table.all_iff_fetch (State.roster_wf hw) Cardholder.inRange

theorem Steady.cardsFit (h : Steady s t) (hc : s.cardsFit) : t.cardsFit := by
  intro i d hd
  obtain ⟨c, h1, h2⟩ := h.roster.back i d hd
  exact h2.range (hc i c h1)

/-- A change of records that keeps each in range. -/
theorem cardsFit_modify {k : Nat} {f : Cardholder → Cardholder} (ht : t.roster = s.roster.modify k f)
    (hf : ∀ c, c.inRange = true → (f c).inRange = true) (hc : s.cardsFit) : t.cardsFit := by
  intro i d hd
  rw [ht, Table.fetch_modify] at hd
  split at hd
  · obtain ⟨c, h1, rfl⟩ := Option.map_eq_some_iff.mp hd
    exact hf c (hc i c h1)
  · exact hc i d hd

theorem State.unpair_cardsFit (s : State) (holder kslot : Nat) (hc : s.cardsFit) : (s.unpair holder kslot).cardsFit :=
  cardsFit_modify rfl (fun _ h => h) hc

theorem State.closeHolder_cardsFit (s : State) (holder : Nat) (hc : s.cardsFit) : (s.closeHolder holder).cardsFit := by
  unfold State.closeHolder
  split
  · exact hc
  · exact cardsFit_modify rfl (fun _ h => h)
      (foldl_keeps (I := State.cardsFit) (fun t k => t.unpair_cardsFit holder k) _ hc)

theorem State.endHold_cardsFit (s : State) (slot : Nat) (h : Hold) (hc : s.cardsFit) : (s.endHold slot h).cardsFit :=
  cardsFit_modify (s := s) rfl (fun _ h => h) hc

theorem newGuest_inRange {kind : CardKind} (hk : kind ≠ .staff) (card serial account day : Nat) (mask : BitVec 8) :
    (newGuest kind card serial account mask day).inRange = true := by
  cases kind <;> simp_all [newGuest, Cardholder.inRange]

theorem Moves.cardsFit (h : Moves s t) (hw : s.tablesWf = true) (hc : s.cardsFit) : t.cardsFit := by
  induction h with
  | calm h => exact h.steady.cardsFit hc
  | apart e _ ih => exact of_records_eq (fun _ => Iff.rfl) e ih
  | cleared e => exact of_records_eq (s := .reset) (fun _ => Iff.rfl) e (fun i c h => by cases h)
  | bill h hb => exact hc
  | settleBegin => exact hc
  | settleStep => exact hc
  | adjust folio kind amount => exact (Steady.adjust folio kind amount s).cardsFit hc
  | charge p outlet cls unit qty cards => exact (Steady.charge p outlet cls unit qty cards s).cardsFit hc
  | void => exact (Steady.voidAll s _).cardsFit hc
  | enrolStaff mask =>
    intro i d hd
    rcases Table.fetch_store_cases hd with ⟨-, rfl⟩ | ⟨-, hd⟩
    · rfl
    · exact hc i d hd
  | enrolGuest mask hk =>
    intro i d hd
    rcases Table.fetch_store_cases hd with ⟨-, rfl⟩ | ⟨-, hd⟩
    · exact newGuest_inRange hk _ _ _ _ _
    · exact hc i d hd
  | purge => exact fun i d hd => hc i d (Table.fetch_remove_cases (State.roster_wf hw) hd).2
  | openAccount => exact hc
  | @close slot a =>
    exact foldl_keeps (I := State.cardsFit) (fun t h => t.closeHolder_cardsFit h) a.holders hc
  | define => exact hc
  | undefine => exact hc
  | @grant slot kslot c k h =>
    intro i d hd
    rcases Table.fetch_store_cases hd with ⟨-, rfl⟩ | ⟨-, hd⟩
    · exact hc slot c h
    · exact hc i d hd
  | unpair holders kslot => exact foldl_keeps (I := State.cardsFit) (fun t h => t.unpair_cardsFit h kslot) holders hc
  | holdOpen p card gen outlet cls gross lifetime =>
    rcases serveHoldOpen_steady_or p card gen outlet cls gross lifetime s with h | ⟨x, h, slot, reuse, -, -, -, -, -, e⟩
    · exact h.steady.cardsFit hc
    · rw [e]; exact cardsFit_modify (s := s) rfl (fun _ h => h) hc
  | holdComplete p slot reuse gross =>
    rcases serveHoldComplete_steady_or p slot reuse gross s with h | ⟨x, -, h⟩
    · exact h.steady.cardsFit hc
    · exact h.cardsFit (s.endHold_cardsFit _ _ hc)
  | endHold => exact s.endHold_cardsFit _ _ hc

/-! ## The unlock list (02 R30, R31) and the closure queue (05 R108) -/

/-- Away from calm steps and starts no move reaches the unlock list (02 R30). -/
theorem Moves.unlocksOk (h : Moves s t) (hu : s.unlocksOk = true) : t.unlocksOk = true := by
  induction h with
  | calm h => exact h.unlocks hu
  | apart e _ ih => exact of_records_eq (I := fun s => s.unlocksOk = true) (fun _ => Iff.rfl) e ih
  | cleared e => exact of_records_eq (I := fun s => s.unlocksOk = true) (fun _ => Iff.rfl) e (by decide)
  | adjust folio kind amount => obtain ⟨_, _, _, _, e⟩ := serveAdjust_frame folio kind amount s; rw [e]; exact hu
  | charge p outlet cls unit qty cards =>
    obtain ⟨_, _, _, _, _, e⟩ := serveCharge_frame p outlet cls unit qty cards s; rw [e]; exact hu
  | void => obtain ⟨_, _, _, e⟩ := State.voidAll_frame s ‹_›; rw [e]; exact hu
  | close => obtain ⟨_, _, _, _, e⟩ := State.closeAccount_frame s ‹_› ‹_›; rw [e]; exact hu
  | unpair holders kslot => obtain ⟨_, _, e⟩ := State.unpairHolders_frame s kslot holders; rw [e]; exact hu
  | holdOpen p card gen outlet cls gross lifetime =>
    obtain ⟨_, _, _, _, e⟩ := serveHoldOpen_frame p card gen outlet cls gross lifetime s; rw [e]; exact hu
  | holdComplete p slot reuse gross =>
    obtain ⟨_, _, _, _, _, _, e⟩ := serveHoldComplete_frame p slot reuse gross s; rw [e]; exact hu
  | bill | settleBegin | settleStep | enrolStaff | enrolGuest | purge | openAccount | define | undefine | grant
  | endHold => exact hu

theorem State.closuresOk_iff : s.closuresOk = true ↔ s.closures.length ≤ 32 := by simp [State.closuresOk]

theorem closeAccount_closures (s : State) (slot : Nat) (a : Account) :
    (s.closeAccount slot a).closures = s.closures ++ [s.summaryOf a] := by
  obtain ⟨_, _, e⟩ := State.closeHolders_frame s a.holders
  simp only [State.closeAccount, e]

/-- A CLOSE alone adds a summary, where the queue has a place (05 R105, R108). -/
theorem Moves.closuresOk (h : Moves s t) (hc : s.closuresOk = true) : t.closuresOk = true := by
  induction h with
  | calm h => exact State.closuresOk_iff.mpr (Nat.le_trans h.closures (State.closuresOk_iff.mp hc))
  | apart e _ ih => exact of_records_eq (I := fun s => s.closuresOk = true) (fun _ => Iff.rfl) e ih
  | cleared e => exact of_records_eq (I := fun s => s.closuresOk = true) (fun _ => Iff.rfl) e (by decide)
  | close _ _ hq =>
    rw [State.closuresOk_iff, closeAccount_closures, List.length_append, List.length_singleton]
    exact hq
  | adjust folio kind amount => obtain ⟨_, _, _, _, e⟩ := serveAdjust_frame folio kind amount s; rw [e]; exact hc
  | charge p outlet cls unit qty cards =>
    obtain ⟨_, _, _, _, _, e⟩ := serveCharge_frame p outlet cls unit qty cards s; rw [e]; exact hc
  | void => obtain ⟨_, _, _, e⟩ := State.voidAll_frame s ‹_›; rw [e]; exact hc
  | unpair holders kslot => obtain ⟨_, _, e⟩ := State.unpairHolders_frame s kslot holders; rw [e]; exact hc
  | holdOpen p card gen outlet cls gross lifetime =>
    obtain ⟨_, _, _, _, e⟩ := serveHoldOpen_frame p card gen outlet cls gross lifetime s; rw [e]; exact hc
  | holdComplete p slot reuse gross =>
    obtain ⟨_, _, _, _, _, _, e⟩ := serveHoldComplete_frame p slot reuse gross s; rw [e]; exact hc
  | bill | settleBegin | settleStep | enrolStaff | enrolGuest | purge | openAccount | define | undefine | grant
  | endHold => exact hc

/-! ## The log (04 R69, R71) -/

/-- The law of the log, of its sequences and the counter alone. -/
def seqsOk (seqs : List Nat) (next : Nat) : Prop :=
  seqs.length ≤ 131072 ∧ seqs.Pairwise (· < ·) ∧ (∀ q ∈ seqs, q < next) ∧ next ≤ 4294967296

theorem seqsRise_iff (log : List Entry) (next : Nat) :
    seqsRise log next = true ↔ (log.map (·.seq)).Pairwise (· < ·) ∧ ∀ q ∈ log.map (·.seq), q < next := by
  induction log with
  | nil => simp [seqsRise]
  | cons e rest ih =>
    simp only [seqsRise, Bool.and_eq_true, decide_eq_true_eq, List.all_eq_true, ih, List.map_cons, List.pairwise_cons,
      List.mem_cons, forall_eq_or_imp, List.forall_mem_map]
    tauto

theorem State.logOk_iff : s.logOk = true ↔ seqsOk (s.log.map (·.seq)) s.nextSeq := by
  simp only [State.logOk, seqsOk, Bool.and_eq_true, decide_eq_true_eq, seqsRise_iff, List.length_map]
  tauto

/-- A step that keeps the sequences and the counter keeps the law of the log. -/
theorem logOk_of_seqs (hs : t.log.map (·.seq) = s.log.map (·.seq)) (hn : t.nextSeq = s.nextSeq)
    (h : s.logOk = true) : t.logOk = true := by
  rw [State.logOk_iff] at h ⊢
  rw [hs, hn]; exact h

theorem linkFrom_seqs (log : List Entry) (last : Option Nat) (seq : Nat) :
    (linkFrom log last seq).map (·.seq) = log.map (·.seq) := by
  unfold linkFrom
  split
  · rfl
  · rw [List.map_map]
    refine List.map_congr_left (fun e _ => ?_)
    simp only [Function.comp]
    split <;> rfl

/-- A place is made at the oldest end (04 R73). -/
theorem makePlace_seqs (log : List Entry) (h : log.length ≤ 131072) :
    ((makePlace log).map (·.seq)).Sublist (log.map (·.seq)) ∧ (makePlace log).length ≤ 131071 := by
  unfold makePlace
  split
  · exact ⟨(List.drop_sublist 1 log).map _, by rw [List.length_drop]; omega⟩
  · exact ⟨List.Sublist.refl _, by simp only [Config.logPlaces] at *; omega⟩

/-- The next sequence joins the newest end of a log with a place (04 R69, R71). -/
theorem seqsOk_append {seqs : List Nat} {next : Nat} (h : seqsOk seqs next) (hl : seqs.length ≤ 131071)
    (hn : next + 1 ≤ 4294967296) : seqsOk (seqs ++ [next]) (next + 1) := by
  obtain ⟨-, h2, h3, -⟩ := h
  refine ⟨by rw [List.length_append, List.length_singleton]; omega, ?_, fun q hq => ?_, hn⟩
  · rw [List.pairwise_append]
    exact ⟨h2, List.pairwise_singleton _ _, fun a ha b hb => by rw [List.mem_singleton.mp hb]; exact h3 a ha⟩
  · rw [List.mem_append, List.mem_singleton] at hq
    rcases hq with hq | rfl
    · exact Nat.lt_succ_of_lt (h3 q hq)
    · exact Nat.lt_succ_self q

theorem post_logOk {slot : Nat} {e : Entry} (hn : s.nextSeq + 1 ≤ 4294967296) (h : s.logOk = true) :
    (s.post slot e).logOk = true ∧ (s.post slot e).nextSeq ≤ s.nextSeq + 1 := by
  unfold State.post
  split
  · exact ⟨h, Nat.le_succ _⟩
  · refine ⟨?_, Nat.le_refl _⟩
    rw [State.logOk_iff] at h ⊢
    obtain ⟨h1, h2, h3, h4⟩ := h
    obtain ⟨hsub, hlen⟩ := makePlace_seqs s.log (by simpa using h1)
    have hp : seqsOk ((makePlace s.log).map (·.seq)) s.nextSeq :=
      ⟨Nat.le_trans hsub.length_le h1, h2.sublist hsub, fun q hq => h3 q (hsub.subset hq), h4⟩
    simp only [List.map_append, linkFrom_seqs, List.map_cons, List.map_nil]
    exact seqsOk_append hp (by rw [List.length_map]; exact hlen) hn

theorem postShares_logOk (p : Port) (outlet cls : Nat) (pr : Priced) (first : Nat) (shares : List Share) :
    ∀ (i : Nat) (s : State), s.nextSeq + shares.length ≤ 4294967296 → s.logOk = true →
      (s.postShares p outlet cls pr first shares i).1.logOk = true := by
  induction shares with
  | nil => exact fun _ _ _ h => h
  | cons x rest ih =>
    intro i s hn h
    rw [List.length_cons] at hn
    obtain ⟨h1, h2⟩ := post_logOk (slot := x.account) (e := shareEntry p outlet cls pr first i x) (by omega) h
    exact ih (i + 1) _ (by simp only [State.spendAt]; omega) h1

/-- A request that the log does not refuse has sequences enough (04 R71, R74). -/
theorem nextSeq_of_logRefusal {k : Nat} (h : s.logRefusal k = none) : s.nextSeq + k ≤ 4294967296 := by
  unfold State.logRefusal at h
  split at h
  · cases h
  split at h
  · cases h
  split at h
  · cases h
  · exact Nat.le_of_not_lt ‹_›

theorem settleIn_seqs (log : List Entry) (q : Nat) : (settleIn log q).map (·.seq) = log.map (·.seq) := by
  unfold settleIn
  rw [List.map_map]
  refine List.map_congr_left (fun e _ => ?_)
  simp only [Function.comp]
  split <;> rfl

theorem walk_seqs (log : List Entry) (a : Account) (passed fuel : Nat) :
    (walk log a passed fuel).log.map (·.seq) = log.map (·.seq) := by
  induction fuel generalizing log a passed with
  | zero => rfl
  | succ n ih =>
    simp only [walk]
    repeat' split
    · rfl
    · exact ih _ _ _
    · rw [ih, settleIn_seqs]
    · rfl

theorem voidAll_seqs (s : State) (g : List Entry) : (s.voidAll g).log.map (·.seq) = s.log.map (·.seq) := by
  rw [voidAll_log, List.map_map]
  refine List.map_congr_left (fun e _ => ?_)
  simp only [Function.comp]
  split <;> rfl

theorem serveAdjust_logOk (folio : BitVec 32) (kind : Byte) (amount : BitVec 32) (h : s.logOk = true) :
    (serveAdjust folio kind amount s).1.logOk = true := by
  rcases serveAdjust_cases folio kind amount s with e | ⟨why, -, e⟩ | ⟨k, slot, a, -, -, -, -, hr, e⟩ <;> rw [e]
  · exact h
  · exact h
  · exact (post_logOk (nextSeq_of_logRefusal hr) h).1

theorem serveCharge_logOk (p : Port) (outlet : BitVec 16) (cls : Byte) (unit : BitVec 32) (qty : Byte)
    (cards : List Presentation) (h : s.logOk = true) : (serveCharge p outlet cls unit qty cards s).1.logOk = true := by
  rcases serveCharge_cases p outlet cls unit qty cards s with
    e | ⟨card, r, e⟩ | ⟨why, -, e⟩ | ⟨shares, pr, ha, hr, e⟩ <;> rw [e]
  · exact h
  · obtain ⟨_, _, e⟩ := State.declineEffect_frame s card r; rw [e]; exact h
  · exact h
  · obtain ⟨-, new, hnew, hlen, -⟩ := authorize_passed _ _ _ _ _ _ _ _ _ _ (Nat.le_refl 1) ha
    rw [List.nil_append] at hnew; subst hnew
    exact postShares_logOk _ _ _ _ _ _ _ _ (by rw [hlen]; exact nextSeq_of_logRefusal hr) h

theorem serveHoldComplete_logOk (p : Port) (slot reuse : Byte) (gross : BitVec 32) (h : s.logOk = true) :
    (serveHoldComplete p slot reuse gross s).1.logOk = true := by
  rcases serveHoldComplete_cases p slot reuse gross s with e | ⟨why, -, e⟩ | ⟨x, -, hr, e⟩ <;> rw [e]
  · exact h
  · exact h
  · have hn := nextSeq_of_logRefusal hr
    exact (post_logOk (s := s.endHold slot.toNat x) hn h).1

theorem Moves.logOk (hm : Moves s t) (h : s.logOk = true) : t.logOk = true := by
  induction hm with
  | calm c => exact logOk_of_seqs (by rw [c.log]) c.nextSeq h
  | apart e _ ih => exact of_records_eq (I := fun s => s.logOk = true) (fun _ => Iff.rfl) e ih
  | cleared e => exact of_records_eq (I := fun s => s.logOk = true) (fun _ => Iff.rfl) e (by decide)
  | settleStep => exact logOk_of_seqs (walk_seqs _ _ _ _) rfl h
  | adjust folio kind amount => exact serveAdjust_logOk folio kind amount h
  | charge p outlet cls unit qty cards => exact serveCharge_logOk p outlet cls unit qty cards h
  | @void e g hg =>
    refine logOk_of_seqs (voidAll_seqs s g) ?_ h
    obtain ⟨_, _, _, e⟩ := State.voidAll_frame s g; rw [e]
  | holdComplete p slot reuse gross => exact serveHoldComplete_logOk p slot reuse gross h
  | close => obtain ⟨_, _, _, _, e⟩ := State.closeAccount_frame s ‹_› ‹_›; rw [e]; exact h
  | unpair holders kslot => obtain ⟨_, _, e⟩ := State.unpairHolders_frame s kslot holders; rw [e]; exact h
  | holdOpen p card gen outlet cls gross lifetime =>
    obtain ⟨_, _, _, _, e⟩ := serveHoldOpen_frame p card gen outlet cls gross lifetime s; rw [e]; exact h
  | bill | settleBegin | enrolStaff | enrolGuest | purge | openAccount | define | undefine | grant | endHold => exact h

/-! ## The amounts (01 R2, R13; 04 R93) -/

theorem Cardholder.Edited.sameAmounts {r r' : Table Cardholder} (h : Tracks Cardholder.Edited r r') :
    sameAmounts r r' := by
  intro i d hd
  obtain ⟨c, hc, e⟩ := h.back i d hd
  exact ⟨c, hc, e.spent, e.spentDay, e.held, e.account, e.closed.mpr⟩

theorem Calm.amountsOk (h : Calm s t) (hm : s.amountsOk) : t.amountsOk :=
  amountsOk_day (s := { t with shipDay := s.shipDay })
    (amountsOk_roster hm h.accounts rfl (Cardholder.Edited.sameAmounts h.roster)) rfl rfl h.day

/-- An account taken into a FREE slot loses no account. -/
theorem keepsLists_new {r : Table Account} {k : Nat} {x : Account} (hk : r.fetch k = none) :
    keepsLists r (r.store k x) :=
  fun i a ha => ⟨a, by rw [Table.fetch_store_ne _ _ (Table.ne_of_fetch ha hk)]; exact ha, rfl, fun _ => id⟩

/-- A new record of the roster, with nothing spent or held, whose account lists it (01 R6). -/
theorem enrol_amountsOk {slot : Nat} {d : Cardholder} (hm : s.amountsOk) (ha : t.accounts = s.accounts ∨ ∃ k a b,
      s.accounts.fetch k = some a ∧ t.accounts = s.accounts.store k b ∧ (a.inRange = true → b.inRange = true) ∧
        b.serial = a.serial ∧ ∀ i ∈ a.holders, i ∈ b.holders)
    (hr : t.roster = s.roster.store slot d) (hd : t.shipDay = s.shipDay) (h0 : d.spent = 0) (h1 : d.held = 0)
    (h2 : d.spentDay ≤ s.shipDay) (h3 : ∀ r, d.account = some r → ∃ b, t.accounts.fetch r.slot = some b ∧
      b.serial = r.serial ∧ slot ∈ b.holders) : t.amountsOk := by
  have hs : d.spendInRange s.shipDay = true := by
    rw [spendInRange_iff]
    refine ⟨h2, by omega, ?_⟩
    unfold Cardholder.spentToday
    split <;> omega
  have hkeep : keepsLists s.accounts t.accounts := by
    rcases ha with e | ⟨k, a, b, hk, e, -, hb⟩ <;> rw [e]
    · exact keepsLists_refl _
    · exact keepsLists_store hk hb
  refine ⟨fun i b hb => ?_, fun i c hc => ?_⟩
  · rcases ha with e | ⟨k, a, x, hk, e, hx, -⟩ <;> rw [e] at hb
    · exact hm.1 i b hb
    · rcases Table.fetch_store_cases hb with ⟨rfl, rfl⟩ | ⟨-, hb⟩
      · exact hx (hm.1 _ a hk)
      · exact hm.1 i b hb
  · rw [hr] at hc
    rw [hd]
    rcases Table.fetch_store_cases hc with ⟨rfl, rfl⟩ | ⟨-, hc⟩
    · exact ⟨hs, fun _ => h3⟩
    · refine ⟨(hm.2 i c hc).1, fun hcl r hacc => ?_⟩
      obtain ⟨a, h4, h5, h6⟩ := (hm.2 i c hc).2 hcl r hacc
      obtain ⟨b, h7, h8, h9⟩ := hkeep _ _ h4
      exact ⟨b, h7, h8.trans h5, h9 i h6⟩

/-- A CLOSE drops one account, whose cardholders are CLOSED after it (05 R106). -/
theorem closeAccount_amountsOk {slot : Nat} {a : Account} (hw : s.tablesWf = true)
    (ha : s.accounts.fetch slot = some a) (hm : s.amountsOk) : (s.closeAccount slot a).amountsOk := by
  have same := closeHolders_sameAmounts s a.holders
  have closed := closeHolders_closed a.holders s
  obtain ⟨r, k, e⟩ := State.closeHolders_frame s a.holders
  have hm' : ({ s with roster := r } : State).amountsOk := amountsOk_roster hm rfl rfl (by rw [e] at same; exact same)
  simp only [State.closeAccount]
  rw [e] at closed ⊢
  refine ⟨fun i b hb => hm.1 i b (Table.fetch_remove_cases (State.accounts_wf hw) hb).2,
    fun i c hc => ⟨(hm'.2 i c hc).1, fun hcl q hacc => ?_⟩⟩
  obtain ⟨b, hb, hs, hi⟩ := (hm'.2 i c hc).2 hcl q hacc
  have hne : q.slot ≠ slot := by
    rintro rfl
    have hb' : s.accounts.fetch q.slot = some b := hb
    rw [ha] at hb'; cases hb'
    exact hcl (closed i c hi hc)
  exact ⟨b, by rw [Table.fetch_remove_ne _ hne]; exact hb, hs, hi⟩

/-- An account that is not OPEN holds nothing (04 R81). -/
theorem held_zero_of_not_opened {slot : Nat} {a : Account} (hw : s.tablesWf = true) (hh : s.holdsOk)
    (ha : s.accounts.fetch slot = some a) (hs : a.state ≠ .opened) : a.held = 0 := by
  obtain ⟨h1, h2, -⟩ := hh
  rw [h2 slot a ha, State.heldSum, List.filter_eq_nil_iff.mpr, List.map_nil, List.sum_nil]
  intro h hmem hp
  obtain ⟨⟨i, x⟩, hx, hl⟩ := List.mem_filterMap.mp hmem
  obtain ⟨⟨b, hb, -, ho⟩, -⟩ :=
    h1 i x h (Table.fetch_of_mem (Table.rising_of_wf (State.holds_wf hw)) hx) hl
  rw [eq_of_beq hp, ha] at hb; cases hb
  exact hs ho

/-- Cards taken from the roster, or cabins from a cardholder, leave the amounts of the others. -/
theorem amountsOk_subset {r : Table Cardholder} (hm : s.amountsOk) (ht : t.accounts = s.accounts)
    (hd : t.shipDay = s.shipDay) (hr : t.roster = r)
    (h : ∀ i c, r.fetch i = some c → s.roster.fetch i = some c) : t.amountsOk :=
  amountsOk_roster hm ht hd (by rw [hr]; exact fun i c hc => ⟨c, h i c hc, rfl, rfl, rfl, rfl, id⟩)

theorem Moves.amountsOk (h : Moves s t) (hw : s.tablesWf = true) (hset : s.settingsOk = true) (hf : s.foliosOk)
    (hh : s.holdsOk) (hm : s.amountsOk) : t.amountsOk := by
  induction h with
  | calm h => exact h.amountsOk hm
  | apart e _ ih => exact of_records_eq (fun _ => Iff.rfl) e ih
  | cleared e => exact of_records_eq (s := .reset) (fun _ => Iff.rfl) e (amountsOk_empty rfl rfl)
  | bill ha hb =>
    exact amountsOk_account hm ha rfl (hb.range (hm.1 _ _ ha)) hb.serial (fun i hi => hb.holders ▸ hi) rfl rfl
  | settleBegin ha => exact amountsOk_account hm ha rfl (hm.1 _ _ ha :) rfl (fun _ => id) rfl rfl
  | settleStep ha hs hb =>
    have h0 := held_zero_of_not_opened hw hh ha (by rw [hs]; decide)
    obtain ⟨h1, -, -⟩ := walk_inRange Config.settleStride s.log _ 0 h0 (hm.1 _ _ ha)
    have hst := walkLeaves_steady hs hb
    refine amountsOk_account hm ha rfl ?_ hst.serial (fun i hi => hst.holders ▸ hi) rfl rfl
    rcases hb with rfl | ⟨rfl, -⟩ <;> exact h1
  | adjust folio kind amount => exact serveAdjust_amountsOk folio kind amount hw hm
  | charge p outlet cls unit qty cards => exact serveCharge_amountsOk p outlet cls unit qty cards hw hset hm
  | void hg => exact voidAll_amountsOk hw hg hm
  | enrolStaff mask => exact enrol_amountsOk hm (.inl rfl) rfl rfl rfl rfl (Nat.zero_le _) (fun r h => by cases h)
  | enrolGuest mask _ _ _ ha =>
    refine enrol_amountsOk hm (.inr ⟨_, _, _, ha, rfl, id, rfl, fun i hi => List.mem_append_left _ hi⟩) rfl rfl rfl rfl
      (Nat.le_refl _) (fun r h => ?_)
    cases h
    exact ⟨_, Table.fetch_store_same _ _ _, rfl, List.mem_append_right _ (List.mem_singleton_self _)⟩
  | purge =>
    exact amountsOk_subset hm rfl rfl rfl
      (fun i c hc => (Table.fetch_remove_cases (State.roster_wf hw) hc).2)
  | openAccount hslot _ hl hd =>
    have hfree := (Table.freeSlot_spec (State.accounts_wf hw) hslot).2
    refine amountsOk_of hm (fun i b hb => ?_) (fun i c hc => (hm.2 i c hc).1) (keepsLists_new hfree)
      (fun i c hc => ⟨c, hc, rfl, id⟩)
    rcases Table.fetch_store_cases hb with ⟨-, rfl⟩ | ⟨-, hb⟩
    · exact Account.inRange_iff.mpr ⟨hl, hd, by simp⟩
    · exact hm.1 i b hb
  | close ha => exact closeAccount_amountsOk hw ha hm
  | define => exact hm
  | undefine => exact hm
  | grant hc => exact amountsOk_roster hm rfl rfl (sameAmounts_store hc ⟨rfl, rfl, rfl, rfl, id⟩)
  | unpair holders kslot =>
    have hr := unpairs_sameAmounts (fun t h => t.unpair h kslot) (fun t h => unpair_sameAmounts t h kslot) holders s
    obtain ⟨_, _, e⟩ := State.unpairHolders_frame s kslot holders
    rw [e] at hr ⊢
    exact amountsOk_roster hm rfl rfl hr
  | holdOpen p card gen outlet cls gross lifetime =>
    exact serveHoldOpen_amountsOk p card gen outlet cls gross lifetime hw hf hh hset hm
  | holdComplete p slot reuse gross => exact serveHoldComplete_amountsOk p slot reuse gross hh hm
  | endHold => exact endHold_amountsOk _ _ hm

/-- Settles O55: each move of the records keeps each part of the law. -/
theorem recordsStayInRange : Obligations.RecordsStayInRange := by
  intro s t hs hw
  obtain ⟨x, ⟨ports, pending, rfl⟩, hm⟩ := step_moves hw hs
  have hwt := hm.tablesWf hw
  exact ⟨hwt, fun h => (State.cardsInRange_iff hwt).mpr (hm.cardsFit hw ((State.cardsInRange_iff hw).mp h)),
    hm.unlocksOk, hm.logOk, hm.closuresOk, hm.amountsOk hw⟩

end Sys2Proof.Machine
end

section
/-! PROOFS. GrantsStayTwoSided: pairs that leave the grant relation, and the moves that keep it (01 R21 to R25). -/

namespace Sys2Proof.Machine

variable {s t : State}

/-! ## Pairs that leave the relation -/

theorem State.unpair_roster (s : State) (holder kslot i : Nat) : (s.unpair holder kslot).roster.fetch i =
    if i = holder then (s.roster.fetch i).map (fun c => { c with cabins := c.cabins.filter (fun k => k != kslot) })
    else s.roster.fetch i :=
  Table.fetch_modify _ _ _ _

theorem State.unpair_cabins (s : State) (holder kslot i : Nat) : (s.unpair holder kslot).cabins.fetch i =
    if i = kslot then (s.cabins.fetch i).map (fun k => k.dropGrantee holder) else s.cabins.fetch i :=
  Table.fetch_modify _ _ _ _

theorem Cabin.dropGrantee_twice (k : Cabin) (h : Nat) : (k.dropGrantee h).dropGrantee h = k.dropGrantee h := by
  simp only [Cabin.dropGrantee, List.filter_filter, Bool.and_self]
  split <;> rfl

/-- A cardholder's pairs with a list of cabins leave its own list (01 R21). -/
theorem unpairCabins_roster (holder : Nat) (ks : List Nat) (s : State) (i : Nat) :
    (ks.foldl (fun t k => t.unpair holder k) s).roster.fetch i =
      if i = holder then
        (s.roster.fetch i).map (fun c => { c with cabins := c.cabins.filter (fun k => decide (k ∉ ks)) })
      else s.roster.fetch i := by
  induction ks generalizing s with
  | nil => cases h : s.roster.fetch i <;> simp [h]
  | cons k rest ih =>
    rw [List.foldl_cons, ih, State.unpair_roster]
    split
    · rw [Option.map_map]
      congr 1
      funext c
      simp only [Function.comp, List.filter_filter]
      congr 2
      funext x
      by_cases hx : x = k <;> simp [hx]
    · rfl

/-- And the lists of those cabins (01 R21). -/
theorem unpairCabins_cabins (holder : Nat) (ks : List Nat) (s : State) (i : Nat) :
    (ks.foldl (fun t k => t.unpair holder k) s).cabins.fetch i =
      if i ∈ ks then (s.cabins.fetch i).map (fun k => k.dropGrantee holder) else s.cabins.fetch i := by
  induction ks generalizing s with
  | nil => simp
  | cons k rest ih =>
    rw [List.foldl_cons, ih, State.unpair_cabins]
    by_cases hr : i ∈ rest <;> by_cases hk : i = k <;>
      simp [hr, hk, Option.map_map, Function.comp_def, Cabin.dropGrantee_twice]

/-! ## The moves keep the relation -/

/-- What the grant relation reads of a cardholder: its kind and cabins, and whether it is CLOSED. -/
def Cardholder.SameGrants (c d : Cardholder) : Prop :=
  d.kind = c.kind ∧ d.cabins = c.cabins ∧ (d.state = .closed → c.state = .closed)

theorem Cardholder.SameGrants.refl (c : Cardholder) : c.SameGrants c := ⟨rfl, rfl, id⟩

/-- Records followed in what the relation reads keep it. -/
theorem grantsOk_of_tracks (hr : Tracks Cardholder.SameGrants s.roster t.roster)
    (hk : Tracks Cabin.Steady s.cabins t.cabins) (hg : s.grantsOk) : t.grantsOk := by
  constructor
  · intro h d hd
    obtain ⟨c, hc, hkind, hcab, hcl⟩ := hr.back h d hd
    obtain ⟨g1, g2, g3, g4⟩ := hg.1 h c hc
    rw [hcab]
    refine ⟨g1, g2, fun hs => g3 (hs.imp (fun e => hkind ▸ e) hcl), fun k hk' => ?_⟩
    obtain ⟨r, hr1, hr2⟩ := g4 k hk'
    obtain ⟨r', hr3, hr4⟩ := hk.onto k r hr1
    exact ⟨r', hr3, hr4.grantees ▸ hr2⟩
  · intro k r' hr'
    obtain ⟨r, hr1, hr2⟩ := hk.back k r' hr'
    obtain ⟨g1, g2, g3, g4⟩ := hg.2 k r hr1
    rw [hr2.grantees]
    refine ⟨g1, g2, fun hp => (hr2.privacy hp).elim g3 id, fun h hh => ?_⟩
    obtain ⟨c, hc, hin⟩ := g4 h hh
    obtain ⟨d, hd, -, hcab, -⟩ := hr.onto h c hc
    exact ⟨d, hd, hcab ▸ hin⟩

theorem Steady.grantsOk (h : Steady s t) (hg : s.grantsOk) : t.grantsOk :=
  grantsOk_of_tracks (h.roster.mono (fun _ _ e => ⟨e.kind, e.cabins, e.closed.mp⟩)) h.cabins hg

theorem moveHeld_grantsOk (h : Hold) (f : Nat → Nat) (hg : s.grantsOk) : (s.moveHeld h f).grantsOk :=
  grantsOk_of_tracks (.modify .refl _ _ _ (fun _ _ => ⟨rfl, rfl, id⟩)) (.refl .refl _) hg

theorem unpair_grantsOk (s : State) (holder kslot : Nat) (hg : s.grantsOk) : (s.unpair holder kslot).grantsOk := by
  constructor
  · intro i d hd
    rw [State.unpair_roster] at hd
    split at hd
    · subst_vars
      obtain ⟨c, hc, rfl⟩ := Option.map_eq_some_iff.mp hd
      obtain ⟨g1, g2, g3, g4⟩ := hg.1 _ c hc
      refine ⟨g1.filter _, Nat.le_trans (List.length_filter_le _ _) g2, fun hs => by simp [g3 hs], fun k hk => ?_⟩
      simp only [List.mem_filter, bne_iff_ne] at hk
      obtain ⟨r, hr, hin⟩ := g4 k hk.1
      exact ⟨r, by rw [State.unpair_cabins, if_neg hk.2]; exact hr, hin⟩
    · obtain ⟨g1, g2, g3, g4⟩ := hg.1 i d hd
      refine ⟨g1, g2, g3, fun k hk => ?_⟩
      obtain ⟨r, hr, hin⟩ := g4 k hk
      by_cases hkk : k = kslot
      · exact ⟨r.dropGrantee holder, by rw [State.unpair_cabins, if_pos hkk, hr]; rfl,
          List.mem_filter.mpr ⟨hin, bne_iff_ne.mpr ‹_›⟩⟩
      · exact ⟨r, by rw [State.unpair_cabins, if_neg hkk]; exact hr, hin⟩
  · intro k r' hr'
    rw [State.unpair_cabins] at hr'
    split at hr'
    · subst_vars
      obtain ⟨r, hr, rfl⟩ := Option.map_eq_some_iff.mp hr'
      obtain ⟨g1, g2, -, g4⟩ := hg.2 _ r hr
      refine ⟨g1.filter _, Nat.le_trans (List.length_filter_le _ _) g2, fun hp he => ?_, fun h hh => ?_⟩
      · simp only [Cabin.dropGrantee] at hp he
        rw [if_pos he] at hp; cases hp
      · simp only [Cabin.dropGrantee, List.mem_filter, bne_iff_ne] at hh
        obtain ⟨c, hc, hin⟩ := g4 h hh.1
        exact ⟨c, by rw [State.unpair_roster, if_neg hh.2]; exact hc, hin⟩
    · obtain ⟨g1, g2, g3, g4⟩ := hg.2 k r' hr'
      refine ⟨g1, g2, g3, fun h hh => ?_⟩
      obtain ⟨c, hc, hin⟩ := g4 h hh
      by_cases hhh : h = holder
      · have hin' : k ∈ c.cabins.filter (fun k => k != kslot) := List.mem_filter.mpr ⟨hin, bne_iff_ne.mpr ‹_›⟩
        exact ⟨_, by rw [State.unpair_roster, if_pos hhh, hc]; rfl, hin'⟩
      · exact ⟨c, by rw [State.unpair_roster, if_neg hhh]; exact hc, hin⟩

/-- A cardholder that lists no cabin is in no cabin's list, so its record may change or go (01 R10, R25). -/
theorem grantsOk_unlisted {slot : Nat} {c : Cardholder} (hg : s.grantsOk) (hc : s.roster.fetch slot = some c)
    (h0 : c.cabins = []) (hk : t.cabins = s.cabins) (hne : ∀ i, i ≠ slot → t.roster.fetch i = s.roster.fetch i)
    (hd : ∀ d, t.roster.fetch slot = some d → d.cabins = []) : t.grantsOk := by
  constructor
  · intro i d hi
    by_cases his : i = slot
    · rw [hd d (his ▸ hi)]
      exact ⟨List.nodup_nil, Nat.zero_le _, fun _ => rfl, fun k h => by cases h⟩
    · rw [hne i his] at hi
      rw [hk]
      exact hg.1 i d hi
  · intro k r hr
    rw [hk] at hr
    obtain ⟨g1, g2, g3, g4⟩ := hg.2 k r hr
    refine ⟨g1, g2, g3, fun h hh => ?_⟩
    obtain ⟨d, hd', hin⟩ := g4 h hh
    have his : h ≠ slot := by
      rintro rfl
      rw [hc] at hd'; cases hd'
      rw [h0] at hin; cases hin
    exact ⟨d, by rw [hne h his]; exact hd', hin⟩

/-- A new cardholder, which lists no cabin (01 R6). -/
theorem enrol_grantsOk {slot : Nat} {d : Cardholder} (hg : s.grantsOk) (hfree : s.roster.fetch slot = none)
    (h0 : d.cabins = []) (hr : t.roster = s.roster.store slot d) (hk : t.cabins = s.cabins) : t.grantsOk := by
  constructor
  · intro i c hi
    rw [hr] at hi
    rw [hk]
    rcases Table.fetch_store_cases hi with ⟨-, rfl⟩ | ⟨-, hi⟩
    · rw [h0]
      exact ⟨List.nodup_nil, Nat.zero_le _, fun _ => rfl, fun k h => by cases h⟩
    · exact hg.1 i c hi
  · intro k r hr'
    rw [hk] at hr'
    obtain ⟨g1, g2, g3, g4⟩ := hg.2 k r hr'
    refine ⟨g1, g2, g3, fun h hh => ?_⟩
    obtain ⟨c, hc, hin⟩ := g4 h hh
    exact ⟨c, by rw [hr, Table.fetch_store_ne _ _ (Table.ne_of_fetch hc hfree)]; exact hc, hin⟩

/-- Which records may be freed (01 R10). -/
theorem Cardholder.purgeable_iff (c : Cardholder) : c.purgeable = true ↔
    (c.kind = .staff ∧ c.state = .suspended) ∨
      (c.kind ≠ .staff ∧ c.state = .closed ∧ (c.presence = some .notBoarded ∨ c.presence = some .disembarked)) := by
  unfold Cardholder.purgeable
  cases hk : c.kind <;> simp

/-- A record that may be purged lists no cabin (01 R10, R21). -/
theorem cabins_nil_of_purgeable {slot : Nat} {c : Cardholder} (hg : s.grantsOk) (hc : s.roster.fetch slot = some c)
    (hp : c.purgeable = true) : c.cabins = [] := by
  obtain ⟨-, -, none_listed, -⟩ := hg.1 slot c hc
  refine none_listed ?_
  rcases c.purgeable_iff.mp hp with ⟨hk, -⟩ | ⟨-, hs, -⟩
  · exact .inl hk
  · exact .inr hs

/-- A cardholder closed loses its pairs, so it may be CLOSED (01 R25). -/
theorem closeHolder_grantsOk (s : State) (holder : Nat) (hg : s.grantsOk) : (s.closeHolder holder).grantsOk := by
  unfold State.closeHolder
  split
  · exact hg
  · rename_i c hc
    have hbare := foldl_keeps (I := State.grantsOk) (fun t k => unpair_grantsOk t holder k) c.cabins hg
    have hcard := unpairCabins_roster holder c.cabins s holder
    rw [if_pos rfl, hc, Option.map_some] at hcard
    refine grantsOk_unlisted hbare hcard (List.filter_eq_nil_iff.mpr (by simp)) rfl (fun i hi => ?_) (fun d hd => ?_)
    · simp only [Table.fetch_modify, if_neg hi]
    · simp only [Table.fetch_modify, if_true, hcard, Option.map_some, Option.some.injEq] at hd
      rw [← hd]
      exact List.filter_eq_nil_iff.mpr (by simp)

/-- A cabin slot that no cardholder lists, written or freed (01 R18, R19). -/
theorem grantsOk_ungranted {kslot : Nat} (hg : s.grantsOk) (hr : t.roster = s.roster)
    (hun : ∀ k, s.cabins.fetch kslot = some k → k.grantees = [])
    (hne : ∀ i, i ≠ kslot → t.cabins.fetch i = s.cabins.fetch i)
    (hk : ∀ k, t.cabins.fetch kslot = some k → k.grantees = [] ∧ k.privacy = false) : t.grantsOk := by
  constructor
  · intro i c hi
    rw [hr] at hi
    obtain ⟨g1, g2, g3, g4⟩ := hg.1 i c hi
    refine ⟨g1, g2, g3, fun k hk' => ?_⟩
    obtain ⟨r, hr', hin⟩ := g4 k hk'
    have hkk : k ≠ kslot := by rintro rfl; rw [hun r hr'] at hin; cases hin
    exact ⟨r, by rw [hne k hkk]; exact hr', hin⟩
  · intro k r hkr
    by_cases hkk : k = kslot
    · obtain ⟨h1, h2⟩ := hk r (hkk ▸ hkr)
      rw [h1, h2]
      exact ⟨List.nodup_nil, Nat.zero_le _, (by decide), fun h hh => by cases hh⟩
    · rw [hne k hkk] at hkr
      rw [hr]
      exact hg.2 k r hkr

/-- A GRANT writes both sides (01 R22). -/
theorem grant_grantsOk {slot kslot : Nat} {c : Cardholder} {k : Cabin} (hg : s.grantsOk)
    (hc : s.roster.fetch slot = some c) (hk : s.cabins.fetch kslot = some k)
    (hs : ¬ (c.kind = .staff ∨ c.state = .closed)) (hn : kslot ∉ c.cabins) (hl : c.cabins.length < 4)
    (hl' : k.grantees.length < 8) (hr : t.roster = s.roster.store slot { c with cabins := c.cabins ++ [kslot] })
    (hcab : t.cabins = s.cabins.store kslot { k with grantees := k.grantees ++ [slot] }) : t.grantsOk := by
  have hn' : slot ∉ k.grantees := by
    intro hin
    obtain ⟨-, -, -, listed⟩ := hg.2 kslot k hk
    obtain ⟨d, hd, hin'⟩ := listed slot hin
    rw [hc] at hd; cases hd
    exact hn hin'
  have hnd : ∀ {l : List Nat} {x : Nat}, l.Nodup → x ∉ l → (l ++ [x]).Nodup := fun h hx =>
    List.nodup_append.mpr ⟨h, by simp, fun a ha b hb => by rw [List.mem_singleton.mp hb]; rintro rfl; exact hx ha⟩
  constructor
  · intro i d hd
    rw [hr] at hd
    rw [hcab]
    have side : ∀ j r, s.cabins.fetch j = some r → i ∈ r.grantees → ∃ r',
        (s.cabins.store kslot { k with grantees := k.grantees ++ [slot] }).fetch j = some r' ∧ i ∈ r'.grantees := by
      intro j r hj hin
      by_cases hjk : j = kslot
      · subst hjk; rw [hk] at hj; cases hj
        exact ⟨_, Table.fetch_store_same _ _ _, List.mem_append_left _ hin⟩
      · exact ⟨r, by rw [Table.fetch_store_ne _ _ hjk]; exact hj, hin⟩
    rcases Table.fetch_store_cases hd with ⟨rfl, rfl⟩ | ⟨-, hd⟩
    · obtain ⟨g1, -, -, g4⟩ := hg.1 i c hc
      refine ⟨hnd g1 hn, by simp only [List.length_append, List.length_singleton]; omega, fun h => absurd h hs,
        fun j hj => ?_⟩
      rcases List.mem_append.mp hj with hj | hj
      · obtain ⟨r, h1, h2⟩ := g4 j hj
        exact side j r h1 h2
      · rw [List.mem_singleton.mp hj]
        exact ⟨_, Table.fetch_store_same _ _ _, List.mem_append_right _ (List.mem_singleton_self _)⟩
    · obtain ⟨g1, g2, g3, g4⟩ := hg.1 i d hd
      refine ⟨g1, g2, g3, fun j hj => ?_⟩
      obtain ⟨r, h1, h2⟩ := g4 j hj
      exact side j r h1 h2
  · intro j r hj
    rw [hcab] at hj
    rw [hr]
    have side : ∀ h d, s.roster.fetch h = some d → j ∈ d.cabins → ∃ d',
        (s.roster.store slot { c with cabins := c.cabins ++ [kslot] }).fetch h = some d' ∧ j ∈ d'.cabins := by
      intro h d hh hin
      by_cases hhs : h = slot
      · subst hhs; rw [hc] at hh; cases hh
        exact ⟨_, Table.fetch_store_same _ _ _, List.mem_append_left _ hin⟩
      · exact ⟨d, by rw [Table.fetch_store_ne _ _ hhs]; exact hh, hin⟩
    rcases Table.fetch_store_cases hj with ⟨rfl, rfl⟩ | ⟨-, hj⟩
    · obtain ⟨g1, -, -, g4⟩ := hg.2 j k hk
      refine ⟨hnd g1 hn', by simp only [List.length_append, List.length_singleton]; omega, fun _ => by simp,
        fun h hh => ?_⟩
      rcases List.mem_append.mp hh with hh | hh
      · obtain ⟨d, h1, h2⟩ := g4 h hh
        exact side h d h1 h2
      · rw [List.mem_singleton.mp hh]
        exact ⟨_, Table.fetch_store_same _ _ _, List.mem_append_right _ (List.mem_singleton_self _)⟩
    · obtain ⟨g1, g2, g3, g4⟩ := hg.2 j r hj
      refine ⟨g1, g2, g3, fun h hh => ?_⟩
      obtain ⟨d, h1, h2⟩ := g4 h hh
      exact side h d h1 h2

theorem grantsOk_empty (hr : s.roster = []) (hk : s.cabins = []) : s.grantsOk :=
  ⟨fun i c h => (by rw [hr] at h; cases h), fun k r h => (by rw [hk] at h; cases h)⟩

theorem Moves.grantsOk (h : Moves s t) (hw : s.tablesWf = true) (hg : s.grantsOk) : t.grantsOk := by
  obtain ⟨hrw, -, hkw, -⟩ := State.tablesWf_iff.mp hw
  induction h with
  | calm h => exact h.steady.grantsOk hg
  | apart e _ ih => exact of_records_eq (fun _ => Iff.rfl) e ih
  | cleared e => exact of_records_eq (s := .reset) (fun _ => Iff.rfl) e (grantsOk_empty rfl rfl)
  | bill => exact hg
  | settleBegin => exact hg
  | settleStep => exact hg
  | adjust folio kind amount => exact (Steady.adjust folio kind amount s).grantsOk hg
  | charge p outlet cls unit qty cards => exact (Steady.charge p outlet cls unit qty cards s).grantsOk hg
  | void => exact (Steady.voidAll s _).grantsOk hg
  | enrolStaff mask hslot => exact enrol_grantsOk hg (Table.freeSlot_spec hrw hslot).2 rfl rfl rfl
  | enrolGuest mask _ hslot => exact enrol_grantsOk hg (Table.freeSlot_spec hrw hslot).2 rfl rfl rfl
  | @purge slot c hc hp =>
    refine grantsOk_unlisted hg hc (cabins_nil_of_purgeable hg hc hp) rfl (fun i hi => Table.fetch_remove_ne _ hi)
      (fun d hd => absurd rfl (Table.fetch_remove_cases hrw hd).1)
  | openAccount => exact hg
  | @close slot a => exact foldl_keeps (I := State.grantsOk) closeHolder_grantsOk a.holders hg
  | @define slot number deck hslot =>
    refine grantsOk_ungranted hg rfl (fun k hk => ?_) (fun i hi => Table.fetch_store_ne _ _ hi) (fun k hk => ?_)
    · rw [(Table.freeSlot_spec hkw hslot).2] at hk; cases hk
    · rw [Table.fetch_store_same] at hk; cases hk; exact ⟨rfl, rfl⟩
  | @undefine slot k hk h0 =>
    refine grantsOk_ungranted hg rfl (fun r hr => ?_) (fun i hi => Table.fetch_remove_ne _ hi)
      (fun r hr => absurd rfl (Table.fetch_remove_cases hkw hr).1)
    rw [hk] at hr; cases hr; exact h0
  | grant hc hk hs hn hl hl' => exact grant_grantsOk hg hc hk hs hn hl hl' rfl rfl
  | unpair holders kslot =>
    exact foldl_keeps (I := State.grantsOk) (fun t h => unpair_grantsOk t h kslot) holders hg
  | holdOpen p card gen outlet cls gross lifetime =>
    rcases serveHoldOpen_steady_or p card gen outlet cls gross lifetime s with h | ⟨x, h, slot, reuse, -, -, -, -, -, e⟩
    · exact h.steady.grantsOk hg
    · rw [e]; exact moveHeld_grantsOk (s := { s with holds := _ }) h _ hg
  | holdComplete p slot reuse gross =>
    rcases serveHoldComplete_steady_or p slot reuse gross s with h | ⟨x, -, h⟩
    · exact h.steady.grantsOk hg
    · exact h.grantsOk (moveHeld_grantsOk (s := { s with holds := _ }) x _ hg)
  | endHold => exact moveHeld_grantsOk (s := { s with holds := _ }) _ _ hg

/-- Settles O56: each move of the records keeps both sides of the grant relation. -/
theorem grantsStayTwoSided : Obligations.GrantsStayTwoSided :=
  fun _ _ hs hw hg =>
    step_of_moves (P := State.grantsOk) (fun _ _ _ h => h) (fun _ _ hw h hm => hm.grantsOk hw h) hw hs hg

end Sys2Proof.Machine
end

section
/-! PROOFS. HeldFiguresStayExact: the moves keep keys unique and account lists true, and held figures equal to the LIVE
holds. -/

namespace Sys2Proof.Machine

/-! ## Keys that name one record each -/

section Tables

variable {α : Type}

/-- Records alike in their key stand in one slot. -/
def Once (same : α → α → Prop) (t : Table α) : Prop :=
  ∀ i a j b, t.fetch i = some a → t.fetch j = some b → same a b → i = j

theorem Once.of_subset {same : α → α → Prop} {t t' : Table α} (h : Once same t)
    (hs : ∀ i a, t'.fetch i = some a → t.fetch i = some a) : Once same t' :=
  fun i a j b ha hb => h i a j b (hs i a ha) (hs j b hb)

theorem Once.of_tracks {same R : α → α → Prop} (hR : ∀ {a a' b b'}, R a a' → R b b' → same a' b' → same a b)
    {t t' : Table α} (ht : Tracks R t t') (h : Once same t) : Once same t' := by
  intro i a' j b' ha' hb' hs
  obtain ⟨a, ha, haa⟩ := ht.back i a' ha'
  obtain ⟨b, hb, hbb⟩ := ht.back j b' hb'
  exact h i a j b ha hb (hR haa hbb hs)

/-- A record whose key no other carries. -/
theorem Once.store_new {same : α → α → Prop} {t : Table α} {k : Nat} {x : α} (h : Once same t)
    (hx : ∀ j b, t.fetch j = some b → ¬ same x b ∧ ¬ same b x) : Once same (t.store k x) := by
  intro i a j b ha hb hs
  rcases Table.fetch_store_cases ha with ⟨ei, ea⟩ | ⟨-, ha⟩ <;>
    rcases Table.fetch_store_cases hb with ⟨ej, eb⟩ | ⟨-, hb⟩
  · exact ei.trans ej.symm
  · exact absurd (ea ▸ hs) (hx j b hb).1
  · exact absurd (eb ▸ hs) (hx i a ha).2
  · exact h i a j b ha hb hs

/-! ## Sums over a table -/

/-- The sum of a figure over the listed records. -/
def Table.total (t : Table α) (f : α → Nat) : Nat := (t.map (fun e => f e.2)).sum

theorem Table.total_store {t : Table α} {n k : Nat} (x : α) (f : α → Nat) (h : t.rising n = true) :
    (t.store k x).total f + ((t.fetch k).map f).getD 0 = t.total f + f x := by
  induction t generalizing n with
  | nil => simp [Table.store, Table.total, Table.fetch]
  | cons e rest ih =>
    obtain ⟨i, a⟩ := e
    simp only [Table.rising, Bool.and_eq_true, decide_eq_true_eq] at h
    have := ih h.2
    simp only [Table.total, List.map_cons, List.sum_cons] at this ⊢
    simp only [Table.store, Table.fetch]
    split
    · rw [if_neg (by omega), Table.fetch_below h.2 (by omega)]
      simp only [List.map_cons, List.sum_cons, Option.map_none, Option.getD_none]
      omega
    split
    · rw [if_pos (by omega)]
      simp only [List.map_cons, List.sum_cons, Option.map_some, Option.getD_some]
      omega
    · rw [if_neg (by omega)]
      simp only [List.map_cons, List.sum_cons]
      omega

theorem Table.total_remove (t : Table α) (k : Nat) (f : α → Nat) :
    (t.remove k).total f + ((t.fetch k).map f).getD 0 = t.total f := by
  induction t with
  | nil => rfl
  | cons e rest ih =>
    obtain ⟨i, a⟩ := e
    simp only [Table.total] at ih
    simp only [Table.total, Table.remove, Table.fetch]
    split
    · simp only [List.map_cons, List.sum_cons, Option.map_some, Option.getD_some]
      omega
    · simp only [List.map_cons, List.sum_cons]
      omega

end Tables

variable {s t : State}

/-! ## Cardholders closed (01 R25) -/

theorem State.closeHolder_roster (s : State) (holder i : Nat) : (s.closeHolder holder).roster.fetch i =
    if i = holder then (s.roster.fetch i).map (fun c => { c with state := .closed, cabins := [] })
    else s.roster.fetch i := by
  unfold State.closeHolder
  split
  · split
    · subst_vars; simp [*]
    · rfl
  · rename_i c hc
    simp only [Table.fetch_modify, unpairCabins_roster]
    split
    · subst_vars
      simp only [hc, Option.map_some, Option.some.injEq, Cardholder.mk.injEq, List.filter_eq_nil_iff, true_and,
        and_true]
      simp
    · rfl

/-- The cardholders of a list are CLOSED without cabins, the others as they were. -/
theorem State.closeHolders_roster (holders : List Nat) (s : State) (i : Nat) :
    (s.closeHolders holders).roster.fetch i =
      if i ∈ holders then (s.roster.fetch i).map (fun c => { c with state := .closed, cabins := [] })
      else s.roster.fetch i := by
  unfold State.closeHolders
  induction holders generalizing s with
  | nil => simp
  | cons h rest ih =>
    rw [List.foldl_cons, ih, State.closeHolder_roster]
    by_cases hr : i ∈ rest <;> by_cases hh : i = h <;> simp [hr, hh, Option.map_map, Function.comp_def]

/-! ## Keys and account lists (01 section 1.1, R6, R13, R14) -/

/-- What account lists read of a cardholder: its key, kind and account, and whether it is CLOSED. -/
def Cardholder.SameKeys (c d : Cardholder) : Prop :=
  d.card = c.card ∧ d.kind = c.kind ∧ d.account = c.account ∧ (d.state = .closed ↔ c.state = .closed)

/-- What they read of an account: its keys and list, and where its cursor may stand. -/
def Account.SameKeys (a b : Account) : Prop :=
  b.folio = a.folio ∧ b.serial = a.serial ∧ b.holders = a.holders ∧
    ((a.cursor ≠ none → a.state = .settling) → b.cursor ≠ none → b.state = .settling)

def Cabin.SameNumber (k r : Cabin) : Prop := r.number = k.number

theorem Cardholder.SameKeys.refl (c : Cardholder) : c.SameKeys c := ⟨rfl, rfl, rfl, Iff.rfl⟩

theorem Account.SameKeys.refl (a : Account) : a.SameKeys a := ⟨rfl, rfl, rfl, id⟩

theorem Cabin.SameNumber.refl (k : Cabin) : k.SameNumber k := rfl

theorem Cabin.SameNumber.trans {k l m : Cabin} (h : k.SameNumber l) (h' : l.SameNumber m) : k.SameNumber m :=
  Eq.trans h' h

/-- The keys of the accounts: one folio number and one serial each. -/
def Account.KeyAlike (a b : Account) : Prop := a.folio = b.folio ∨ a.serial = b.serial

/-- An account's serial has been given, its cursor and list are true (01 R6, R13, R25). -/
def State.listOk (s : State) (i : Nat) (a : Account) : Prop :=
  a.serial < s.nextSerial ∧ (a.cursor ≠ none → a.state = .settling) ∧ a.holders.Nodup ∧ a.holders.length ≤ 8 ∧
    ∀ h ∈ a.holders, ∃ c, s.roster.fetch h = some c ∧ c.account = some { serial := a.serial, slot := i } ∧
      c.kind ≠ .staff ∧ c.state ≠ .closed

theorem State.foliosOk_iff : s.foliosOk ↔
    Once (fun c d : Cardholder => c.card = d.card) s.roster ∧
      Once (fun k r : Cabin => k.number = r.number) s.cabins ∧ Once Account.KeyAlike s.accounts ∧
      ∀ i a, s.accounts.fetch i = some a → s.listOk i a := Iff.rfl

/-- Records followed in what keys and lists read keep their law. -/
theorem foliosOk_of_tracks (hr : Tracks Cardholder.SameKeys s.roster t.roster)
    (ha : Tracks Account.SameKeys s.accounts t.accounts) (hk : Tracks Cabin.SameNumber s.cabins t.cabins)
    (hn : t.nextSerial = s.nextSerial) (hf : s.foliosOk) : t.foliosOk := by
  obtain ⟨f1, f2, f3, f4⟩ := State.foliosOk_iff.mp hf
  refine State.foliosOk_iff.mpr ⟨f1.of_tracks (fun p q e => by rw [← p.1, ← q.1]; exact e) hr,
    f2.of_tracks (fun p q e => p.symm.trans (e.trans q)) hk,
    f3.of_tracks (fun p q e => by unfold Account.KeyAlike; rw [← p.1, ← p.2.1, ← q.1, ← q.2.1]; exact e) ha,
    fun i b hb => ?_⟩
  obtain ⟨a, hfa, -, e2, e3, e4⟩ := ha.back i b hb
  obtain ⟨g1, g2, g3, g4, g5⟩ := f4 i a hfa
  unfold State.listOk
  rw [hn, e2, e3]
  refine ⟨g1, e4 g2, g3, g4, fun h hh => ?_⟩
  obtain ⟨c, hc, h1, h2, h3⟩ := g5 h hh
  obtain ⟨d, hd, -, k2, k3, k4⟩ := hr.onto h c hc
  exact ⟨d, hd, k3.trans h1, k2 ▸ h2, fun hcl => h3 (k4.mp hcl)⟩

theorem Steady.foliosOk (h : Steady s t) (hf : s.foliosOk) : t.foliosOk :=
  foliosOk_of_tracks (h.roster.mono (fun _ _ e => ⟨e.card, e.kind, e.account, e.closed⟩))
    (h.accounts.mono (fun _ _ e => ⟨e.folio, e.serial, e.holders, e.cursor⟩)) (h.cabins.mono (fun _ _ e => e.number))
    h.nextSerial hf

theorem moveHeld_foliosOk (h : Hold) (f : Nat → Nat) (hf : s.foliosOk) : (s.moveHeld h f).foliosOk :=
  foliosOk_of_tracks (.modify .refl _ _ _ (fun _ _ => ⟨rfl, rfl, rfl, Iff.rfl⟩))
    (.modify .refl _ _ _ (fun _ _ => ⟨rfl, rfl, rfl, id⟩)) (.refl .refl _) rfl hf

theorem unpair_foliosOk (s : State) (holder kslot : Nat) (hf : s.foliosOk) : (s.unpair holder kslot).foliosOk :=
  foliosOk_of_tracks (.modify .refl _ _ _ (fun _ _ => ⟨rfl, rfl, rfl, Iff.rfl⟩)) (.refl .refl _)
    (.modify .refl _ _ _ (fun _ _ => rfl)) rfl hf

/-- A new cardholder's key is in no other record, and a FREE slot in no list. -/
theorem enrol_foliosOk {slot : Nat} {d : Cardholder} (hf : s.foliosOk) (hfree : s.roster.fetch slot = none)
    (hc : s.findCard d.card = none) (hr : t.roster = s.roster.store slot d) (hk : t.cabins = s.cabins)
    (ha : t.accounts = s.accounts ∨ ∃ k a, s.accounts.fetch k = some a ∧
      t.accounts = s.accounts.store k { a with holders := a.holders ++ [slot] } ∧ a.holders.length < 8 ∧
      d.account = some { serial := a.serial, slot := k } ∧ d.kind ≠ .staff ∧ d.state ≠ .closed)
    (hn : t.nextSerial = s.nextSerial) : t.foliosOk := by
  obtain ⟨f1, f2, f3, f4⟩ := State.foliosOk_iff.mp hf
  have listed : ∀ i a, s.accounts.fetch i = some a → t.listOk i a := by
    intro i a hfa
    obtain ⟨g1, g2, g3, g4, g5⟩ := f4 i a hfa
    refine ⟨hn ▸ g1, g2, g3, g4, fun h hh => ?_⟩
    obtain ⟨c, hc, g⟩ := g5 h hh
    exact ⟨c, by rw [hr, Table.fetch_store_ne _ _ (Table.ne_of_fetch hc hfree)]; exact hc, g⟩
  refine State.foliosOk_iff.mpr ⟨?_, hk ▸ f2, ?_, ?_⟩
  · rw [hr]
    refine f1.store_new (fun j b hb => ?_)
    have : ¬ b.card = d.card := by simpa using Table.fetch_of_search_none hc hb
    exact ⟨fun e => this e.symm, this⟩
  · rcases ha with e | ⟨k, a, hfa, e, -⟩ <;> rw [e]
    · exact f3
    · exact f3.of_tracks (R := fun a b => b.folio = a.folio ∧ b.serial = a.serial)
        (fun p q e => by unfold Account.KeyAlike; rw [← p.1, ← p.2, ← q.1, ← q.2]; exact e)
        (.store (fun _ => ⟨rfl, rfl⟩) hfa ⟨rfl, rfl⟩)
  · intro i b hb
    rcases ha with e | ⟨k, a, hfa, e, hlen, hacc, hst, hcl⟩ <;> rw [e] at hb
    · exact listed i b hb
    · rcases Table.fetch_store_cases hb with ⟨rfl, rfl⟩ | ⟨-, hb⟩
      · obtain ⟨g1, g2, g3, -, g5⟩ := listed i a hfa
        have hnot : slot ∉ a.holders := by
          intro hin
          obtain ⟨-, -, -, -, f5⟩ := f4 i a hfa
          obtain ⟨c, hc, -⟩ := f5 slot hin
          rw [hfree] at hc; cases hc
        refine ⟨g1, g2, ?_, by simp only [List.length_append, List.length_singleton]; omega, fun h hh => ?_⟩
        · exact List.nodup_append.mpr ⟨g3, List.nodup_singleton _, fun x hx y hy => by
            rw [List.mem_singleton.mp hy]; rintro rfl; exact hnot hx⟩
        · rcases List.mem_append.mp hh with hh | hh
          · exact g5 h hh
          · rw [List.mem_singleton.mp hh]
            exact ⟨d, by rw [hr, Table.fetch_store_same], hacc, hst, hcl⟩
      · exact listed i b hb

/-- A record that may be purged is in no account's list (01 R10, R25). -/
theorem purge_foliosOk {slot : Nat} {c : Cardholder} (hw : s.tablesWf = true) (hc : s.roster.fetch slot = some c)
    (hp : c.purgeable = true) (hf : s.foliosOk) : ({ s with roster := s.roster.remove slot } : State).foliosOk := by
  obtain ⟨f1, f2, f3, f4⟩ := State.foliosOk_iff.mp hf
  refine State.foliosOk_iff.mpr
    ⟨f1.of_subset (fun i d hd => (Table.fetch_remove_cases (State.roster_wf hw) hd).2), f2, f3, fun i a ha => ?_⟩
  obtain ⟨g1, g2, g3, g4, g5⟩ := f4 i a ha
  refine ⟨g1, g2, g3, g4, fun h hh => ?_⟩
  obtain ⟨d, hd, h1, h2, h3⟩ := g5 h hh
  have hne : h ≠ slot := by
    rintro rfl
    rw [hc] at hd; cases hd
    unfold Cardholder.purgeable at hp
    split at hp
    · exact h2 ‹_›
    · simp at hp; exact h3 hp.1
    · simp at hp; exact h3 hp.1
  exact ⟨d, by rw [Table.fetch_remove_ne _ hne]; exact hd, h1, h2, h3⟩

/-- An account opened has a folio number and a serial that no other carries, and an empty list (01 R14). -/
theorem openAccount_foliosOk {slot : Nat} {x : Account} (hf : s.foliosOk) (hfolio : s.findFolio x.folio = none)
    (hserial : x.serial = s.nextSerial) (hx : x.holders = []) (hcur : x.cursor = none) :
    ({ s with accounts := s.accounts.store slot x, nextSerial := s.nextSerial + 1 } : State).foliosOk := by
  obtain ⟨f1, f2, f3, f4⟩ := State.foliosOk_iff.mp hf
  have later : ∀ i a, s.accounts.fetch i = some a →
      ({ s with accounts := s.accounts.store slot x, nextSerial := s.nextSerial + 1 } : State).listOk i a := by
    intro i a ha
    obtain ⟨g1, g⟩ := f4 i a ha
    exact ⟨Nat.lt_succ_of_lt g1, g⟩
  refine State.foliosOk_iff.mpr ⟨f1, f2, f3.store_new (fun j b hb => ?_), fun i b hb => ?_⟩
  · have h1 : ¬ b.folio = x.folio := by simpa using Table.fetch_of_search_none hfolio hb
    have h2 := (f4 j b hb).1
    unfold Account.KeyAlike
    omega
  · rcases Table.fetch_store_cases hb with ⟨-, rfl⟩ | ⟨-, hb⟩
    · refine ⟨hserial ▸ Nat.lt_succ_self _, fun h => absurd hcur h, ?_, ?_, fun h hh => ?_⟩ <;> rw [hx] at *
      · exact List.nodup_nil
      · exact Nat.zero_le _
      · cases hh
    · exact later i b hb

/-- Two cardholders on an account's list are guests of that account, so no list shares one with another (01 R6). -/
theorem disjoint_holders {i j h : Nat} {a b : Account} (hf : s.foliosOk) (ha : s.accounts.fetch i = some a)
    (hb : s.accounts.fetch j = some b) (hne : j ≠ i) (hh : h ∈ b.holders) : h ∉ a.holders := by
  intro hin
  obtain ⟨-, -, -, f4⟩ := State.foliosOk_iff.mp hf
  obtain ⟨-, -, -, -, ga⟩ := f4 i a ha
  obtain ⟨-, -, -, -, gb⟩ := f4 j b hb
  obtain ⟨c, hc, h1, -⟩ := ga h hin
  obtain ⟨d, hd, h2, -⟩ := gb h hh
  rw [hc] at hd; cases hd
  rw [h1] at h2
  simp only [Option.some.injEq, AccountRef.mk.injEq] at h2
  exact hne h2.2.symm

theorem closeHolder_sameNumber (s : State) (holder : Nat) :
    Tracks Cabin.SameNumber s.cabins (s.closeHolder holder).cabins := by
  unfold State.closeHolder
  split
  · exact .refl .refl _
  · exact foldl_keeps (I := fun t : State => Tracks Cabin.SameNumber s.cabins t.cabins)
      (f := fun t k => t.unpair holder k)
      (fun t k h => h.trans .trans (.modify .refl _ _ _ (fun _ _ => rfl))) _ (.refl .refl _)

theorem closeHolders_sameNumber (s : State) (holders : List Nat) :
    Tracks Cabin.SameNumber s.cabins (s.closeHolders holders).cabins :=
  foldl_keeps (I := fun t : State => Tracks Cabin.SameNumber s.cabins t.cabins)
    (fun t h ht => ht.trans .trans (closeHolder_sameNumber t h)) holders (.refl .refl _)

/-- A CLOSE drops one account and closes its cardholders, which no other account lists (01 R25, 05 R106). -/
theorem closeAccount_foliosOk {slot : Nat} {a : Account} (hw : s.tablesWf = true)
    (ha : s.accounts.fetch slot = some a) (hf : s.foliosOk) : (s.closeAccount slot a).foliosOk := by
  have hcards := State.closeHolders_roster a.holders s
  have hnum := closeHolders_sameNumber s a.holders
  obtain ⟨r, k, e⟩ := State.closeHolders_frame s a.holders
  rw [e] at hcards hnum
  simp only [State.closeAccount, e]
  obtain ⟨f1, f2, f3, f4⟩ := State.foliosOk_iff.mp hf
  refine State.foliosOk_iff.mpr ⟨?_, f2.of_tracks (fun p q e => p.symm.trans (e.trans q)) hnum,
    f3.of_subset (fun i b hb => (Table.fetch_remove_cases (State.accounts_wf hw) hb).2), fun i b hb => ?_⟩
  · have back : ∀ i c, r.fetch i = some c → ∃ d, s.roster.fetch i = some d ∧ d.card = c.card := by
      intro i c hc
      rw [hcards i] at hc
      split at hc
      · obtain ⟨d, hd, rfl⟩ := Option.map_eq_some_iff.mp hc
        exact ⟨d, hd, rfl⟩
      · exact ⟨c, hc, rfl⟩
    intro i c j d hc hd hs
    obtain ⟨c', hc', ec⟩ := back i c hc
    obtain ⟨d', hd', ed⟩ := back j d hd
    exact f1 i c' j d' hc' hd' (ec.trans (hs.trans ed.symm))
  · obtain ⟨hne, hb⟩ := Table.fetch_remove_cases (State.accounts_wf hw) hb
    obtain ⟨g1, g2, g3, g4, g5⟩ := f4 i b hb
    refine ⟨g1, g2, g3, g4, fun h hh => ?_⟩
    obtain ⟨c, hc, g⟩ := g5 h hh
    have := hcards h
    rw [if_neg (disjoint_holders hf ha hb hne hh)] at this
    exact ⟨c, this.trans hc, g⟩

theorem foliosOk_empty (hr : s.roster = []) (hk : s.cabins = []) (ha : s.accounts = []) : s.foliosOk := by
  refine State.foliosOk_iff.mpr ⟨fun i c j d h => ?_, fun i c j d h => ?_, fun i c j d h => ?_, fun i c h => ?_⟩
  · rw [hr] at h; cases h
  · rw [hk] at h; cases h
  · rw [ha] at h; cases h
  · rw [ha] at h; cases h

theorem Moves.foliosOk (h : Moves s t) (hw : s.tablesWf = true) (hf : s.foliosOk) : t.foliosOk := by
  obtain ⟨hrw, haw, hkw, -⟩ := State.tablesWf_iff.mp hw
  obtain ⟨f1, f2, f3, f4⟩ := State.foliosOk_iff.mp hf
  induction h with
  | calm h => exact h.steady.foliosOk hf
  | apart e _ ih => exact of_records_eq (fun _ => Iff.rfl) e ih
  | cleared e => exact of_records_eq (s := .reset) (fun _ => Iff.rfl) e (foliosOk_empty rfl rfl rfl)
  | bill ha hb => exact (Steady.billed ha hb.toSteady).foliosOk hf
  | settleBegin ha =>
    exact foliosOk_of_tracks (s := s) (.refl .refl _) (.store .refl ha ⟨rfl, rfl, rfl, fun _ _ => rfl⟩)
      (.refl .refl _) rfl hf
  | settleStep ha hs hb => exact (Steady.walked ha hs hb).foliosOk hf
  | adjust folio kind amount => exact (Steady.adjust folio kind amount s).foliosOk hf
  | charge p outlet cls unit qty cards => exact (Steady.charge p outlet cls unit qty cards s).foliosOk hf
  | void => exact (Steady.voidAll s _).foliosOk hf
  | enrolStaff mask hslot hc => exact enrol_foliosOk hf (Table.freeSlot_spec hrw hslot).2 hc rfl rfl (.inl rfl) rfl
  | enrolGuest mask hk hslot hc ha hl =>
    exact enrol_foliosOk hf (Table.freeSlot_spec hrw hslot).2 hc rfl rfl
      (.inr ⟨_, _, ha, rfl, hl, rfl, hk, by simp [newGuest]⟩) rfl
  | purge hc hp => exact purge_foliosOk hw hc hp hf
  | openAccount _ hfolio => exact openAccount_foliosOk hf hfolio rfl rfl rfl
  | close ha => exact closeAccount_foliosOk hw ha hf
  | define _ hn =>
    refine State.foliosOk_iff.mpr ⟨f1, f2.store_new (fun j b hb => ?_), f3, f4⟩
    have := Table.fetch_of_search_none hn hb
    simp only [beq_eq_false_iff_ne] at this
    exact ⟨fun e => this e.symm, this⟩
  | undefine =>
    exact State.foliosOk_iff.mpr ⟨f1, f2.of_subset (fun i k hk => (Table.fetch_remove_cases hkw hk).2), f3, f4⟩
  | grant hc hk =>
    exact foliosOk_of_tracks (.store .refl hc ⟨rfl, rfl, rfl, Iff.rfl⟩) (.refl .refl _) (.store .refl hk rfl) rfl hf
  | unpair holders kslot =>
    exact foldl_keeps (I := State.foliosOk) (fun t h => unpair_foliosOk t h kslot) holders hf
  | holdOpen p card gen outlet cls gross lifetime =>
    rcases serveHoldOpen_steady_or p card gen outlet cls gross lifetime s with h | ⟨x, h, slot, reuse, -, -, -, -, -, e⟩
    · exact h.steady.foliosOk hf
    · rw [e]; exact moveHeld_foliosOk (s := { s with holds := _ }) h _ hf
  | holdComplete p slot reuse gross =>
    rcases serveHoldComplete_steady_or p slot reuse gross s with h | ⟨x, -, h⟩
    · exact h.steady.foliosOk hf
    · exact h.foliosOk (moveHeld_foliosOk (s := { s with holds := _ }) x _ hf)
  | endHold => exact moveHeld_foliosOk (s := { s with holds := _ }) _ _ hf

end Sys2Proof.Machine
end

section
/-! PROOFS. HeldFiguresStayExact, second part: held figures and the LIVE holds (04 R81, R86; 05 R98). -/

namespace Sys2Proof.Machine

variable {s t : State}

/-! ## Sums over the LIVE holds -/

/-- What a hold slot adds to the sum of the holds that a check picks. -/
def HoldSlot.weight (picks : Hold → Bool) (x : HoldSlot) : Nat :=
  match x.live with
  | none => 0
  | some h => if picks h then h.amount else 0

theorem State.heldSum_eq (s : State) (picks : Hold → Bool) :
    s.heldSum picks = s.holds.total (HoldSlot.weight picks) := by
  unfold State.heldSum Table.total
  induction s.holds with
  | nil => rfl
  | cons e rest ih =>
    rw [List.map_cons, List.sum_cons, ← ih]
    cases hl : e.2.live with
    | none => simp [hl, HoldSlot.weight]
    | some h => by_cases hp : picks h = true <;> simp [hl, HoldSlot.weight, hp]

/-- A hold slot written: its former weight goes out of the sum, its new one comes in. -/
theorem heldSum_putHold (hw : s.tablesWf = true) (slot : Nat) (x : HoldSlot) (picks : Hold → Bool) :
    ({ s with holds := putHold s.holds slot x } : State).heldSum picks + (s.holdSlot slot).weight picks =
      s.heldSum picks + x.weight picks := by
  have hold : (s.holdSlot slot).weight picks = ((s.holds.fetch slot).map (HoldSlot.weight picks)).getD 0 := by
    unfold State.holdSlot
    cases s.holds.fetch slot <;> rfl
  rw [State.heldSum_eq, State.heldSum_eq, hold]
  dsimp only
  unfold putHold
  split
  · have hblank : x.weight picks = 0 := by subst_vars; rfl
    rw [hblank]
    exact Table.total_remove _ _ _
  · exact Table.total_store x _ (Table.rising_of_wf (State.holds_wf hw))

/-- A LIVE hold listed after a slot was written is the one written, or stood in another slot. -/
theorem live_of_putHold {r : Table HoldSlot} {slots k i : Nat} {x y : HoldSlot} {h : Hold} (hw : r.wf slots = true)
    (hy : Table.fetch (putHold r k x) i = some y) (hl : y.live = some h) :
    (i = k ∧ x.live = some h) ∨ (i ≠ k ∧ r.fetch i = some y) := by
  unfold putHold at hy
  split at hy
  · exact .inr (Table.fetch_remove_cases hw hy)
  · rcases Table.fetch_store_cases hy with ⟨hi, rfl⟩ | hy
    · exact .inl ⟨hi, hl⟩
    · exact .inr hy

theorem heldSum_eq_zero {picks : Hold → Bool} (hw : s.tablesWf = true)
    (h : ∀ i x h, s.holds.fetch i = some x → x.live = some h → picks h = false) : s.heldSum picks = 0 := by
  rw [State.heldSum, List.filter_eq_nil_iff.mpr, List.map_nil, List.sum_nil]
  intro y hy hp
  obtain ⟨⟨i, x⟩, hx, hl⟩ := List.mem_filterMap.mp hy
  have := h i x y (Table.fetch_of_mem (Table.rising_of_wf (State.holds_wf hw)) hx) hl
  rw [this] at hp; cases hp

/-! ## Steps that leave the holds -/

/-- A LIVE hold's account is OPEN, and its cardholder a guest of that account (04 R81, 05 R98). -/
def State.holdOk (s : State) (h : Hold) : Prop :=
  (∃ a, s.accounts.fetch h.account = some a ∧ a.serial = h.serial ∧ a.state = .opened) ∧
    ∃ c, s.roster.fetch h.holder = some c ∧ c.account = some { serial := h.serial, slot := h.account } ∧
      c.kind ≠ .staff ∧ c.state ≠ .closed

theorem State.holdsOk_iff : s.holdsOk ↔
    (∀ i x h, s.holds.fetch i = some x → x.live = some h → s.holdOk h) ∧
      (∀ i a, s.accounts.fetch i = some a → a.held = s.heldSum (fun h => h.account == i)) ∧
      ∀ i c, s.roster.fetch i = some c → c.held = s.heldSum (fun h => h.holder == i) := Iff.rfl

/-- A step that leaves the hold table, ends no account or guest of a LIVE hold, and holds nothing in a record it
makes. -/
theorem holdsOk_of (hw : s.tablesWf = true) (hh : s.holdsOk) (e : t.holds = s.holds)
    (hlive : ∀ i x h, s.holds.fetch i = some x → x.live = some h → s.holdOk h → t.holdOk h)
    (ha : ∀ i b, t.accounts.fetch i = some b →
      (∃ a, s.accounts.fetch i = some a ∧ b.held = a.held) ∨ (b.held = 0 ∧ s.accounts.fetch i = none))
    (hc : ∀ i d, t.roster.fetch i = some d →
      (∃ c, s.roster.fetch i = some c ∧ d.held = c.held) ∨ (d.held = 0 ∧ s.roster.fetch i = none)) : t.holdsOk := by
  obtain ⟨h1, h2, h3⟩ := State.holdsOk_iff.mp hh
  have sums : ∀ picks, t.heldSum picks = s.heldSum picks := fun picks => by unfold State.heldSum; rw [e]
  refine State.holdsOk_iff.mpr ⟨fun i x h hx hl => ?_, fun i b hb => ?_, fun i d hd => ?_⟩
  · rw [e] at hx
    exact hlive i x h hx hl (h1 i x h hx hl)
  · rw [sums]
    rcases ha i b hb with ⟨a, hfa, eh⟩ | ⟨h0, hn⟩
    · rw [eh]; exact h2 i a hfa
    · refine h0.trans (heldSum_eq_zero hw (fun j x h hx hl => ?_)).symm
      obtain ⟨⟨a, hfa, -⟩, -⟩ := h1 j x h hx hl
      exact beq_eq_false_iff_ne.mpr (Table.ne_of_fetch hfa hn)
  · rw [sums]
    rcases hc i d hd with ⟨c, hfc, eh⟩ | ⟨h0, hn⟩
    · rw [eh]; exact h3 i c hfc
    · refine h0.trans (heldSum_eq_zero hw (fun j x h hx hl => ?_)).symm
      obtain ⟨-, c, hfc, -⟩ := h1 j x h hx hl
      exact beq_eq_false_iff_ne.mpr (Table.ne_of_fetch hfc hn)

/-- What holds read of a cardholder and of an account. -/
def Cardholder.SameHolds (c d : Cardholder) : Prop :=
  d.account = c.account ∧ d.kind = c.kind ∧ d.held = c.held ∧ (d.state = .closed ↔ c.state = .closed)

def Account.SameHolds (a b : Account) : Prop :=
  b.serial = a.serial ∧ b.held = a.held ∧ (a.state = .opened → b.state = .opened)

theorem Cardholder.SameHolds.refl (c : Cardholder) : c.SameHolds c := ⟨rfl, rfl, rfl, Iff.rfl⟩

theorem Account.SameHolds.refl (a : Account) : a.SameHolds a := ⟨rfl, rfl, id⟩

theorem holdsOk_of_tracks (hw : s.tablesWf = true) (hr : Tracks Cardholder.SameHolds s.roster t.roster)
    (ha : Tracks Account.SameHolds s.accounts t.accounts) (e : t.holds = s.holds) (hh : s.holdsOk) : t.holdsOk := by
  refine holdsOk_of hw hh e (fun i x h _ _ => ?_) (fun i b hb => ?_) (fun i d hd => ?_)
  · rintro ⟨⟨a, hfa, h1, h2⟩, c, hfc, h3, h4, h5⟩
    obtain ⟨b, hfb, k1, -, k2⟩ := ha.onto _ a hfa
    obtain ⟨d, hfd, k3, k4, -, k5⟩ := hr.onto _ c hfc
    exact ⟨⟨b, hfb, k1.trans h1, k2 h2⟩, d, hfd, k3.trans h3, k4 ▸ h4, fun hcl => h5 (k5.mp hcl)⟩
  · obtain ⟨a, hfa, -, eh, -⟩ := ha.back i b hb
    exact .inl ⟨a, hfa, eh⟩
  · obtain ⟨c, hfc, -, -, eh, -⟩ := hr.back i d hd
    exact .inl ⟨c, hfc, eh⟩

theorem Steady.holdsOk (h : Steady s t) (hw : s.tablesWf = true) (hh : s.holdsOk) : t.holdsOk :=
  holdsOk_of_tracks hw (h.roster.mono (fun _ _ e => ⟨e.account, e.kind, e.held, e.closed⟩))
    (h.accounts.mono (fun _ _ e => ⟨e.serial, e.held, e.opened⟩)) h.holds hh

theorem unpair_holdsOk (s : State) (holder kslot : Nat) (hw : s.tablesWf = true) (hh : s.holdsOk) :
    (s.unpair holder kslot).holdsOk :=
  holdsOk_of_tracks hw (.modify .refl _ _ _ (fun _ _ => ⟨rfl, rfl, rfl, Iff.rfl⟩)) (.refl .refl _) rfl hh

/-- Accounts and cardholders that stay where they stood, new ones apart, keep a LIVE hold's own. -/
theorem holdOk_of_onto {h : Hold} (ha : ∀ i a, s.accounts.fetch i = some a → a.state = .opened →
      ∃ b, t.accounts.fetch i = some b ∧ b.serial = a.serial ∧ b.state = .opened)
    (hc : ∀ i c, s.roster.fetch i = some c → c.kind ≠ .staff → c.state ≠ .closed → t.roster.fetch i = some c) :
    s.holdOk h → t.holdOk h := by
  rintro ⟨⟨a, hfa, h1, h2⟩, c, hfc, h3, h4, h5⟩
  obtain ⟨b, hfb, k1, k2⟩ := ha _ a hfa h2
  exact ⟨⟨b, hfb, k1.trans h1, k2⟩, c, hc _ c hfc h4 h5, h3, h4, h5⟩

theorem enrol_holdsOk {slot : Nat} {d : Cardholder} (hw : s.tablesWf = true) (hh : s.holdsOk)
    (hfree : s.roster.fetch slot = none) (h0 : d.held = 0) (hr : t.roster = s.roster.store slot d)
    (ha : Tracks Account.SameHolds s.accounts t.accounts) (e : t.holds = s.holds) : t.holdsOk := by
  refine holdsOk_of hw hh e (fun _ _ h _ _ => holdOk_of_onto (fun i a hfa ho => ?_) (fun i c hfc _ _ => ?_))
    (fun i b hb => ?_) (fun i c hc => ?_)
  · obtain ⟨b, hfb, k1, -, k2⟩ := ha.onto i a hfa
    exact ⟨b, hfb, k1, k2 ho⟩
  · rw [hr, Table.fetch_store_ne _ _ (Table.ne_of_fetch hfc hfree)]; exact hfc
  · obtain ⟨a, hfa, -, eh, -⟩ := ha.back i b hb
    exact .inl ⟨a, hfa, eh⟩
  · rw [hr] at hc
    rcases Table.fetch_store_cases hc with ⟨rfl, rfl⟩ | ⟨-, hc⟩
    · exact .inr ⟨h0, hfree⟩
    · exact .inl ⟨c, hc, rfl⟩

/-- A record that may be purged is no guest of a LIVE hold (01 R10, 04 R81). -/
theorem purge_holdsOk {slot : Nat} {c : Cardholder} (hw : s.tablesWf = true) (hc : s.roster.fetch slot = some c)
    (hp : c.purgeable = true) (hh : s.holdsOk) : ({ s with roster := s.roster.remove slot } : State).holdsOk := by
  refine holdsOk_of hw hh rfl
    (fun _ _ h _ _ => holdOk_of_onto (fun i a hfa ho => ⟨a, hfa, rfl, ho⟩) (fun i d hfd hk hs => ?_))
    (fun i b hb => .inl ⟨b, hb, rfl⟩)
    (fun i d hd => .inl ⟨d, (Table.fetch_remove_cases (State.roster_wf hw) hd).2, rfl⟩)
  have hne : i ≠ slot := by
    rintro rfl
    rw [hc] at hfd; cases hfd
    rcases c.purgeable_iff.mp hp with ⟨h, -⟩ | ⟨-, h, -⟩
    · exact hk h
    · exact hs h
  exact (Table.fetch_remove_ne _ hne).trans hfd

theorem openAccount_holdsOk {slot n : Nat} {x : Account} (hw : s.tablesWf = true)
    (hfree : s.accounts.fetch slot = none) (h0 : x.held = 0) (hh : s.holdsOk) :
    ({ s with accounts := s.accounts.store slot x, nextSerial := n } : State).holdsOk := by
  refine holdsOk_of hw hh rfl (fun _ _ h _ _ => holdOk_of_onto (fun i a hfa ho => ⟨a, ?_, rfl, ho⟩)
    (fun i c hfc _ _ => hfc)) (fun i b hb => ?_) (fun i d hd => .inl ⟨d, hd, rfl⟩)
  · exact (Table.fetch_store_ne _ _ (Table.ne_of_fetch hfa hfree)).trans hfa
  · rcases Table.fetch_store_cases hb with ⟨rfl, rfl⟩ | ⟨-, hb⟩
    · exact .inr ⟨h0, hfree⟩
    · exact .inl ⟨b, hb, rfl⟩

/-- No LIVE hold carries a serial that none is counted for (05 R97). -/
theorem serial_ne_of_liveHolds {serial i : Nat} {x : HoldSlot} {h : Hold} (h0 : s.liveHolds serial = 0)
    (hx : s.holds.fetch i = some x) (hl : x.live = some h) : h.serial ≠ serial := by
  have := List.countP_eq_zero.mp h0 (i, x) (Table.mem_of_fetch hx)
  simpa [hl] using this

/-- An account without LIVE holds may leave OPEN (05 R97). -/
theorem settleBegin_holdsOk {slot : Nat} {a : Account} (hw : s.tablesWf = true) (ha : s.accounts.fetch slot = some a)
    (hl : s.liveHolds a.serial = 0) (hh : s.holdsOk) :
    (s.withAccount slot { a with state := .settling, cursor := a.first }).holdsOk := by
  refine holdsOk_of hw hh rfl (fun i x h hx hlive => ?_) (fun i b hb => ?_) (fun i d hd => .inl ⟨d, hd, rfl⟩)
  · rintro ⟨⟨b, hfb, h1, h2⟩, hc⟩
    have hne : h.account ≠ slot := by
      intro hs
      rw [hs, ha] at hfb; cases hfb
      exact serial_ne_of_liveHolds hl hx hlive h1.symm
    exact ⟨⟨b, (Table.fetch_store_ne _ _ hne).trans hfb, h1, h2⟩, hc⟩
  · rcases Table.fetch_store_cases hb with ⟨rfl, rfl⟩ | ⟨-, hb⟩
    · exact .inl ⟨a, ha, rfl⟩
    · exact .inl ⟨b, hb, rfl⟩

/-- A SETTLED account holds nothing, and its list's guests have no LIVE hold elsewhere (05 R105, R106). -/
theorem closeAccount_holdsOk {slot : Nat} {a : Account} (hw : s.tablesWf = true) (ha : s.accounts.fetch slot = some a)
    (hs : a.state = .settled) (hf : s.foliosOk) (hh : s.holdsOk) : (s.closeAccount slot a).holdsOk := by
  have hcards := State.closeHolders_roster a.holders s
  obtain ⟨r, k, e⟩ := State.closeHolders_frame s a.holders
  rw [e] at hcards
  simp only [State.closeAccount, e]
  refine holdsOk_of hw hh rfl (fun i x h _ _ => ?_)
    (fun i b hb => .inl ⟨b, (Table.fetch_remove_cases (State.accounts_wf hw) hb).2, rfl⟩) (fun i d hd => ?_)
  · rintro ⟨⟨b, hfb, h1, h2⟩, c, hfc, h3, h4, h5⟩
    have hne : h.account ≠ slot := by
      intro hslot
      rw [hslot, ha] at hfb; cases hfb
      rw [hs] at h2; cases h2
    have hnot : h.holder ∉ a.holders := by
      intro hin
      obtain ⟨-, -, -, f4⟩ := State.foliosOk_iff.mp hf
      obtain ⟨-, -, -, -, g5⟩ := f4 slot a ha
      obtain ⟨d, hfd, h6, -⟩ := g5 _ hin
      rw [hfc] at hfd; cases hfd
      rw [h3] at h6
      simp only [Option.some.injEq, AccountRef.mk.injEq] at h6
      exact hne h6.2
    have hrost := hcards h.holder
    rw [if_neg hnot] at hrost
    exact ⟨⟨b, (Table.fetch_remove_ne _ hne).trans hfb, h1, h2⟩, c, hrost.trans hfc, h3, h4, h5⟩
  · have hd' : r.fetch i = some d := hd
    rw [hcards i] at hd'
    split at hd'
    · obtain ⟨c, hfc, rfl⟩ := Option.map_eq_some_iff.mp hd'
      exact .inl ⟨c, hfc, rfl⟩
    · exact .inl ⟨d, hd', rfl⟩

/-! ## Holds opened and ended -/

/-- Both held figures move with the sum they stand for. -/
theorem moveHeld_holdsOk {f : Nat → Nat} {h : Hold} {l : Table HoldSlot} (hh : s.holdsOk)
    (hlive : ∀ i x y, l.fetch i = some x → x.live = some y → s.holdOk y)
    (hin : ∀ picks, picks h = true → ({ s with holds := l } : State).heldSum picks = f (s.heldSum picks))
    (hout : ∀ picks, picks h = false → ({ s with holds := l } : State).heldSum picks = s.heldSum picks) :
    (({ s with holds := l } : State).moveHeld h f).holdsOk := by
  obtain ⟨-, h2, h3⟩ := State.holdsOk_iff.mp hh
  have sums : ∀ picks, (({ s with holds := l } : State).moveHeld h f).heldSum picks =
      ({ s with holds := l } : State).heldSum picks := fun _ => rfl
  refine State.holdsOk_iff.mpr ⟨fun i x y hx hl => ?_, fun i b hb => ?_, fun i d hd => ?_⟩
  · obtain ⟨⟨a, hfa, k1, k2⟩, c, hfc, k3⟩ := hlive i x y hx hl
    refine ⟨?_, ?_⟩
    · simp only [State.moveHeld, Table.fetch_modify, hfa]
      split
      · exact ⟨_, rfl, k1, k2⟩
      · exact ⟨_, rfl, k1, k2⟩
    · simp only [State.moveHeld, Table.fetch_modify, hfc]
      split
      · exact ⟨_, rfl, k3⟩
      · exact ⟨_, rfl, k3⟩
  · simp only [State.moveHeld, Table.fetch_modify] at hb
    rw [sums]
    split at hb
    · obtain ⟨a, hfa, rfl⟩ := Option.map_eq_some_iff.mp hb
      rw [hin (fun y => y.account == i) (beq_iff_eq.mpr (Eq.symm ‹_›)), ← h2 i a hfa]
    · rw [hout (fun y => y.account == i) (beq_eq_false_iff_ne.mpr (Ne.symm ‹_›))]
      exact h2 i b hb
  · simp only [State.moveHeld, Table.fetch_modify] at hd
    rw [sums]
    split at hd
    · obtain ⟨c, hfc, rfl⟩ := Option.map_eq_some_iff.mp hd
      rw [hin (fun y => y.holder == i) (beq_iff_eq.mpr (Eq.symm ‹_›)), ← h3 i c hfc]
    · rw [hout (fun y => y.holder == i) (beq_eq_false_iff_ne.mpr (Ne.symm ‹_›))]
      exact h3 i d hd

/-- A hold that ends goes out of both figures (04 R86). -/
theorem endHold_holdsOk {slot : Nat} {h : Hold} (hw : s.tablesWf = true) (hl : (s.holdSlot slot).live = some h)
    (hh : s.holdsOk) : (s.endHold slot h).holdsOk := by
  have weight : ∀ picks, (s.holdSlot slot).weight picks = if picks h then h.amount else 0 := by
    intro picks; simp only [HoldSlot.weight, hl]
  have sum := fun picks => heldSum_putHold hw slot { s.holdSlot slot with live := none } picks
  have blank : ∀ picks, ({ s.holdSlot slot with live := none } : HoldSlot).weight picks = 0 := fun _ => rfl
  refine moveHeld_holdsOk hh (fun i x y hx hy => ?_) (fun picks hp => ?_) (fun picks hp => ?_)
  · rcases live_of_putHold (State.holds_wf hw) hx hy with ⟨-, hn⟩ | ⟨-, hx⟩
    · cases hn
    · exact (State.holdsOk_iff.mp hh).1 i x y hx hy
  · have := sum picks
    rw [weight, blank, if_pos hp] at this
    omega
  · have := sum picks
    rw [weight, blank, hp] at this
    simpa using this

/-- A slot found for a hold is FREE (04 R83). -/
theorem State.freeHold_free {slot : Nat} (h : s.freeHold = some slot) : (s.holdSlot slot).live = none := by
  simpa using List.find?_some h

/-- The account a cardholder's reference finds (01 R2). -/
theorem State.accountOf_some {c : Cardholder} {i : Nat} {a : Account} (h : s.accountOf c = some (i, a)) :
    c.account = some { serial := a.serial, slot := i } ∧ s.accounts.fetch i = some a := by
  unfold State.accountOf at h
  split at h
  · cases h
  · rename_i ref hr
    split at h
    · cases h
    · rename_i hf
      split at h
      · rename_i hs
        simp only [Option.some.injEq, Prod.mk.injEq] at h
        obtain ⟨rfl, rfl⟩ := h
        exact ⟨by rw [hr, hs], hf⟩
      · cases h

/-- A hold placed for a payer that passed its checks joins both figures (04 R82, R83). -/
theorem placeHold_holdsOk {slot reuse card gen : Nat} {h : Hold} {x : Payer} (hw : s.tablesWf = true)
    (hx : s.checkCard card gen = .ok x) (hfree : s.freeHold = some slot) (h1 : h.serial = x.folio.serial)
    (h2 : h.account = x.account) (h3 : h.holder = x.holder) (hh : s.holdsOk) :
    (({ s with holds := putHold s.holds slot { reuse := reuse, live := some h } } : State).moveHeld h
      (fun v => v + h.amount)).holdsOk := by
  have ok : s.holdOk h := by
    obtain ⟨q1, -, q3, q4, q5, q6, q7⟩ := checkCard_ok hx
    rw [State.holdOk, h1, h2, h3]
    refine ⟨⟨_, q6, rfl, q7⟩, x.card, (State.fetch_of_findCard hw q1).1, ?_, q4, by rw [q3]; decide⟩
    exact (State.accountOf_some q5).1
  have weight : ∀ picks, (s.holdSlot slot).weight picks = 0 := by
    intro picks; simp only [HoldSlot.weight, State.freeHold_free hfree]
  have placed : ∀ picks, ({ reuse := reuse, live := some h } : HoldSlot).weight picks =
      if picks h then h.amount else 0 := fun _ => rfl
  have sum := fun picks => heldSum_putHold hw slot { reuse := reuse, live := some h } picks
  refine moveHeld_holdsOk hh (fun i y z hy hz => ?_) (fun picks hp => ?_) (fun picks hp => ?_)
  · rcases live_of_putHold (State.holds_wf hw) hy hz with ⟨-, he⟩ | ⟨-, hy⟩
    · cases he; exact ok
    · exact (State.holdsOk_iff.mp hh).1 i y z hy hz
  · have := sum picks
    rw [weight, placed, if_pos hp] at this
    omega
  · have := sum picks
    rw [weight, placed, hp] at this
    simpa using this

theorem holdsOk_empty (hr : s.roster = []) (ha : s.accounts = []) (hh : s.holds = []) : s.holdsOk := by
  refine ⟨fun i x h hx => ?_, fun i a hfa => ?_, fun i c hfc => ?_⟩
  · rw [hh] at hx; cases hx
  · rw [ha] at hfa; cases hfa
  · rw [hr] at hfc; cases hfc

theorem Moves.holdsOk (h : Moves s t) (hw : s.tablesWf = true) (hf : s.foliosOk) (hh : s.holdsOk) : t.holdsOk := by
  obtain ⟨hrw, haw, hkw, -⟩ := State.tablesWf_iff.mp hw
  induction h with
  | calm h => exact h.steady.holdsOk hw hh
  | apart e _ ih => exact of_records_eq (fun _ => Iff.rfl) e ih
  | cleared e => exact of_records_eq (s := .reset) (fun _ => Iff.rfl) e (holdsOk_empty rfl rfl rfl)
  | bill ha hb => exact (Steady.billed ha hb.toSteady).holdsOk hw hh
  | settleBegin ha hl => exact settleBegin_holdsOk hw ha hl hh
  | settleStep ha hs hb => exact (Steady.walked ha hs hb).holdsOk hw hh
  | adjust folio kind amount => exact (Steady.adjust folio kind amount s).holdsOk hw hh
  | charge p outlet cls unit qty cards => exact (Steady.charge p outlet cls unit qty cards s).holdsOk hw hh
  | void => exact (Steady.voidAll s _).holdsOk hw hh
  | enrolStaff mask hslot =>
    exact enrol_holdsOk hw hh (Table.freeSlot_spec hrw hslot).2 rfl rfl (.refl .refl _) rfl
  | enrolGuest mask _ hslot _ ha =>
    exact enrol_holdsOk hw hh (Table.freeSlot_spec hrw hslot).2 rfl rfl (.store .refl ha ⟨rfl, rfl, id⟩) rfl
  | purge hc hp => exact purge_holdsOk hw hc hp hh
  | openAccount hslot => exact openAccount_holdsOk hw (Table.freeSlot_spec haw hslot).2 rfl hh
  | close ha hs => exact closeAccount_holdsOk hw ha hs hf hh
  | define => exact hh
  | undefine => exact hh
  | grant hc =>
    exact holdsOk_of_tracks (s := s) hw (.store .refl hc ⟨rfl, rfl, rfl, Iff.rfl⟩) (.refl .refl _) rfl hh
  | unpair holders kslot =>
    exact (foldl_keeps (I := fun t : State => t.tablesWf = true ∧ t.holdsOk)
      (fun t h ht => ⟨t.unpair_tablesWf h kslot ht.1, unpair_holdsOk t h kslot ht.1 ht.2⟩) holders ⟨hw, hh⟩).2
  | holdOpen p card gen outlet cls gross lifetime =>
    rcases serveHoldOpen_steady_or p card gen outlet cls gross lifetime s with
      h | ⟨x, h, slot, reuse, hx, hslot, h1, h2, h3, e⟩
    · exact h.steady.holdsOk hw hh
    · rw [e]; exact placeHold_holdsOk hw hx hslot h1 h2 h3 hh
  | holdComplete p slot reuse gross =>
    rcases serveHoldComplete_steady_or p slot reuse gross s with h | ⟨x, hl, h⟩
    · exact h.steady.holdsOk hw hh
    · exact h.holdsOk (State.endHold_tablesWf hl hw) (endHold_holdsOk hw hl hh)
  | endHold hl => exact endHold_holdsOk hw hl hh

/-- Settles O57: each move of the records keeps keys and lists, and the held figures with the LIVE holds. -/
theorem heldFiguresStayExact : Obligations.HeldFiguresStayExact := by
  intro s t hs hw hf
  obtain ⟨x, ⟨ports, pending, rfl⟩, hm⟩ := step_moves hw hs
  exact ⟨hm.foliosOk hw hf, hm.holdsOk hw hf⟩

end Sys2Proof.Machine
end

section
/-! PROOFS. What a request of a ready port answers: its rule's outcome, with the window closed (09 R167, R177). -/

namespace Sys2Proof.Machine

variable {s : State} {p : Port} {tag : Byte}

/-! ## From a command to its rule -/

/-- The step that answers a request on port `p` with its rule's outcome. -/
def Served.answers (x : Served) (p : Port) (code tag : Byte) : Host.Outcome State Fault Refusal :=
  .next (x.1.answered p code tag x.2)

@[simp] theorem Served.answers_mk (t : State) (r : Reply) (p : Port) (code tag : Byte) :
    Served.answers (t, r) p code tag = .next (t.answered p code tag r) := rfl

/-- A request that every profile may issue meets its rule. -/
theorem submit_shared {req : Request} (h : s.ready p) (ho : ownerOf req.code.toNat = none)
    (hk : keepsWindow req = false) (hu : ∀ c, req ≠ .unknown c) :
    Host.Outcome.next (s.submit p tag req) = (serve p req s).answers p req.code tag := by
  rw [Served.answers, State.submit_answered s p tag req h (by rw [mayIssue, ho]) hk hu]

/-- A request that a profile owns meets its rule on a port of that profile. -/
theorem submit_owned {req : Request} {profile : Profile} (h : s.readyAs p profile)
    (ho : ownerOf req.code.toNat = some profile) (hk : keepsWindow req = false) (hu : ∀ c, req ≠ .unknown c) :
    Host.Outcome.next (s.submit p tag req) = (serve p req s).answers p req.code tag := by
  obtain ⟨hr, hp⟩ := h
  have hm : mayIssue (s.ports.get p).profile req = true := by rw [mayIssue, ho, hp]; exact beq_self_eq_true _
  rw [Served.answers, State.submit_answered s p tag req hr hm hk hu]

theorem exec_readCardholder (h : s.ready p) (card : BitVec 32) :
    exec (.readCardholder p tag card) s = (serveReadCardholder card s).answers p 0x04#8 tag :=
  submit_shared h rfl rfl nofun

theorem exec_readAccount (h : s.ready p) (folio : BitVec 32) :
    exec (.readAccount p tag folio) s = (serveReadAccount folio s).answers p 0x05#8 tag :=
  submit_shared h rfl rfl nofun

theorem exec_readCabin (h : s.ready p) (cabin : BitVec 16) :
    exec (.readCabin p tag cabin) s = (serveReadCabin cabin s).answers p 0x06#8 tag :=
  submit_shared h rfl rfl nofun

theorem exec_enrolCardholder (h : s.readyAs p .purser) (card : BitVec 32) (kind : Byte) (folio : BitVec 32)
    (classMask : Byte) (deckMask : BitVec 32) :
    exec (.enrolCardholder p tag card kind folio classMask deckMask) s =
      (serveEnrol card kind folio classMask deckMask s).answers p 0x40#8 tag :=
  submit_owned h rfl rfl nofun

theorem exec_reissueCard (h : s.readyAs p .purser) (card : BitVec 32) :
    exec (.reissueCard p tag card) s = (serveReissue card s).answers p 0x41#8 tag :=
  submit_owned h rfl rfl nofun

theorem exec_suspend (h : s.readyAs p .purser) (card : BitVec 32) :
    exec (.suspend p tag card) s = (serveSuspend card s).answers p 0x42#8 tag :=
  submit_owned h rfl rfl nofun

theorem exec_resume (h : s.readyAs p .purser) (card : BitVec 32) :
    exec (.resume p tag card) s = (serveResume card s).answers p 0x43#8 tag :=
  submit_owned h rfl rfl nofun

theorem exec_purgeCardholder (h : s.readyAs p .purser) (card : BitVec 32) :
    exec (.purgeCardholder p tag card) s = (servePurge card s).answers p 0x44#8 tag :=
  submit_owned h rfl rfl nofun

theorem exec_setClassMask (h : s.readyAs p .purser) (card : BitVec 32) (mask : Byte) :
    exec (.setClassMask p tag card mask) s = (serveSetClassMask card mask s).answers p 0x45#8 tag :=
  submit_owned h rfl rfl nofun

theorem exec_setDeckMask (h : s.readyAs p .purser) (card : BitVec 32) (mask : BitVec 32) :
    exec (.setDeckMask p tag card mask) s = (serveSetDeckMask card mask s).answers p 0x46#8 tag :=
  submit_owned h rfl rfl nofun

theorem exec_openAccount (h : s.readyAs p .purser) (folio limit deposit : BitVec 32) :
    exec (.openAccount p tag folio limit deposit) s = (serveOpenAccount folio limit deposit s).answers p 0x50#8 tag :=
  submit_owned h rfl rfl nofun

theorem exec_setLimit (h : s.readyAs p .purser) (folio amount : BitVec 32) :
    exec (.setLimit p tag folio amount) s = (serveSetLimit folio amount s).answers p 0x51#8 tag :=
  submit_owned h rfl rfl nofun

theorem exec_setDeposit (h : s.readyAs p .purser) (folio amount : BitVec 32) :
    exec (.setDeposit p tag folio amount) s = (serveSetDeposit folio amount s).answers p 0x52#8 tag :=
  submit_owned h rfl rfl nofun

theorem exec_setPackage (h : s.readyAs p .purser) (folio : BitVec 32) (package : Byte) :
    exec (.setPackage p tag folio package) s = (serveSetPackage folio package s).answers p 0x53#8 tag :=
  submit_owned h rfl rfl nofun

theorem exec_setMinorRelease (h : s.readyAs p .purser) (folio : BitVec 32) (value : Byte) :
    exec (.setMinorRelease p tag folio value) s = (serveSetMinorRelease folio value s).answers p 0x54#8 tag :=
  submit_owned h rfl rfl nofun

theorem exec_close (h : s.readyAs p .purser) (folio : BitVec 32) :
    exec (.close p tag folio) s = (serveClose folio s).answers p 0x59#8 tag :=
  submit_owned h rfl rfl nofun

theorem exec_takeClosure (h : s.readyAs p .purser) :
    exec (.takeClosure p tag) s = (serveTakeClosure s).answers p 0x5A#8 tag :=
  submit_owned h rfl rfl nofun

theorem exec_defineCabin (h : s.readyAs p .purser) (cabin : BitVec 16) (deck : Byte) :
    exec (.defineCabin p tag cabin deck) s = (serveDefineCabin cabin deck s).answers p 0x60#8 tag :=
  submit_owned h rfl rfl nofun

theorem exec_undefineCabin (h : s.readyAs p .purser) (cabin : BitVec 16) :
    exec (.undefineCabin p tag cabin) s = (serveUndefineCabin cabin s).answers p 0x61#8 tag :=
  submit_owned h rfl rfl nofun

theorem exec_grantCabin (h : s.readyAs p .purser) (card : BitVec 32) (cabin : BitVec 16) :
    exec (.grantCabin p tag card cabin) s = (serveGrantCabin card cabin s).answers p 0x62#8 tag :=
  submit_owned h rfl rfl nofun

theorem exec_revokeCabin (h : s.readyAs p .purser) (card : BitVec 32) (cabin : BitVec 16) :
    exec (.revokeCabin p tag card cabin) s = (serveRevokeCabin card cabin s).answers p 0x63#8 tag :=
  submit_owned h rfl rfl nofun

theorem exec_rekeyCabin (h : s.readyAs p .purser) (cabin : BitVec 16) :
    exec (.rekeyCabin p tag cabin) s = (serveRekeyCabin cabin s).answers p 0x64#8 tag :=
  submit_owned h rfl rfl nofun

theorem exec_blockCabin (h : s.readyAs p .purser) (cabin : BitVec 16) :
    exec (.blockCabin p tag cabin) s = (serveBlockCabin cabin s).answers p 0x65#8 tag :=
  submit_owned h rfl rfl nofun

theorem exec_unblockCabin (h : s.readyAs p .purser) (cabin : BitVec 16) :
    exec (.unblockCabin p tag cabin) s = (serveUnblockCabin cabin s).answers p 0x66#8 tag :=
  submit_owned h rfl rfl nofun

theorem exec_charge (h : s.readyAs p .service) (outlet : BitVec 16) (cls : Byte) (unit : BitVec 32) (qty : Byte)
    (cards : List Presentation) :
    exec (.charge p tag outlet cls unit qty cards) s =
      (serveCharge p outlet cls unit qty cards s).answers p 0x21#8 tag :=
  submit_owned h rfl rfl nofun

/-! ## Reading records (01 R26 to R28) -/

@[simp] theorem optionalGroup_true (bytes : List Byte) : optionalGroup true bytes = 0x01#8 :: bytes := rfl

@[simp] theorem optionalGroup_false (bytes : List Byte) : optionalGroup false bytes = [0x00#8] := rfl

theorem bne_staff_of_ne {c : Cardholder} (h : c.kind ≠ .staff) : (c.kind != .staff) = true := bne_iff_ne.mpr h

/-- The fields of a guest with its account and presence written out. -/
theorem guestFields_of {c : Cardholder} {ref : AccountRef} {q : Presence} (ha : c.account = some ref)
    (hq : c.presence = some q) : guestFields s c =
      u32 ref.serial ++ u16 ref.slot ++ optional u32 ((s.accountOf c).map (fun x => x.2.folio)) ++
        u32 (if c.spentDay = s.shipDay then c.spent else 0) ++ u32 c.held ++ i32 (effectiveCap s.tariff c) ++
        u8 q.code ++ optional Transit.bytes c.lastTransit := by
  rw [guestFields, ha, hq]; rfl

/-- Settles O16: each read answers from the record found, and leaves the state. -/
theorem rosterReads : Obligations.RosterReads := by
  intro s p tag card folio cabin h
  rw [exec_readCardholder h, exec_readAccount h, exec_readCabin h]
  refine ⟨fun hf => ?_, fun slot c hf hk => ?_, fun slot c ref q hf hk ha hq => ?_, fun hf => ?_, fun slot a hf => ?_,
    fun hf => ?_, fun slot k hf => ?_⟩
  · simp [serveReadCardholder, hf]
  · simp [serveReadCardholder, hf, hk, CardKind.code]
  · simp only [serveReadCardholder, hf, bne_staff_of_ne hk, guestFields_of ha hq]
    rfl
  · simp [serveReadAccount, hf]
  · simp only [serveReadAccount, hf]
    rfl
  · simp [serveReadCabin, hf]
  · simp only [serveReadCabin, hf]
    rfl

end Sys2Proof.Machine
end

section
/-! PROOFS. Cardholders: enrolment, card life and conflict reports (01 R1, R5 to R12). -/

namespace Sys2Proof.Machine

variable {s : State} {p : Port} {tag : Byte} {card : BitVec 32}

/-- The lowest FREE slot, or that there is none (01 R1). -/
theorem Table.freeSlot_facts {α : Type} (t : Table α) (slots : Nat) :
    (∀ slot, t.wf slots = true → t.freeSlot slots = some slot →
      slot < slots ∧ t.fetch slot = none ∧ ∀ j < slot, t.fetch j ≠ none) ∧
    (t.freeSlot slots = none → ∀ j < slots, t.fetch j ≠ none) := by
  refine ⟨fun slot hw h => ?_, fun h j hj => Option.isSome_iff_ne_none.mp (Table.freeSlot_none h j hj)⟩
  obtain ⟨hlt, hfree⟩ := Table.freeSlot_spec hw h
  exact ⟨hlt, hfree, fun j hj => Option.isSome_iff_ne_none.mp (Table.freeSlot_lowest h j hj)⟩

/-! ## Enrolment (01 R5, R6) -/

/-- The codes of the card kinds are 0 to 2. -/
theorem CardKind.ofCode_cases (kind : Byte) :
    (kind = 0x00#8 ∧ CardKind.ofCode kind = some .adult) ∨ (kind = 0x01#8 ∧ CardKind.ofCode kind = some .minor) ∨
      (kind = 0x02#8 ∧ CardKind.ofCode kind = some .staff) ∨ (2 < kind.toNat ∧ CardKind.ofCode kind = none) := by
  revert kind
  decide

theorem deckMaskOk_iff (mask : BitVec 32) : deckMaskOk mask = true ↔ mask.toNat < 2 ^ 20 := decide_eq_true_iff

theorem deckMaskOk_eq_false (mask : BitVec 32) : deckMaskOk mask = false ↔ 2 ^ 20 ≤ mask.toNat := by
  rw [← Bool.not_eq_true, deckMaskOk_iff, Nat.not_lt]

variable {kind classMask : Byte} {folio deckMask : BitVec 32}

theorem serveEnrol_badField (h : card.toNat = 0 ∨ 2 < kind.toNat ∨ (kind = 0x02#8 ∧ 2 ^ 20 ≤ deckMask.toNat)) :
    serveEnrol card kind folio classMask deckMask s = (s, Reply.refuse .badField) := by
  rcases CardKind.ofCode_cases kind with ⟨rfl, hc⟩ | ⟨rfl, hc⟩ | ⟨rfl, hc⟩ | ⟨-, hc⟩
  · have h0 : card.toNat = 0 := by simpa using h
    simp only [serveEnrol, hc, h0, true_or, if_true]
  · have h0 : card.toNat = 0 := by simpa using h
    simp only [serveEnrol, hc, h0, true_or, if_true]
  · have h0 : card.toNat = 0 ∨ 2 ^ 20 ≤ deckMask.toNat := by simpa using h
    simp only [serveEnrol, hc, deckMaskOk_eq_false, true_and, h0, if_true]
  · simp only [serveEnrol, hc]

/-- The kind of a guest by its code. -/
def guestKind (kind : Byte) : CardKind := if kind = 0x00#8 then .adult else .minor

/-- A guest's enrolment past check 1. -/
theorem serveEnrol_guest (h0 : card.toNat ≠ 0) (hk : kind = 0x00#8 ∨ kind = 0x01#8) :
    serveEnrol card kind folio classMask deckMask s =
      if (s.findCard card.toNat).isSome then (s, Reply.refuse .duplicateCard)
      else enrolGuest (guestKind kind) card.toNat folio.toNat classMask s := by
  rcases hk with rfl | rfl
  · have hc : CardKind.ofCode 0x00#8 = some .adult := rfl
    simp [serveEnrol, hc, h0, guestKind]
  · have hc : CardKind.ofCode 0x01#8 = some .minor := rfl
    simp [serveEnrol, hc, h0, guestKind]

/-- The enrolment of STAFF past check 1. -/
theorem serveEnrol_staff (h0 : card.toNat ≠ 0) (hd : deckMask.toNat < 2 ^ 20) :
    serveEnrol card 0x02#8 folio classMask deckMask s =
      if (s.findCard card.toNat).isSome then (s, Reply.refuse .duplicateCard)
      else enrolStaff card.toNat deckMask s := by
  have hc : CardKind.ofCode 0x02#8 = some .staff := rfl
  simp [serveEnrol, hc, h0, (deckMaskOk_iff deckMask).mpr hd]

/-- Settles O19: the checks of R5 one by one, then the record of R6 in the lowest FREE slot. -/
theorem enrolment : Obligations.Enrolment := by
  refine ⟨Table.freeSlot_facts, fun s p tag card kind folio classMask deckMask h => ?_⟩
  rw [exec_enrolCardholder h]
  refine ⟨fun hb => ?_, fun h0 => ⟨fun hk => ?_, ?_⟩⟩
  · rw [serveEnrol_badField hb, Served.answers_mk]
  · rw [serveEnrol_guest h0 hk]
    refine ⟨fun hd => ?_, fun hc hf => ?_, fun aslot a hc hf => ⟨fun hs => ?_, fun hs hl => ?_, fun hs hl hn => ?_,
      fun slot hs hl hn => ?_⟩⟩
    · simp only [hd, if_true, Served.answers_mk]
    · simp [hc, enrolGuest, hf]
    · simp [hc, enrolGuest, hf, hs]
    · simp [hc, enrolGuest, hf, hs, Config.holdersPerAccount, hl]
    · simp [hc, enrolGuest, hf, hs, Config.holdersPerAccount, Nat.not_le.mpr hl, Config.cardholderSlots, hn]
    · simp only [hc, enrolGuest, hf, hs, Config.holdersPerAccount, Nat.not_le.mpr hl, Config.cardholderSlots, hn]
      rfl
  · rintro rfl hd
    rw [serveEnrol_staff h0 hd]
    refine ⟨fun hdup => ?_, fun hc hn => ?_, fun slot hc hn => ?_⟩
    · simp only [hdup, if_true, Served.answers_mk]
    · simp [hc, enrolStaff, Config.cardholderSlots, hn]
    · simp only [hc, enrolStaff, Config.cardholderSlots, hn]
      rfl

/-! ## Card life (01 R7 to R10) -/

/-- Settles O20: SUSPEND and RESUME by the state found. -/
theorem suspendAndResume : Obligations.SuspendAndResume := by
  intro s p tag card h
  rw [exec_suspend h, exec_resume h]
  refine ⟨fun hf => ?_, fun slot c hf => ⟨fun hs => ?_, fun hs => ?_, fun hs => ?_, fun hs => ?_⟩⟩
  · simp [serveSuspend, serveResume, hf]
  · simp only [serveSuspend, hf, hs]
    rfl
  · simp only [serveSuspend, hf, hs]
    rfl
  · simp [serveSuspend, serveResume, hf, hs]
  · simp only [serveResume, hf, hs, if_false]
    rfl

/-- The pending unlocks of a cardholder, as PURGE CARDHOLDER looks for them. -/
theorem any_unlock_iff {slot : Nat} :
    s.unlocks.any (fun u => u.holder == slot) = true ↔ ∃ u ∈ s.unlocks, u.holder = slot := by
  simp

theorem servePurge_refused {slot : Nat} {c : Cardholder} (hf : s.findCard card.toNat = some (slot, c))
    (h : c.purgeable = false ∨ ∃ u ∈ s.unlocks, u.holder = slot) :
    servePurge card s = (s, Reply.refuse .slotState) := by
  rcases h with h | h
  · simp only [servePurge, hf, h, if_true]
  · simp only [servePurge, hf, any_unlock_iff.mpr h, if_true, ite_self]

theorem servePurge_freed {slot : Nat} {c : Cardholder} (hf : s.findCard card.toNat = some (slot, c))
    (hp : c.purgeable = true) (hu : ∀ u ∈ s.unlocks, u.holder ≠ slot) :
    servePurge card s =
      ({ s with roster := s.roster.remove slot, counters := s.counters.downIf c.presence }, Reply.ok (u16 slot)) := by
  have hnone : s.unlocks.any (fun u => u.holder == slot) = false := by simpa using hu
  simp only [servePurge, hf, hp, hnone, Bool.true_eq_false, Bool.false_eq_true, if_false]

/-- Settles O21: each request by the record found. -/
theorem cardLife : Obligations.CardLife := by
  intro s p tag card h
  simp only [exec_reissueCard h, exec_setClassMask h, exec_setDeckMask h, exec_purgeCardholder h]
  refine ⟨fun hf => ?_, fun slot c hf => ⟨fun hs => ?_, fun hs hg => ?_, fun hs hg => ?_, fun hs hk mask => ?_,
    fun hk mask => ?_, fun hs hk mask => ⟨fun hm => ?_, fun hm => ?_⟩, fun hk mask => ?_, fun hr => ?_,
    fun hu => ⟨fun hk hs hp => ?_, fun hk hs hp => ?_, fun hk hs hp => ?_⟩⟩⟩
  · simp [serveReissue, servePurge, serveSetClassMask, serveSetDeckMask, hf]
  · simp [serveReissue, serveSetClassMask, serveSetDeckMask, hf, hs]
  · simp [serveReissue, hf, hs, hg]
  · simp only [serveReissue, hf, hs, if_false, Nat.not_le.mpr hg]
    rfl
  · simp only [serveSetClassMask, hf, hs, hk, or_self, if_false]
    rfl
  · simp [serveSetClassMask, hf, hk]
  · simp only [serveSetDeckMask, hf, hs, hk, ne_eq, not_true_eq_false, or_self, if_false,
      (deckMaskOk_iff mask).mpr hm, Bool.true_eq_false]
    rfl
  · simp [serveSetDeckMask, hf, hs, hk, (deckMaskOk_eq_false mask).mpr hm]
  · simp [serveSetDeckMask, hf, hk]
  · rw [servePurge_refused hf hr, Served.answers_mk]
  · rw [servePurge_freed hf (c.purgeable_iff.mpr (.inl ⟨hk, hs⟩)) hu, hp]
    rfl
  · rw [servePurge_freed hf (c.purgeable_iff.mpr (.inr ⟨hk, hs, .inl hp⟩)) hu, hp]
    rfl
  · rw [servePurge_freed hf (c.purgeable_iff.mpr (.inr ⟨hk, hs, .inr hp⟩)) hu, hp]
    rfl

/-! ## Conflict reports (01 R11, R12) -/

theorem suspends_iff (threshold : Nat) (c : Cardholder) : suspends threshold c = true ↔
    threshold ≠ 0 ∧ threshold ≤ min 15 (c.conflicts + 1) ∧ c.state = .active := by
  simp [suspends, conflictsAfter, and_assoc]

/-- Settles O22: a report below the threshold counts and tells; at it, an ACTIVE cardholder is suspended too. -/
theorem conflictReports : Obligations.ConflictReports := by
  refine ⟨Cardholder.purgeable_iff, fun s slot c hf => ⟨fun h0 ht ha => ?_, fun hno => ?_⟩⟩
  · have hs := (suspends_iff s.options.threshold c).mpr ⟨h0, ht, ha⟩
    simp only [State.reportConflict, hf, hs, if_true]
    rfl
  · have hs : suspends s.options.threshold c = false := by
      rw [← Bool.not_eq_true, suspends_iff]
      rintro ⟨h0, ht, ha⟩
      rcases hno with h | h | h
      · exact h0 h
      · exact Nat.not_le.mpr h ht
      · exact h ha
    simp only [State.reportConflict, hf, hs, Bool.false_eq_true, if_false]
    rfl

end Sys2Proof.Machine
end

section
/-! PROOFS. Accounts opened and set; cabins defined and blocked (01 R14 to R20). -/

namespace Sys2Proof.Machine

variable {s : State} {p : Port} {tag : Byte} {folio limit deposit amount : BitVec 32}

/-! ## Accounts (01 R14 to R16) -/

/-- OPEN ACCOUNT of a new folio number past its ranges, with no place for it. -/
theorem serveOpenAccount_full (h0 : folio.toNat ≠ 0) (hr : ¬ (50000000 < limit.toNat ∨ 99999999 < deposit.toNat))
    (hf : s.findFolio folio.toNat = none) (hn : s.nextSerial = 4294967296 ∨ s.accounts.freeSlot 4096 = none) :
    serveOpenAccount folio limit deposit s = (s, Reply.refuse .tableFull) := by
  rcases hn with hn | hn
  · simp [serveOpenAccount, h0, hf, Config.capMax, Config.depositMax, hr, Config.exhausted, hn]
  · simp [serveOpenAccount, h0, hf, Config.capMax, Config.depositMax, hr, Config.accountSlots, hn]

theorem serveOpenAccount_opened {slot : Nat} (h0 : folio.toNat ≠ 0)
    (hr : ¬ (50000000 < limit.toNat ∨ 99999999 < deposit.toNat)) (hf : s.findFolio folio.toNat = none)
    (hn : s.nextSerial < 4294967296) (hs : s.accounts.freeSlot 4096 = some slot) :
    serveOpenAccount folio limit deposit s =
      (({ s with nextSerial := s.nextSerial + 1 } : State).withAccount slot
        { state := .opened, folio := folio.toNat, serial := s.nextSerial, holders := [], limit := limit.toNat,
          deposit := deposit.toNat, package := 0, minorRelease := false, posted := 0, held := 0, settled := 0,
          first := none, last := none, count := 0, cursor := none },
        Reply.ok (u16 slot ++ u32 s.nextSerial)) := by
  simp [serveOpenAccount, h0, hf, Config.capMax, Config.depositMax, hr, Config.exhausted, Nat.not_le.mpr hn,
    Config.accountSlots, hs, State.withAccount]

/-- An over-limit notice, by its amounts. -/
theorem State.noteOverLimit_of_within (s : State) {a : Account} (h : a.posted + a.held ≤ a.limit + a.deposit) :
    s.noteOverLimit a = s := by
  rw [State.noteOverLimit, if_neg]
  unfold Account.headroom; omega

theorem State.noteOverLimit_of_over (s : State) {a : Account} (h : a.limit + a.deposit < a.posted + a.held) :
    s.noteOverLimit a =
      s.raise purserPorts .overLimit (some (.folio a.folio)) (some (a.posted + a.held - (a.limit + a.deposit))) := by
  have hneg : a.headroom < 0 := by unfold Account.headroom; omega
  have hval : -a.headroom = a.posted + a.held - (a.limit + a.deposit) := by unfold Account.headroom; omega
  rw [State.noteOverLimit, if_pos hneg, hval]

variable {slot : Nat} {a : Account}

theorem serveSetLimit_inRange (hf : s.findFolio folio.toNat = some (slot, a)) (h : amount.toNat ≤ 50000000) :
    serveSetLimit folio amount s =
      ((s.withAccount slot { a with limit := amount.toNat }).noteOverLimit { a with limit := amount.toNat },
        Reply.ok (i64 (amount.toNat + a.deposit - a.posted - a.held))) := by
  have hr : ¬ Config.capMax < amount.toNat := Nat.not_lt.mpr h
  simp only [serveSetLimit, hf, hr, if_false]
  rfl

theorem serveSetDeposit_inRange (hf : s.findFolio folio.toNat = some (slot, a)) (h : amount.toNat ≤ 99999999) :
    serveSetDeposit folio amount s =
      ((s.withAccount slot { a with deposit := amount.toNat }).noteOverLimit { a with deposit := amount.toNat },
        Reply.ok (i64 (a.limit + amount.toNat - a.posted - a.held))) := by
  have hr : ¬ Config.depositMax < amount.toNat := Nat.not_lt.mpr h
  simp only [serveSetDeposit, hf, hr, if_false]
  rfl

/-- A flag byte is 0 or 1 (11 R191). -/
theorem flagOf_of_le {b : Byte} (h : b.toNat ≤ 1) : flagOf b = some (decide (b = 0x01#8)) := by
  revert b
  decide

theorem flagOf_of_gt {b : Byte} (h : 1 < b.toNat) : flagOf b = none := by
  revert b
  decide

/-- Settles O23: each request by its ranges and the folio found. -/
theorem accountRequests : Obligations.AccountRequests := by
  refine ⟨Table.freeSlot_facts, fun s p tag folio h => ?_⟩
  simp only [exec_openAccount h, exec_setLimit h, exec_setDeposit h, exec_setPackage h, exec_setMinorRelease h]
  refine ⟨fun limit deposit => ⟨fun h0 => ?_, fun h0 hr => ?_, fun h0 hl hd => ⟨fun hf => ?_, fun hf hn => ?_,
    fun slot hf hn hs => ?_⟩⟩, fun hf amount b => ⟨?_, ?_, fun hb => ?_, fun hb => ?_⟩, fun slot a hf =>
    ⟨fun amount => ⟨fun hr => ?_, fun hr => ?_, fun hr => ⟨fun hin => ?_, fun hover => ?_⟩,
      fun hr => ⟨fun hin => ?_, fun hover => ?_⟩⟩, fun b => ⟨fun hb => ?_, fun hb => ?_, fun hb => ?_, fun hb => ?_⟩⟩⟩
  · simp [serveOpenAccount, h0]
  · simp [serveOpenAccount, h0, Config.capMax, Config.depositMax, hr]
  · have hr : ¬ (Config.capMax < limit.toNat ∨ Config.depositMax < deposit.toNat) := by
      simp only [Config.capMax, Config.depositMax]; omega
    simp only [serveOpenAccount, h0, hr, hf, if_true, if_false, Served.answers_mk]
  · rw [serveOpenAccount_full h0 (by omega) hf hn, Served.answers_mk]
  · rw [serveOpenAccount_opened h0 (by omega) hf hn hs, Served.answers_mk]
  · simp [serveSetLimit, hf]
  · simp [serveSetDeposit, hf]
  · simp [serveSetPackage, hf, Nat.not_lt.mpr hb]
  · simp [serveSetMinorRelease, hf, flagOf_of_le hb]
  · simp [serveSetLimit, hf, Config.capMax, hr]
  · simp [serveSetDeposit, hf, Config.depositMax, hr]
  · rw [serveSetLimit_inRange hf hr, State.noteOverLimit_of_within _ hin, Served.answers_mk]
  · rw [serveSetLimit_inRange hf hr, State.noteOverLimit_of_over _ hover, Served.answers_mk]
  · rw [serveSetDeposit_inRange hf hr, State.noteOverLimit_of_within _ hin, Served.answers_mk]
  · rw [serveSetDeposit_inRange hf hr, State.noteOverLimit_of_over _ hover, Served.answers_mk]
  · simp [serveSetMinorRelease, flagOf_of_gt hb]
  · simp only [serveSetPackage, hf, Nat.not_lt.mpr hb, if_false]
    rfl
  · simp [serveSetPackage, hb]
  · simp only [serveSetMinorRelease, hf, flagOf_of_le hb]
    rfl

/-! ## Cabins (01 R18 to R20) -/

variable {cabin : BitVec 16} {k : Cabin}

/-- No unlock is pending on a cabin exactly when none of the list names it. -/
theorem State.unlockOf_isSome : (s.unlockOf slot).isSome = true ↔ ∃ u ∈ s.unlocks, u.cabin = slot := by
  simp [State.unlockOf, List.find?_isSome]

/-- UNDEFINE CABIN leaves a window that is no history window. -/
theorem Window.cabinGone_of_not_history {w : Window} (h : ∀ number start ending cursor added gone,
    w ≠ .history number slot start ending cursor added gone) : Window.cabinGone slot w = w := by
  cases w with
  | history number k start ending cursor added gone =>
    have hk : k ≠ slot := by rintro rfl; exact h _ _ _ _ _ _ rfl
    simp [Window.cabinGone, hk]
  | chain => rfl
  | missing => rfl
  | closures => rfl

theorem State.mapWindows_get (s : State) (f : Window → Window) (p : Port) :
    (s.mapWindows f).ports.get p = { s.ports.get p with window := (s.ports.get p).window.map f } := by
  rw [State.mapWindows, Quad.get_map]

/-- Settles O24: DEFINE CABIN and UNDEFINE CABIN by the cabin found, and what undefining does to windows. -/
theorem cabinsDefined : Obligations.CabinsDefined := by
  refine ⟨Table.freeSlot_facts, ⟨fun s f => ⟨rfl, s.mapWindows_get f⟩,
    fun slot number start ending cursor added gone => ?_,
    fun slot w => Window.cabinGone_of_not_history, fun _ _ _ _ _ _ _ => rfl⟩, fun s p tag cabin h => ?_⟩
  · simp [Window.cabinGone]
  simp only [exec_defineCabin h, exec_undefineCabin h]
  refine ⟨fun deck => ⟨fun hb => ?_, fun h0 h1 h20 => ?_⟩, fun hf => ?_,
    fun slot k hf => ⟨fun hr => ?_, fun hg hu => ?_⟩⟩
  · simp only [serveDefineCabin, hb, if_true, Served.answers_mk]
  · have hb : ¬ (cabin.toNat = 0 ∨ deck.toNat = 0 ∨ 20 < deck.toNat) := by omega
    refine ⟨fun hf => ?_, fun hf hn => ?_, fun slot hf hn => ?_⟩
    · simp only [serveDefineCabin, hb, hf, if_true, if_false, Served.answers_mk]
    · simp [serveDefineCabin, hb, hf, Config.cabinSlots, hn]
    · simp only [serveDefineCabin, hb, hf, Config.cabinSlots, hn]
      rfl
  · simp [serveUndefineCabin, hf]
  · rw [← State.unlockOf_isSome] at hr
    simp only [serveUndefineCabin, hf, hr, if_true, Served.answers_mk]
  · have hno : ¬ (k.grantees ≠ [] ∨ (s.unlockOf slot).isSome = true) := by
      rw [State.unlockOf_isSome]
      rintro (hne | ⟨u, hin, he⟩)
      · exact hne hg
      · exact hu u hin he
    simp only [serveUndefineCabin, hf, hno, if_false, Served.answers_mk]

theorem Cabin.with_blocked {b : Blocked} (h : k.blocked = b) : { k with blocked := b } = k := by
  rw [← h]

/-- Settles O25: both requests by the blocked field found. -/
theorem cabinsBlocked : Obligations.CabinsBlocked := by
  intro s p tag cabin h
  rw [exec_blockCabin h, exec_unblockCabin h]
  refine ⟨fun hf => ?_, fun slot k hf => ⟨fun hb => ?_, fun hb => ?_, fun hb => ?_, ?_⟩⟩
  · simp [serveBlockCabin, serveUnblockCabin, hf]
  · simp only [serveBlockCabin, hf, hb]
    rfl
  · simp only [serveBlockCabin, hf, hb, Cabin.with_blocked hb]
    rfl
  · simp only [serveBlockCabin, hf, hb, Cabin.with_blocked hb]
    rfl
  · simp only [serveUnblockCabin, hf]
    rfl

end Sys2Proof.Machine
end

section
/-! PROOFS. CabinGrants: GRANT, REVOKE and REKEY CABIN, with the closed form of a list of pairs that leave (01 R21 to
R24). -/

namespace Sys2Proof.Machine

/-! ## Two writes of one slot -/

section Tables

variable {α : Type}

theorem Table.modify_modify (t : Table α) (k : Nat) (f g : α → α) :
    (t.modify k f).modify k g = t.modify k (fun x => g (f x)) := by
  induction t with
  | nil => rfl
  | cons e rest ih =>
    obtain ⟨i, a⟩ := e
    simp only [Table.modify]
    split
    · rename_i h; simp only [Table.modify, h, if_true]
    · rename_i h; simp only [Table.modify, h, if_false, ih]

theorem Table.modify_id (t : Table α) (k : Nat) : t.modify k id = t := by
  induction t with
  | nil => rfl
  | cons e rest ih =>
    obtain ⟨i, a⟩ := e
    simp only [Table.modify]
    split
    · rfl
    · rw [ih]

/-- A write of a slot reads the record that stands there alone. -/
theorem Table.modify_congr {t : Table α} {k : Nat} {f g : α → α} {x : α} (hx : t.fetch k = some x)
    (h : f x = g x) : t.modify k f = t.modify k g := by
  induction t with
  | nil => rfl
  | cons e rest ih =>
    obtain ⟨i, a⟩ := e
    simp only [Table.fetch] at hx
    simp only [Table.modify]
    split at hx
    · cases hx
      simp only [if_pos ‹i = k›, h]
    · simp only [if_neg ‹¬ i = k›, ih hx]

end Tables

/-! ## Pairs of one cabin that leave -/

variable {s : State} {p : Port} {tag : Byte}

/-- A cabin after a list of cardholders left it (01 R21). -/
theorem Cabin.foldl_dropGrantee (hs : List Nat) (k : Cabin) : hs.foldl Cabin.dropGrantee k = { k with
    grantees := k.grantees.filter (fun h => decide (h ∉ hs))
    privacy := if hs ≠ [] ∧ k.grantees.filter (fun h => decide (h ∉ hs)) = [] then false else k.privacy } := by
  induction hs generalizing k with
  | nil => simp
  | cons h rest ih =>
    have left : (k.dropGrantee h).grantees.filter (fun x => decide (x ∉ rest)) =
        k.grantees.filter (fun x => decide (x ∉ h :: rest)) := by
      simp only [Cabin.dropGrantee, List.filter_filter]
      congr 1
      funext x
      by_cases hx : x = h <;> simp [hx]
    rw [List.foldl_cons, ih, left]
    simp only [Cabin.dropGrantee, Cabin.mk.injEq, true_and, ne_eq, List.cons_ne_nil, not_false_eq_true, and_true]
    cases rest with
    | nil => simp [bne, Bool.beq_eq_decide_eq]
    | cons g rest =>
      by_cases he : k.grantees.filter (fun x => decide (x ∉ h :: g :: rest)) = []
      · simp only [he, reduceCtorEq, not_false_eq_true, and_self, if_true]
      · have hne : ¬ k.grantees.filter (fun x => x != h) = [] := by
          intro h0
          refine he (List.filter_eq_nil_iff.mpr fun x hx hd => ?_)
          have := List.filter_eq_nil_iff.mp h0 x hx
          simp_all
        simp only [he, hne, and_false, if_false]

theorem unpairHolders_cabins (kslot : Nat) (hs : List Nat) (s : State) :
    (hs.foldl (fun t h => t.unpair h kslot) s).cabins =
      s.cabins.modify kslot (fun k => hs.foldl Cabin.dropGrantee k) := by
  induction hs generalizing s with
  | nil => exact (Table.modify_id _ _).symm
  | cons h rest ih => rw [List.foldl_cons, ih, State.unpair, Table.modify_modify]; rfl

theorem unpairHolders_roster (kslot : Nat) (hs : List Nat) (s : State) (i : Nat) :
    (hs.foldl (fun t h => t.unpair h kslot) s).roster.fetch i =
      if i ∈ hs then (s.roster.fetch i).map (fun c => { c with cabins := c.cabins.filter (fun k => k != kslot) })
      else s.roster.fetch i := by
  induction hs generalizing s with
  | nil => simp
  | cons h rest ih =>
    rw [List.foldl_cons, ih, State.unpair_roster]
    by_cases hr : i ∈ rest <;> by_cases hh : i = h <;>
      simp [hr, hh, Option.map_map, Function.comp_def, List.filter_filter]

/-! ## The three requests -/

variable {card : BitVec 32} {cabin : BitVec 16}

/-- Both keys are looked for before any other check. -/
theorem serveGrantCabin_notFound (h : s.findCard card.toNat = none ∨ s.findCabin cabin.toNat = none) :
    serveGrantCabin card cabin s = (s, Reply.refuse .notFound) := by
  unfold serveGrantCabin
  split <;> simp_all

theorem serveRevokeCabin_notFound (h : s.findCard card.toNat = none ∨ s.findCabin cabin.toNat = none) :
    serveRevokeCabin card cabin s = (s, Reply.refuse .notFound) := by
  unfold serveRevokeCabin
  split <;> simp_all

variable {slot kslot : Nat} {c : Cardholder} {k : Cabin}

/-- GRANT CABIN of a cardholder and a cabin found. -/
theorem serveGrantCabin_found (hc : s.findCard card.toNat = some (slot, c))
    (hk : s.findCabin cabin.toNat = some (kslot, k)) : serveGrantCabin card cabin s =
      if c.kind = .staff ∨ c.state = .closed then (s, Reply.refuse .slotState)
      else if kslot ∈ c.cabins then (s, Reply.ok (u8 c.cabins.length ++ u8 k.grantees.length))
      else if 4 ≤ c.cabins.length ∨ 8 ≤ k.grantees.length then (s, Reply.refuse .grantLimit)
      else ((s.withCard slot { c with cabins := c.cabins ++ [kslot] }).withCabin kslot
          { k with grantees := k.grantees ++ [slot] },
        Reply.ok (u8 (c.cabins.length + 1) ++ u8 (k.grantees.length + 1))) := by
  simp only [serveGrantCabin, hc, hk, Config.cabinsPerCardholder, Config.granteesPerCabin, State.withCabin]

theorem serveRevokeCabin_found (hc : s.findCard card.toNat = some (slot, c))
    (hk : s.findCabin cabin.toNat = some (kslot, k)) : serveRevokeCabin card cabin s =
      if kslot ∈ c.cabins then
        (s.unpair slot kslot,
          Reply.ok (u8 (c.cabins.filter (fun x => x != kslot)).length ++ u8 (k.dropGrantee slot).grantees.length))
      else (s, Reply.ok (u8 c.cabins.length ++ u8 k.grantees.length)) := by
  simp only [serveRevokeCabin, hc, hk]

/-- Every grantee of a cabin leaves it (01 R24). -/
theorem Cabin.dropGrantees (k : Cabin) : k.grantees.foldl Cabin.dropGrantee k =
    { k with grantees := [], privacy := if k.grantees = [] then k.privacy else false } := by
  have hnone : k.grantees.filter (fun h => decide (h ∉ k.grantees)) = [] := by simp
  rw [Cabin.foldl_dropGrantee, hnone]
  by_cases h : k.grantees = [] <;> simp [h]

/-- Settles O26: the requests by what they find, with both sides of the relation after each. -/
theorem cabinGrants : Obligations.CabinGrants := by
  intro s p tag card cabin h
  rw [exec_grantCabin h, exec_revokeCabin h, exec_rekeyCabin h]
  refine ⟨fun hn => ?_, fun slot c kslot k hc hk => ⟨fun hr => ?_, fun hkind hs => ⟨fun hin => ?_, fun hin hl => ?_,
    fun hin h4 h8 => ?_⟩, fun hin => ?_, fun hin => ?_⟩, fun hn => ?_, fun kslot k hk hf hw => ?_⟩
  · rw [serveGrantCabin_notFound hn, serveRevokeCabin_notFound hn]
    exact ⟨rfl, rfl⟩
  · rw [serveGrantCabin_found hc hk, if_pos hr, Served.answers_mk]
  · rw [serveGrantCabin_found hc hk, if_neg (not_or.mpr ⟨hkind, hs⟩), if_pos hin, Served.answers_mk]
  · rw [serveGrantCabin_found hc hk, if_neg (not_or.mpr ⟨hkind, hs⟩), if_neg hin, if_pos hl, Served.answers_mk]
  · rw [serveGrantCabin_found hc hk, if_neg (not_or.mpr ⟨hkind, hs⟩), if_neg hin, if_neg (by omega),
      Served.answers_mk]
  · rw [serveRevokeCabin_found hc hk, if_neg hin, Served.answers_mk]
  · rw [serveRevokeCabin_found hc hk, if_pos hin]
    rfl
  · simp [serveRekeyCabin, hn]
  · obtain ⟨r, l, e⟩ := State.unpairHolders_frame s kslot k.grantees
    have hroster := unpairHolders_roster kslot k.grantees s
    have hcabins := unpairHolders_cabins kslot k.grantees s
    rw [e] at hroster hcabins
    have emptied : s.cabins.modify kslot (fun y => k.grantees.foldl Cabin.dropGrantee y) =
        s.cabins.modify kslot (fun y => { y with
          grantees := [], privacy := if y.grantees = [] then y.privacy else false }) :=
      Table.modify_congr hf k.dropGrantees
    refine ⟨r, ?_, hroster⟩
    dsimp only at hcabins
    simp only [serveRekeyCabin, hk, e, hcabins, emptied, Served.answers_mk]

end Sys2Proof.Machine
end

section
/-! PROOFS. OneCardIsCharged: a CHARGE that names one card (04 R75 to R79). -/

namespace Sys2Proof.Machine

variable {s : State} {p : Port} {tag : Byte}

/-- The whole total is the one share of a charge on one card (03 R57). -/
theorem splitShares_one (total : Nat) : splitShares total 1 = [total] := by
  simp [splitShares, Nat.mod_one]

/-- A card of the current generation, ACTIVE, of a guest of an OPEN account passes checks 2 to 8 (04 R76). -/
theorem checkCard_of {card slot aslot : Nat} {c : Cardholder} {a : Account}
    (hf : s.findCard card = some (slot, c)) (hs : c.state = .active) (hk : c.kind ≠ .staff)
    (ha : s.accountOf c = some (aslot, a)) (ho : a.state = .opened) :
    s.checkCard card c.gen = .ok { holder := slot, card := c, account := aslot, folio := a } := by
  simp [State.checkCard, hf, hs, hk, ha, ho]

/-- A share that passes checks 9 to 12, the first on its account (04 R77). -/
theorem checkShare_passes {x : Payer} {cls share : Nat} (hp : x.card.presence = some .aboard)
    (hm : hasClass x.card.classMask cls = true) (hc : x.card.kind = .minor → cls ≠ 2 ∧ cls ≠ 5)
    (hcap : (x.card.spentToday s.shipDay + x.card.held + share : Nat) ≤ effectiveCap s.tariff x.card)
    (hroom : (share : Int) ≤ x.folio.headroom) : s.checkShare x cls share 0 = none := by
  have hclass : classDenied x.card cls = false := by
    simp only [classDenied, hm, Bool.not_true, Bool.false_or, Bool.and_eq_false_iff, beq_eq_false_iff_ne,
      Bool.or_eq_false_iff]
    exact or_iff_not_imp_left.mpr (fun h => hc (not_not.mp h))
  simp only [State.checkShare, hp, hclass, Nat.zero_add, Int.not_lt.mpr hcap, Int.not_lt.mpr hroom, ne_eq,
    not_true_eq_false, Bool.false_eq_true, if_false]

/-- Authorization of one card: its account's package prices the charge, and it bears the whole (04 R78). -/
theorem authorize_one {x : Presentation} {y : Payer} {cls gross : Nat}
    (hy : s.checkCard x.card.toNat x.gen.toNat = .ok y)
    (hs : s.checkShare y cls (s.tariff.price cls y.folio.package gross 1).total 0 = none) :
    s.authorize cls gross 1 [x] 1 [] none =
      .passed
        [{ holder := y.holder, account := y.account, amount := (s.tariff.price cls y.folio.package gross 1).total }]
        (some (s.tariff.price cls y.folio.package gross 1)) := by
  have hshare : (s.tariff.price cls y.folio.package gross 1).shares.getD (1 - 1) 0 =
      (s.tariff.price cls y.folio.package gross 1).total := by
    have : (s.tariff.price cls y.folio.package gross 1).shares =
        [(s.tariff.price cls y.folio.package gross 1).total] := splitShares_one _
    rw [this]; rfl
  have hpassed : passedOn [] y.account = 0 := rfl
  simp only [State.authorize, hy, Option.getD_none, hshare, hpassed, hs, List.nil_append]

/-- A place and a sequence for one entry (04 R71, R73). -/
theorem logRefusal_one (hq : s.nextSeq < 4294967296) (hp : 1 ≤ s.places) : s.logRefusal 1 = none := by
  have h1 : ¬ Config.exhausted ≤ s.nextSeq := Nat.not_le.mpr hq
  have h2 : ¬ s.places < 1 := Nat.not_lt.mpr hp
  have h3 : ¬ Config.exhausted < s.nextSeq + 1 := Nat.not_lt.mpr hq
  simp only [State.logRefusal, h1, h2, h3, if_false]

/-- A charge whose one card passes, with a place in the log (04 R75 to R79). -/
theorem serveCharge_one {outlet : BitVec 16} {cls : Byte} {unit : BitVec 32} {qty : Byte} {x : Presentation}
    {pr : Priced} {shares : List Share} (ho : outlet.toNat ≤ 1023) (hc : cls.toNat ≤ 7) (hu : unit.toNat ≤ 999999)
    (h1 : 1 ≤ qty.toNat) (h99 : qty.toNat ≤ 99)
    (ha : s.authorize cls.toNat (unit.toNat * qty.toNat) 1 [x] 1 [] none = .passed shares (some pr))
    (hl : s.logRefusal 1 = none) : serveCharge p outlet cls unit qty [x] s =
      ((s.postShares p outlet.toNat cls.toNat pr s.nextSeq shares 1).1,
        Reply.ok (pr.bytes ++ (s.postShares p outlet.toNat cls.toNat pr s.nextSeq shares 1).2)) := by
  have hfield : chargeBadField outlet.toNat cls.toNat [x] = false := by
    simp [chargeBadField, Config.outletMax, ho, hc]
  have hrange : priceOutOfRange unit.toNat qty.toNat = false := by
    simp [priceOutOfRange, Config.priceMax, Config.quantityMax, hu, h99]
    omega
  simp only [serveCharge, hfield, hrange, List.length_singleton, ha, hl, Bool.false_eq_true, if_false]

/-- One share posted, with its response fields (04 R79). -/
theorem postShares_one {outlet cls first : Nat} {pr : Priced} {y : Share} {a : Account}
    (ha : s.accounts.fetch y.account = some a) : s.postShares p outlet cls pr first [y] 1 =
      (s.shareState p outlet cls pr first 1 y a,
        u32 s.nextSeq ++ u32 y.amount ++ i64 (a.joined s.nextSeq y.amount).headroom) := by
  have hroom : (s.shareState p outlet cls pr first 1 y a).headroomAt y.account =
      (a.joined s.nextSeq y.amount).headroom := by
    rw [State.headroomAt, shareState_fetch_same]
  simp only [State.postShares, post_share ha, hroom, List.append_nil]

/-- Settles O34: the card passes its checks, its account prices the charge, and one share is posted. -/
theorem oneCardIsCharged : Obligations.OneCardIsCharged := by
  intro s p tag outlet cls unit qty card gen slot c aslot a h ho hcls hu h1 h99 hf hg hs hk ha hopen hp hm hminor x hcap
    hroom hseq hplaces
  have hcard := checkCard_of hf hs hk ha hopen
  rw [hg] at hcard
  have hshare : s.checkShare { holder := slot, card := c, account := aslot, folio := a } cls.toNat x.total 0 = none :=
    checkShare_passes hp hm hminor hcap hroom
  have hauth := authorize_one (x := { card := card, gen := gen }) hcard hshare
  have cursor : (if a.state = .settling ∧ a.cursor = none then some s.nextSeq else a.cursor) = a.cursor := by
    simp [hopen]
  rw [exec_charge h, serveCharge_one ho hcls hu h1 h99 hauth (logRefusal_one hseq hplaces),
    postShares_one (State.accountOf_some ha).2, Served.answers_mk]
  simp only [State.shareState, Account.joined, cursor]
  rfl

end Sys2Proof.Machine
end

section
/-! PROOFS. AccountsCloseIntoSummaries: what CLOSE clears in the cabins, and TAKE CLOSURE (01 R25; 05 R105 to R109). -/

namespace Sys2Proof.Machine

variable {s : State} {p : Port} {tag : Byte}

/-! ## Cabins that a list of cardholders leaves (01 R25) -/

/-- A cabin without a list of cardholders; its privacy flag is clear once it is empty. -/
def Cabin.without (k : Cabin) (hs : List Nat) : Cabin := { k with
  grantees := k.grantees.filter (fun h => decide (h ∉ hs))
  privacy := k.privacy && !(k.grantees.filter (fun h => decide (h ∉ hs))).isEmpty }

/-- A cabin that none of the list was granted, its privacy flag set with a grantee only, stays as it was. -/
theorem Cabin.without_of_not_mem {k : Cabin} {hs : List Nat} (h : ∀ x ∈ k.grantees, x ∉ hs)
    (hp : k.privacy = true → k.grantees ≠ []) : k.without hs = k := by
  have left : k.grantees.filter (fun h => decide (h ∉ hs)) = k.grantees :=
    List.filter_eq_self.mpr (fun x hx => decide_eq_true (h x hx))
  have privacy : (k.privacy && !k.grantees.isEmpty) = k.privacy := by
    cases hb : k.privacy with
    | false => rfl
    | true => simpa using hp hb
  rw [Cabin.without, left, privacy]

theorem Cabin.dropGrantee_eq_without (k : Cabin) (h : Nat) : k.dropGrantee h = k.without [h] := by
  have left : k.grantees.filter (fun x => decide (x ∉ [h])) = k.grantees.filter (fun x => x != h) := by
    congr 1
    funext x
    by_cases hx : x = h <;> simp [hx]
  rw [Cabin.without, left]
  by_cases h0 : k.grantees.filter (fun x => x != h) = []
  · simp only [Cabin.dropGrantee, h0, if_true, List.isEmpty_nil, Bool.not_true, Bool.and_false]
  · simp only [Cabin.dropGrantee, h0, if_false, List.isEmpty_eq_false_iff.mpr h0, Bool.not_false, Bool.and_true]

theorem Cabin.without_without (k : Cabin) (a b : List Nat) : (k.without a).without b = k.without (a ++ b) := by
  have left : (k.without a).grantees.filter (fun h => decide (h ∉ b)) =
      k.grantees.filter (fun h => decide (h ∉ a ++ b)) := by
    simp [Cabin.without, List.filter_filter, Bool.and_comm]
  have shrinks : k.grantees.filter (fun h => decide (h ∉ a)) = [] →
      k.grantees.filter (fun h => decide (h ∉ a ++ b)) = [] := by
    simp only [List.filter_eq_nil_iff, List.mem_append, decide_eq_true_eq, not_not]
    exact fun h x hx => .inl (h x hx)
  rw [Cabin.without, left]
  simp only [Cabin.without, Cabin.mk.injEq, true_and, and_true]
  by_cases h0 : k.grantees.filter (fun h => decide (h ∉ a)) = []
  · simp only [h0, shrinks h0, List.isEmpty_nil, Bool.not_true, Bool.and_false]
  · simp only [List.isEmpty_eq_false_iff.mpr h0, Bool.not_false, Bool.and_true]

/-- A cardholder closed leaves every cabin: the lists of others do not name it (01 R21, R25). -/
theorem State.closeHolder_cabins (hg : s.grantsOk) (holder i : Nat) :
    (s.closeHolder holder).cabins.fetch i = (s.cabins.fetch i).map (fun k => k.without [holder]) := by
  have unlisted : ∀ k, s.cabins.fetch i = some k → holder ∉ k.grantees →
      s.cabins.fetch i = (s.cabins.fetch i).map (fun k => k.without [holder]) := by
    intro k hk hn
    obtain ⟨-, -, hp, -⟩ := hg.2 i k hk
    rw [hk, Option.map_some, Cabin.without_of_not_mem (fun x hx he => hn ((List.mem_singleton.mp he).subst hx)) hp]
  unfold State.closeHolder
  split
  · rename_i hnone
    cases hk : s.cabins.fetch i with
    | none => rfl
    | some k =>
      rw [← hk]
      refine unlisted k hk (fun hin => ?_)
      obtain ⟨-, -, -, listed⟩ := hg.2 i k hk
      obtain ⟨c, hc, -⟩ := listed holder hin
      rw [hnone] at hc; cases hc
  · rename_i c hc
    dsimp only
    rw [unpairCabins_cabins]
    split
    · simp only [Cabin.dropGrantee_eq_without]
    · rename_i hni
      cases hk : s.cabins.fetch i with
      | none => rfl
      | some k =>
        rw [← hk]
        refine unlisted k hk (fun hin => ?_)
        obtain ⟨-, -, -, listed⟩ := hg.2 i k hk
        obtain ⟨d, hd, hid⟩ := listed holder hin
        rw [hc] at hd; cases hd
        exact hni hid

theorem State.closeHolders_cabins (holders : List Nat) (s : State) (hg : s.grantsOk) (i : Nat) :
    (s.closeHolders holders).cabins.fetch i = (s.cabins.fetch i).map (fun k => k.without holders) := by
  unfold State.closeHolders
  induction holders generalizing s with
  | nil =>
    cases hk : s.cabins.fetch i with
    | none => exact hk
    | some k =>
      obtain ⟨-, -, hp, -⟩ := hg.2 i k hk
      exact hk.trans (congrArg some (Cabin.without_of_not_mem (fun _ _ => List.not_mem_nil) hp).symm)
  | cons h rest ih =>
    rw [List.foldl_cons, ih _ (closeHolder_grantsOk s h hg), State.closeHolder_cabins hg, Option.map_map]
    congr 1
    funext k
    exact k.without_without [h] rest

/-! ## CLOSE and TAKE CLOSURE -/

variable {folio : BitVec 32} {slot : Nat} {a : Account}

/-- CLOSE of a folio found. -/
theorem serveClose_found (hf : s.findFolio folio.toNat = some (slot, a)) : serveClose folio s =
    if a.state ≠ .settled then (s, Reply.refuse .slotState)
    else if 32 ≤ s.closures.length then (s, Reply.refuse .queueFull)
    else (s.closeAccount slot a,
      Reply.ok (u8 (s.closures.length + 1) ++ u32 a.folio ++ u32 a.serial ++ i32 a.settled ++
        i32 (a.settled - a.deposit))) := by
  simp only [serveClose, hf, Config.closurePlaces]

/-- TAKE CLOSURE leaves a window on another collection. -/
theorem Window.closureTaken_of_not_closures {w : Window}
    (h : ∀ start ending cursor taken, w ≠ .closures start ending cursor taken) : Window.closureTaken w = w := by
  cases w with
  | closures start ending cursor taken => exact absurd rfl (h start ending cursor taken)
  | chain => rfl
  | missing => rfl
  | history => rfl

/-- Settles O43: the checks of CLOSE and what a CLOSE that passes clears, slot by slot; and TAKE CLOSURE. -/
theorem accountsCloseIntoSummaries : Obligations.AccountsCloseIntoSummaries := by
  refine ⟨fun s p tag folio h => ⟨fun hf => ?_, fun slot a hf => ?_⟩, fun s p tag h => ⟨fun h0 => ?_, fun x rest hx =>
    ⟨?_, fun q => ⟨State.mapWindows_get _ _ q, fun _ _ _ _ => rfl, fun _ => Window.closureTaken_of_not_closures⟩⟩⟩⟩
  · rw [exec_close h]
    simp [serveClose, hf]
  · rw [exec_close h, serveClose_found hf]
    refine ⟨fun hs => ?_, fun hs hl => ?_, fun hs hl hg => ?_⟩
    · rw [if_pos hs, Served.answers_mk]
    · rw [if_neg (not_not.mpr hs), if_pos hl, Served.answers_mk]
    · rw [if_neg (not_not.mpr hs), if_neg (Nat.not_le.mpr hl), Served.answers_mk]
      have hroster := State.closeHolders_roster a.holders s
      have hcabins := State.closeHolders_cabins a.holders s hg
      obtain ⟨r, k, e⟩ := State.closeHolders_frame s a.holders
      rw [e] at hroster hcabins
      refine ⟨r, k, ?_, hroster, hcabins⟩
      rw [State.closeAccount, e]
      rfl
  · rw [exec_takeClosure h]
    simp [serveTakeClosure, h0]
  · rw [exec_takeClosure h]
    simp only [serveTakeClosure, hx, Served.answers_mk]

end Sys2Proof.Machine
end

section
/-! PROOFS. The state a cold start leaves (10 R178; 00 section 4). -/

namespace Sys2Proof.Machine

variable {s : State}

theorem ledgerOk_empty (ha : s.accounts = []) (hl : s.log = []) : s.ledgerOk := by
  refine ⟨fun i a hfa => ?_, fun e he => ?_⟩
  · rw [ha] at hfa; cases hfa
  · rw [hl] at he; cases he

/-- The tariff of a cold start is in range, its 128 equal discounts among it (03 R52). -/
theorem cold_inRange : Tariff.cold.inRange = true := by
  have discounts : (List.replicate 128 0).all (fun d => decide (d ≤ 10000)) = true :=
    List.all_eq_true.mpr (fun d hd => by rw [List.eq_of_mem_replicate hd]; rfl)
  rw [Tariff.inRange, show Tariff.cold.discounts = List.replicate 128 0 from rfl, discounts, List.length_replicate]
  decide

/-- The options and the tariff of a cold start are in range; no tariff is pending, and nothing is saved (03 R52, 10
R178, R180). -/
theorem settingsOk_reset : State.reset.settingsOk = true := by
  have options : State.reset.options.inRange = true := by decide
  have tariff : State.reset.tariff.inRange = true := cold_inRange
  rw [State.settingsOk, options, tariff]
  rfl

/-- Settles O2: the fields of the reset state, and each of its four ports and lanes. -/
theorem resetValues : Obligations.ResetValues := by
  refine ⟨rfl, rfl, rfl, rfl, rfl, rfl, rfl, rfl, rfl, rfl, rfl, rfl, rfl, rfl, rfl, rfl, rfl, rfl, rfl, rfl, rfl, rfl,
    rfl, rfl, rfl, rfl, rfl, rfl, rfl, rfl, rfl, rfl, fun p => ?_, fun l => ?_⟩
  · cases p <;> exact ⟨rfl, rfl, rfl, rfl, rfl, rfl⟩
  · cases l <;> rfl

/-- Settles O3: with empty tables and an empty log each law of the records holds, and the checks of ports, lanes, clock
and settings evaluate. -/
theorem resetMeetsTheInvariants : Obligations.ResetMeetsTheInvariants := by
  refine ⟨by decide, by decide, by decide, by decide, by decide, by decide, by decide, by decide, by decide, by decide,
    by decide, settingsOk_reset, grantsOk_empty rfl rfl, foliosOk_empty rfl rfl rfl, holdsOk_empty rfl rfl rfl,
    ledgerOk_empty rfl rfl, amountsOk_empty rfl rfl⟩

end Sys2Proof.Machine
end

section
/-! PROOFS. LOCK REPORT, the unlock deadline, the cabin history and the privacy flag (02 R40 to R49; 09 R176). -/

namespace Sys2Proof.Machine

variable {s : State} {p : Port} {tag : Byte}

/-! ## From a command of the Access Decision Unit to its rule -/

theorem exec_accessQuery (h : s.readyAs p .access) (card : BitVec 32) (gen : Byte) (cabin : BitVec 16) :
    exec (.accessQuery p tag card gen cabin) s = (serveAccessQuery p card gen cabin s).answers p 0x30#8 tag :=
  submit_owned h rfl rfl nofun

theorem exec_lockReport (h : s.readyAs p .access) (cabin token : BitVec 16) (outcome : Byte) :
    exec (.lockReport p tag cabin token outcome) s = (serveLockReport cabin token outcome s).answers p 0x31#8 tag :=
  submit_owned h rfl rfl nofun

theorem exec_privacySet (h : s.readyAs p .access) (cabin : BitVec 16) :
    exec (.privacySet p tag cabin) s = (servePrivacySet cabin s).answers p 0x32#8 tag :=
  submit_owned h rfl rfl nofun

theorem exec_privacyClear (h : s.readyAs p .access) (cabin : BitVec 16) :
    exec (.privacyClear p tag cabin) s = (servePrivacyClear cabin s).answers p 0x33#8 tag :=
  submit_owned h rfl rfl nofun

theorem exec_unlockDeadline (slot : BitVec 16) : exec (.unlockDeadline slot) s = .next (s.expireUnlock slot.toNat) :=
  rfl

/-! ## The history and its windows (02 R49, 09 R176) -/

theorem pushEvent_of_lt {l : List HistoryEvent} (h : l.length < 8) (e : HistoryEvent) : pushEvent l e = l ++ [e] :=
  if_pos h

theorem pushEvent_of_le {l : List HistoryEvent} (h : 8 ≤ l.length) (e : HistoryEvent) :
    pushEvent l e = l.drop 1 ++ [e] :=
  if_neg (Nat.not_lt.mpr h)

/-- An event joins the history of its cabin. -/
theorem State.addEvent_fetch_same {slot : Nat} {k : Cabin} (hk : s.cabins.fetch slot = some k) (card : Nat)
    (r : HistoryResult) : (s.addEvent slot card r).cabins.fetch slot =
      some { k with history := pushEvent k.history { time := s.shipTime, card := card, result := r } } := by
  rw [State.addEvent, State.mapWindows_cabins, Table.fetch_modify, if_pos rfl, hk, Option.map_some]

/-- An event leaves every other cabin. -/
theorem State.addEvent_fetch_ne {slot other : Nat} (h : other ≠ slot) (card : Nat) (r : HistoryResult) :
    (s.addEvent slot card r).cabins.fetch other = s.cabins.fetch other := by
  rw [State.addEvent, State.mapWindows_cabins, Table.fetch_modify, if_neg h]

/-- An event reaches a port in its window alone. -/
theorem State.addEvent_get (slot card : Nat) (r : HistoryResult) (p : Port) : (s.addEvent slot card r).ports.get p =
    { s.ports.get p with window := (s.ports.get p).window.map (Window.eventAdded slot) } :=
  State.mapWindows_get _ _ p

theorem Window.eventAdded_history (slot number start : Nat) (ending : Option Nat) (cursor added : Nat) (gone : Bool) :
    Window.eventAdded slot (.history number slot start ending cursor added gone) =
      .history number slot start ending cursor (added + 1) gone := by
  simp [Window.eventAdded]

/-- An event leaves a window on another cabin, and a window on no history. -/
theorem Window.eventAdded_of_not_history {slot : Nat} {w : Window} (h : ∀ number start ending cursor added gone,
    w ≠ .history number slot start ending cursor added gone) : Window.eventAdded slot w = w := by
  cases w with
  | history number k start ending cursor added gone =>
    have hk : k ≠ slot := by rintro rfl; exact h _ _ _ _ _ _ rfl
    simp [Window.eventAdded, hk]
  | chain => rfl
  | missing => rfl
  | closures => rfl

/-! ## LOCK REPORT (02 R40 to R42) -/

/-- Outcomes other than 1 to 3 have no meaning. -/
theorem lockOutcome_eq_none {outcome : Byte} (h : outcome.toNat = 0 ∨ 3 < outcome.toNat) :
    lockOutcome outcome = none := by
  unfold lockOutcome
  split
  · omega
  · omega
  · omega
  · rfl

/-- What a LOCK REPORT leaves once its entry is dealt with: the jam of a JAMMED outcome, and the blocked value it
leaves in the response (02 R42). -/
def State.jamAnswer (s : State) (outcome : HistoryResult) (r : Result) (slot : Nat) (k : Cabin) (token : Nat) :
    Served :=
  (s.jamIf outcome slot k.number token, Reply.of r (u8 (blockedAfter outcome k).code))

theorem State.jamAnswer_answers (s : State) (outcome : HistoryResult) (r : Result) (slot : Nat) (k : Cabin)
    (token : Nat) (p : Port) (code tag : Byte) :
    (outcome ≠ .jammed → (s.jamAnswer outcome r slot k token).answers p code tag =
      .next (s.answered p code tag (Reply.of r (u8 k.blocked.code)))) ∧
    (outcome = .jammed → (s.jamAnswer outcome r slot k token).answers p code tag =
      .next ((s.jam slot k.number token).answered p code tag (Reply.of r (u8 2)))) := by
  refine ⟨fun hj => ?_, ?_⟩
  · rw [State.jamAnswer, State.jamIf, blockedAfter, if_neg hj, if_neg hj, Served.answers_mk]
  · rintro rfl
    rfl

section

variable {cabin token : BitVec 16} {outcome : Byte} {result : HistoryResult} {slot : Nat} {k : Cabin} {u : Unlock}

/-- A report with the token of the pending entry ends the entry. -/
theorem serveLockReport_matched (hr : lockOutcome outcome = some result)
    (hk : s.findCabin cabin.toNat = some (slot, k)) (hu : s.unlockOf slot = some u) (ht : u.token = token.toNat) :
    serveLockReport cabin token outcome s =
      ((s.dropUnlock slot).addEvent slot ((s.cardNumber u.holder).getD 0) result).jamAnswer result .ok slot k
        token.toNat := by
  simp only [serveLockReport, hr, hk, hu, ht, if_true]
  rfl

/-- A report with another token leaves the entry. -/
theorem serveLockReport_mismatch (hr : lockOutcome outcome = some result)
    (hk : s.findCabin cabin.toNat = some (slot, k)) (hu : s.unlockOf slot = some u) (ht : u.token ≠ token.toNat) :
    serveLockReport cabin token outcome s = s.jamAnswer result .tokenMismatch slot k token.toNat := by
  simp only [serveLockReport, hr, hk, hu, ht, if_false]
  rfl

/-- A report on a cabin with no pending entry is late. -/
theorem serveLockReport_late (hr : lockOutcome outcome = some result)
    (hk : s.findCabin cabin.toNat = some (slot, k)) (hu : s.unlockOf slot = none) :
    serveLockReport cabin token outcome s = s.jamAnswer result .late slot k token.toNat := by
  simp only [serveLockReport, hr, hk, hu]
  rfl

end

/-! ## The unlock deadline (02 R43) -/

theorem State.expireUnlock_none {slot : Nat} (hu : s.unlockOf slot = none) : s.expireUnlock slot = s := by
  simp only [State.expireUnlock, hu]

theorem State.expireUnlock_some {slot : Nat} {u : Unlock} {k : Cabin} (hu : s.unlockOf slot = some u)
    (hk : s.cabins.fetch slot = some k) : s.expireUnlock slot =
      (((s.reach u.deadline).dropUnlock slot).addEvent slot ((s.cardNumber u.holder).getD 0) .unconfirmed).raiseTo
        u.port .accessUnconfirmed (some (.cabin k.number)) (some (u.token : Int)) := by
  simp only [State.expireUnlock, hu, hk, Option.map_some, Option.getD_some]

/-- Settles O29: an event in the tables and windows, a report by the entry found, and the end of an entry at its
deadline. -/
theorem unlocksEnd : Obligations.UnlocksEnd := by
  refine ⟨fun s slot card r => ⟨fun k hk => ⟨fun hl => ?_, fun hl => ?_⟩,
      fun other hne => State.addEvent_fetch_ne hne card r, rfl, fun p => ⟨?_, fun hw => ?_, fun _ _ _ _ _ _ hw => ?_,
      fun w hw hno => ?_⟩⟩,
    fun s p tag cabin token outcome h => ⟨fun hb => ?_, fun result hr => ⟨fun hf => ?_, fun slot k hk =>
      ⟨fun u hu ht => ?_, fun u hu ht => ?_, fun hu => ?_⟩⟩⟩,
    fun _ _ _ _ => rfl, fun s slot => ⟨fun hu => ?_, fun u k hu hk => ?_⟩⟩
  · rw [State.addEvent_fetch_same hk, pushEvent_of_lt hl]
  · rw [State.addEvent_fetch_same hk, pushEvent_of_le hl]
  · rw [State.addEvent_get]
  · rw [State.addEvent_get, hw, Option.map_none]
  · rw [State.addEvent_get, hw, Option.map_some, Window.eventAdded_history]
  · rw [State.addEvent_get, hw, Option.map_some, Window.eventAdded_of_not_history hno]
  · rw [exec_lockReport h]
    simp only [serveLockReport, lockOutcome_eq_none hb, Served.answers_mk]
  · rw [exec_lockReport h]
    simp only [serveLockReport, hr, hf, Served.answers_mk]
  · rw [exec_lockReport h, serveLockReport_matched hr hk hu ht]
    obtain ⟨plain, jammed⟩ := State.jamAnswer_answers
      ((s.dropUnlock slot).addEvent slot ((s.cardNumber u.holder).getD 0) result) result .ok slot k token.toNat p
      0x31#8 tag
    refine ⟨plain, ?_⟩
    rintro rfl
    exact jammed rfl
  · rw [exec_lockReport h, serveLockReport_mismatch hr hk hu ht]
    exact s.jamAnswer_answers result .tokenMismatch slot k token.toNat p 0x31#8 tag
  · rw [exec_lockReport h, serveLockReport_late hr hk hu]
    exact s.jamAnswer_answers result .late slot k token.toNat p 0x31#8 tag
  · rw [exec_unlockDeadline, State.expireUnlock_none hu]
  · rw [exec_unlockDeadline, State.expireUnlock_some hu hk, State.reach, State.dropUnlock]

/-! ## Privacy (02 R46, R47) -/

/-- Settles O30: both requests by the cabin found and its grantees. -/
theorem privacyFlag : Obligations.PrivacyFlag := by
  intro s p tag cabin h
  rw [exec_privacySet h, exec_privacyClear h]
  refine ⟨fun hf => ?_, fun slot k hf => ⟨fun hg => ?_, fun hg => ?_, ?_⟩⟩
  · simp only [servePrivacySet, servePrivacyClear, hf, Served.answers_mk, and_self]
  · simp only [servePrivacySet, hf, hg, if_true, Served.answers_mk]
  · simp only [servePrivacySet, hf, hg, if_false]
    rfl
  · simp only [servePrivacyClear, hf]
    rfl

end Sys2Proof.Machine
end

section
/-! PROOFS. The decision of an ACCESS QUERY: granted or denied, with what each leaves (02 R31 to R38). -/

namespace Sys2Proof.Machine

variable {s : State} {p : Port} {tag : Byte} {card : BitVec 32} {gen : Byte} {cabin : BitVec 16}
  {slot kslot : Nat} {c : Cardholder} {k : Cabin} {v : AccessVerdict}

/-! ## The checks of a kind (02 R34, R35) -/

theorem kindRefusal_staff (h : c.kind = .staff) : kindRefusal c kslot k = staffRefusal c k := by
  rw [kindRefusal, h]

theorem kindRefusal_guest (h : c.kind ≠ .staff) : kindRefusal c kslot k = guestRefusal c kslot k := by
  unfold kindRefusal
  split
  · exact absurd ‹_› h
  · rfl
  · rfl

/-- The checks of R34, in order. -/
theorem guestRefusal_facts (c : Cardholder) (kslot : Nat) (k : Cabin) :
    (k.blocked ≠ .none → guestRefusal c kslot k = some .denyBlocked) ∧
    (k.blocked = .none → kslot ∉ c.cabins → guestRefusal c kslot k = some .denyNotGranted) ∧
    (k.blocked = .none → kslot ∈ c.cabins → c.presence ≠ some .aboard →
      guestRefusal c kslot k = some .denyPresence) ∧
    (k.blocked = .none → kslot ∈ c.cabins → c.presence = some .aboard → guestRefusal c kslot k = none) := by
  refine ⟨fun hb => ?_, fun hb hc => ?_, fun hb hc hp => ?_, fun hb hc hp => ?_⟩
  · rw [guestRefusal, if_pos hb]
  · rw [guestRefusal, if_neg (not_not.mpr hb), if_pos hc]
  · rw [guestRefusal, if_neg (not_not.mpr hb), if_neg (not_not.mpr hc), if_pos hp]
  · rw [guestRefusal, if_neg (not_not.mpr hb), if_neg (not_not.mpr hc), if_neg (not_not.mpr hp)]

/-- The checks of R35, in order. -/
theorem staffRefusal_facts (c : Cardholder) (k : Cabin) :
    (hasDeck c.deckMask k.deck = false → staffRefusal c k = some .denyNotGranted) ∧
    (hasDeck c.deckMask k.deck = true → k.privacy = true → staffRefusal c k = some .denyPrivacy) ∧
    (hasDeck c.deckMask k.deck = true → k.privacy = false → staffRefusal c k = none) := by
  refine ⟨fun hd => ?_, fun hd hp => ?_, fun hd hp => ?_⟩
  · simp only [staffRefusal, hd, if_true]
  · simp only [staffRefusal, hd, hp, Bool.true_eq_false, if_false, if_true]
  · simp only [staffRefusal, hd, hp, Bool.true_eq_false, Bool.false_eq_true, if_false]

/-- A cardholder that meets the conditions of R34 or R35 passes the checks of its kind. -/
theorem kindRefusal_passes
    (h : (c.kind ≠ .staff ∧ k.blocked = .none ∧ kslot ∈ c.cabins ∧ c.presence = some .aboard) ∨
      (c.kind = .staff ∧ hasDeck c.deckMask k.deck = true ∧ k.privacy = false)) : kindRefusal c kslot k = none := by
  rcases h with ⟨hk, hb, hc, hp⟩ | ⟨hk, hd, hp⟩
  · obtain ⟨-, -, -, passes⟩ := guestRefusal_facts c kslot k
    rw [kindRefusal_guest hk, passes hb hc hp]
  · obtain ⟨-, -, passes⟩ := staffRefusal_facts c k
    rw [kindRefusal_staff hk, passes hd hp]

/-! ## The verdict (02 R33, R36) -/

variable {g n : Nat}

theorem State.accessVerdict_superseded (h : g < c.gen) : s.accessVerdict slot c g n = .denySuperseded := by
  simp only [State.accessVerdict, h, if_true]

theorem State.accessVerdict_genAhead (h : c.gen < g) : s.accessVerdict slot c g n = .denyGenAhead := by
  simp only [State.accessVerdict, Nat.lt_asymm h, h, if_true, if_false]

theorem State.accessVerdict_suspended (hg : c.gen = g) (hs : c.state = .suspended) :
    s.accessVerdict slot c g n = .denySuspended := by
  simp only [State.accessVerdict, hg, hs, Nat.lt_irrefl, if_false]

theorem State.accessVerdict_closed (hg : c.gen = g) (hs : c.state = .closed) :
    s.accessVerdict slot c g n = .denyClosed := by
  simp only [State.accessVerdict, hg, hs, Nat.lt_irrefl, if_false]

theorem State.accessVerdict_noCabin (hg : c.gen = g) (hs : c.state = .active) (hk : s.findCabin n = none) :
    s.accessVerdict slot c g n = .denyNoCabin := by
  simp only [State.accessVerdict, hg, hs, hk, Nat.lt_irrefl, if_false]

theorem State.accessVerdict_refused (hg : c.gen = g) (hs : c.state = .active)
    (hk : s.findCabin n = some (kslot, k)) (hv : kindRefusal c kslot k = some v) :
    s.accessVerdict slot c g n = v := by
  simp only [State.accessVerdict, hg, hs, hk, hv, Nat.lt_irrefl, if_false]

theorem State.accessVerdict_passes (hg : c.gen = g) (hs : c.state = .active)
    (hk : s.findCabin n = some (kslot, k)) (hv : kindRefusal c kslot k = none) :
    s.accessVerdict slot c g n = s.pendingCheck slot kslot := by
  simp only [State.accessVerdict, hg, hs, hk, hv, Nat.lt_irrefl, if_false]

/-- The pending unlock check: GRANT for a new entry with a place in the list or for the holder's own entry, BUSY
otherwise. -/
theorem State.pendingCheck_facts (s : State) (slot kslot : Nat) :
    (s.unlockOf kslot = none → s.unlocks.length < 64 → s.pendingCheck slot kslot = .grant) ∧
    (∀ u, s.unlockOf kslot = some u → u.holder = slot → s.pendingCheck slot kslot = .grant) ∧
    ((s.unlockOf kslot = none ∧ 64 ≤ s.unlocks.length) ∨ (∃ u, s.unlockOf kslot = some u ∧ u.holder ≠ slot) →
      s.pendingCheck slot kslot = .denyBusy) := by
  refine ⟨fun hu hl => ?_, fun u hu ho => ?_, ?_⟩
  · simp only [State.pendingCheck, hu, Config.unlockPlaces, hl, if_true]
  · simp only [State.pendingCheck, hu, ho, if_true]
  · rintro (⟨hu, hl⟩ | ⟨u, hu, ho⟩)
    · simp only [State.pendingCheck, hu, Config.unlockPlaces, Nat.not_lt.mpr hl, if_false]
    · simp only [State.pendingCheck, hu, ho, if_false]

/-! ## Grants (02 R31, R36) -/

theorem serveAccessQuery_new (hc : s.findCard card.toNat = some (slot, c))
    (hk : s.findCabin cabin.toNat = some (kslot, k)) (hv : s.accessVerdict slot c gen.toNat cabin.toNat = .grant)
    (hu : s.unlockOf kslot = none) : serveAccessQuery p card gen cabin s =
      (s.newUnlock p slot kslot, accessReply .grant (some (s.grantFields s.nextToken false)) (some c)) := by
  simp only [serveAccessQuery, hc, hv, hk, hu, if_true]

theorem serveAccessQuery_regrant {u : Unlock} (hc : s.findCard card.toNat = some (slot, c))
    (hk : s.findCabin cabin.toNat = some (kslot, k)) (hv : s.accessVerdict slot c gen.toNat cabin.toNat = .grant)
    (hu : s.unlockOf kslot = some u) : serveAccessQuery p card gen cabin s =
      (s.regrant p kslot, accessReply .grant (some (s.grantFields u.token true)) (some c)) := by
  simp only [serveAccessQuery, hc, hv, hk, hu, if_true]

/-- The response to a GRANT of an ACTIVE cardholder. -/
theorem accessReply_grant (hs : c.state = .active) (fields : List Byte) :
    accessReply .grant (some fields) (some c) =
      Reply.ok (u8 0 ++ (0x01#8 :: fields) ++ (0x01#8 :: (u8 c.kind.code ++ u8 1))) := by
  simp only [accessReply, optional, hs]
  rfl

/-! ## Denials (02 R33 to R38) -/

theorem serveAccessQuery_denied (hc : s.findCard card.toNat = some (slot, c))
    (hv : s.accessVerdict slot c gen.toNat cabin.toNat = v) (hg : v ≠ .grant) :
    serveAccessQuery p card gen cabin s =
      ((s.denialEvent card.toNat cabin.toNat v).sideReport slot c v, denial v c) := by
  simp only [serveAccessQuery, hc, hv, hg, if_false]
  rfl

theorem State.denialEvent_noCabin (hk : s.findCabin n = none) (card : Nat) : s.denialEvent card n v = s := by
  unfold State.denialEvent
  split
  · rfl
  · rfl
  · rfl
  · rw [hk]

/-- A denial with an event of its own enters the history of the cabin found (02 R38). -/
theorem State.denialEvent_atCabin (hk : s.findCabin n = some (kslot, k))
    (hv : v ∉ [.grant, .denyUnknown, .denyNoCabin]) (card : Nat) :
    s.denialEvent card n v = s.addEvent kslot card (.denied v) := by
  unfold State.denialEvent
  split
  · exact absurd (by decide) hv
  · exact absurd (by decide) hv
  · exact absurd (by decide) hv
  · rw [hk]

/-- The step of a denial at a cabin that is not defined: the side report alone. -/
theorem exec_denied_noCabin (h : s.readyAs p .access) (hc : s.findCard card.toNat = some (slot, c))
    (hk : s.findCabin cabin.toNat = none) (hv : s.accessVerdict slot c gen.toNat cabin.toNat = v)
    (hg : v ≠ .grant) : exec (.accessQuery p tag card gen cabin) s =
      .next ((s.sideReport slot c v).answered p 0x30#8 tag (denial v c)) := by
  rw [exec_accessQuery h, serveAccessQuery_denied hc hv hg, State.denialEvent_noCabin hk, Served.answers_mk]

/-- The step of a denial at a cabin found: its history event, then its side report. -/
theorem exec_denied_atCabin (h : s.readyAs p .access) (hc : s.findCard card.toNat = some (slot, c))
    (hk : s.findCabin cabin.toNat = some (kslot, k)) (hv : s.accessVerdict slot c gen.toNat cabin.toNat = v)
    (hg : v ∉ [.grant, .denyUnknown, .denyNoCabin]) : exec (.accessQuery p tag card gen cabin) s =
      .next (((s.addEvent kslot card.toNat (.denied v)).sideReport slot c v).answered p 0x30#8 tag (denial v c)) := by
  have hne : v ≠ .grant := List.ne_of_not_mem_cons hg
  rw [exec_accessQuery h, serveAccessQuery_denied hc hv hne, State.denialEvent_atCabin hk hg, Served.answers_mk]

/-- Settles O27: the card passes its checks, and the pending unlock check decides. -/
theorem unlocksGranted : Obligations.UnlocksGranted := by
  intro s p tag card gen cabin slot c kslot k h hc hk hg hs hpass
  have hv := State.accessVerdict_passes (slot := slot) hg hs hk (kindRefusal_passes hpass)
  obtain ⟨hnew, hagain, hbusy⟩ := s.pendingCheck_facts slot kslot
  refine ⟨fun hu hl => ?_, fun u hu ho => ?_, fun hb => ?_⟩
  · rw [exec_accessQuery h, serveAccessQuery_new hc hk (hv.trans (hnew hu hl)) hu, accessReply_grant hs,
      Served.answers_mk]
    rfl
  · rw [exec_accessQuery h, serveAccessQuery_regrant hc hk (hv.trans (hagain u hu ho)) hu, accessReply_grant hs,
      Served.answers_mk]
    rfl
  · rw [exec_denied_atCabin h hc hk (hv.trans (hbusy hb)) (by decide), denial, hs]
    rfl

/-- Settles O28: the verdict of each check in order, and the step of a denial with that verdict. -/
theorem unlocksDenied : Obligations.UnlocksDenied := by
  intro s p tag card gen cabin h
  refine ⟨fun hc => ?_, fun slot c hc => ⟨fun hk => ?_, fun kslot k hk => ?_⟩⟩
  · rw [exec_accessQuery h]
    simp only [serveAccessQuery, hc]
    rfl
  · have denied {v : AccessVerdict} := exec_denied_noCabin (tag := tag) (gen := gen) (v := v) h hc hk
    exact ⟨fun hg => denied (State.accessVerdict_superseded hg) nofun,
      fun hg => denied (State.accessVerdict_genAhead hg) nofun,
      fun hg hs => denied (State.accessVerdict_suspended hg hs) nofun,
      fun hg hs => denied (State.accessVerdict_closed hg hs) nofun,
      fun hg hs => denied (State.accessVerdict_noCabin hg hs hk) nofun⟩
  · have denied {v : AccessVerdict} := exec_denied_atCabin (tag := tag) (gen := gen) (v := v) h hc hk
    refine ⟨fun hg => denied (State.accessVerdict_superseded hg) (by decide),
      fun hg => denied (State.accessVerdict_genAhead hg) (by decide),
      fun hg => ⟨fun hs => denied (State.accessVerdict_suspended hg hs) (by decide),
        fun hs => denied (State.accessVerdict_closed hg hs) (by decide), fun hs hkind => ?_, fun hs hkind => ?_⟩⟩
    · have refused {v : AccessVerdict} (hv : guestRefusal c kslot k = some v) :=
        State.accessVerdict_refused (slot := slot) hg hs hk ((kindRefusal_guest hkind).trans hv)
      obtain ⟨blocked, ungranted, away, -⟩ := guestRefusal_facts c kslot k
      exact ⟨fun hb => denied (refused (blocked hb)) (by decide),
        fun hb hin => denied (refused (ungranted hb hin)) (by decide),
        fun hb hin hp => denied (refused (away hb hin hp)) (by decide)⟩
    · have refused {v : AccessVerdict} (hv : staffRefusal c k = some v) :=
        State.accessVerdict_refused (slot := slot) hg hs hk ((kindRefusal_staff hkind).trans hv)
      obtain ⟨noDeck, privacy, -⟩ := staffRefusal_facts c k
      exact ⟨fun hd => denied (refused (noDeck hd)) (by decide),
        fun hd hp => denied (refused (privacy hd hp)) (by decide)⟩

end Sys2Proof.Machine
end

section
/-! PROOFS. ClockAndSettingsStayInRange: what each request and each event does to ship time, the next rollover and the
settings (08 R151, R159; 10 R178 to R185). -/

namespace Sys2Proof.Machine

variable {s t : State}

/-! ## The clock and the settings of a state -/

/-- The part of a state that the invariants of the clock and of the settings speak of. -/
structure ClockSettings where
  shipTime : Nat
  nextRollover : Nat
  options : Options
  tariff : Tariff
  pendingTariff : Option Tariff
  image : Option Settings
  store : Store

def State.clockSettings (s : State) : ClockSettings :=
  { shipTime := s.shipTime, nextRollover := s.nextRollover, options := s.options, tariff := s.tariff,
    pendingTariff := s.pendingTariff, image := s.image, store := s.store }

theorem State.clockOk_iff : s.clockOk = true ↔
    s.shipTime ≤ 4294967295 ∧ s.nextRollover = nextRolloverAfter s.shipTime s.options.rolloverHour := by
  simp [State.clockOk]

theorem State.settingsOk_iff : s.settingsOk = true ↔
    s.options.inRange = true ∧ s.tariff.inRange = true ∧ (∀ t, s.pendingTariff = some t → t.inRange = true) ∧
      (∀ x, s.image = some x → x.inRange = true) ∧ s.store.inRange = true := by
  simp only [State.settingsOk, Bool.and_eq_true, Option.all_eq_true, and_assoc]

theorem Settings.inRange_iff {x : Settings} :
    x.inRange = true ↔ x.options.inRange = true ∧ x.tariff.inRange = true := by
  simp only [Settings.inRange, Bool.and_eq_true]

theorem Options.inRange_iff {o : Options} : o.inRange = true ↔
    2 ≤ o.unlockDeadline ∧ o.unlockDeadline ≤ 30 ∧ 60 ≤ o.holdLifetime ∧ o.holdLifetime ≤ 86400 ∧
      o.voidWindow ≤ 3600 ∧ o.escortWindow ≤ 900 ∧ o.threshold ≤ 15 ∧ o.rolloverHour ≤ 23 := by
  simp only [Options.inRange, Bool.and_eq_true, decide_eq_true_eq, and_assoc]

theorem Tariff.inRange_iff {t : Tariff} : t.inRange = true ↔
    t.rates.length = 8 ∧ (∀ r ∈ t.rates, r ≤ 2500) ∧ t.discounts.length = 128 ∧ (∀ d ∈ t.discounts, d ≤ 10000) ∧
      t.adultBase ≤ 50000000 ∧ t.minorBase ≤ 50000000 ∧ t.capStep ≤ 1000000 ∧ t.capCeiling ≤ 50000000 ∧
      t.capFloor ≤ t.capCeiling := by
  simp only [Tariff.inRange, Bool.and_eq_true, beq_iff_eq, List.all_eq_true, decide_eq_true_eq, Config.capMax,
    and_assoc]

/-! ## Steps that keep both laws -/

/-- From `s` to `t` the law of the clock is kept, and so is the law of the settings. -/
structure KeepsInRange (s t : State) : Prop where
  clock : s.clockOk = true → t.clockOk = true
  settings : s.settingsOk = true → t.settingsOk = true

theorem KeepsInRange.refl (s : State) : KeepsInRange s s := ⟨id, id⟩

theorem KeepsInRange.trans {u : State} (h : KeepsInRange s t) (k : KeepsInRange t u) : KeepsInRange s u :=
  ⟨k.clock ∘ h.clock, k.settings ∘ h.settings⟩

/-- Neither law reads any other field. -/
theorem KeepsInRange.of_same (h : t.clockSettings = s.clockSettings) : KeepsInRange s t := by
  simp only [State.clockSettings, ClockSettings.mk.injEq] at h
  obtain ⟨h1, h2, h3, h4, h5, h6, h7⟩ := h
  constructor
  · rw [State.clockOk, State.clockOk, h1, h2, h3]; exact id
  · rw [State.settingsOk, State.settingsOk, h3, h4, h5, h6, h7]; exact id

theorem KeepsInRange.of_frame {u : State} (e : t = u) (h : u.clockSettings = s.clockSettings) : KeepsInRange s t := by
  rw [e]; exact .of_same h

theorem KeepsInRange.of_eq (h : t = s) : KeepsInRange s t := .of_frame h rfl

/-! ## The clock (chapter 8) -/

/-- Short of the next rollover, a later ship time has the same one (08 R159). -/
theorem nextRolloverAfter_of_lt {now time hour : Nat} (hle : now ≤ time) (h : time < nextRolloverAfter now hour) :
    nextRolloverAfter time hour = nextRolloverAfter now hour := by
  simp only [nextRolloverAfter, Config.daySeconds] at h ⊢
  split at h
  · rw [if_pos h, if_pos ‹_›]
  · rw [if_neg (by omega), if_neg ‹_›]; omega

/-- Whole days from the next rollover on, as many as ship time has reached, give the one after it (08 R159). -/
theorem nextRolloverAfter_of_le {now time hour : Nat} (h : nextRolloverAfter now hour ≤ time) :
    nextRolloverAfter time hour =
      nextRolloverAfter now hour + rolloversBy time (nextRolloverAfter now hour) * 86400 := by
  rw [rolloversBy, if_neg (Nat.not_lt.mpr h)]
  simp only [nextRolloverAfter, Config.daySeconds] at h ⊢
  split at h
  · rw [if_neg (by omega), if_pos ‹_›]; omega
  · rw [if_neg (by omega), if_neg ‹_›]; omega

theorem rolloversBy_eq_zero {time next : Nat} : rolloversBy time next = 0 ↔ time < next := by
  unfold rolloversBy
  split
  · exact iff_of_true rfl ‹_›
  · exact iff_of_false (Nat.succ_ne_zero _) ‹_›

/-- An advance short of the next rollover moves ship time alone; one that reaches it makes the rollovers (08 R159). -/
theorem State.advanceTo_clockSettings (s : State) (time : Nat) : (s.advanceTo time).clockSettings =
    if time < s.nextRollover then { s.clockSettings with shipTime := time }
    else { s.clockSettings with
      shipTime := time
      nextRollover := s.nextRollover + rolloversBy time s.nextRollover * 86400
      tariff := s.pendingTariff.getD s.tariff
      pendingTariff := none } := by
  simp only [State.advanceTo, rolloversBy_eq_zero]
  split <;> rfl

/-- The pending tariff, where there is one, else the current tariff (03 R53, 10 R182). -/
theorem pendingOrCurrent_inRange (h : s.settingsOk = true) : (s.pendingTariff.getD s.tariff).inRange = true := by
  obtain ⟨-, ht, hp, -⟩ := State.settingsOk_iff.mp h
  cases hs : s.pendingTariff with
  | none => exact ht
  | some t => exact hp t hs

/-- A rollover reached makes the pending tariff current, and finds the rollover after it (08 R159, R160). -/
theorem advanceTo_keepsInRange {time : Nat} (hle : s.shipTime ≤ time) (hmax : time ≤ 4294967295) :
    KeepsInRange s (s.advanceTo time) := by
  have view := s.advanceTo_clockSettings time
  split at view
  case isTrue hlt =>
    simp only [State.clockSettings, ClockSettings.mk.injEq] at view
    obtain ⟨htime, hnext, hopt, htar, hpend, himg, hstore⟩ := view
    refine ⟨fun h => ?_, fun h => ?_⟩
    · obtain ⟨-, hroll⟩ := State.clockOk_iff.mp h
      rw [State.clockOk_iff, htime, hnext, hopt]
      rw [hroll] at hlt ⊢
      exact ⟨hmax, (nextRolloverAfter_of_lt hle hlt).symm⟩
    · rw [State.settingsOk_iff, hopt, htar, hpend, himg, hstore]
      exact State.settingsOk_iff.mp h
  case isFalse hge =>
    simp only [State.clockSettings, ClockSettings.mk.injEq] at view
    obtain ⟨htime, hnext, hopt, htar, hpend, himg, hstore⟩ := view
    refine ⟨fun h => ?_, fun h => ?_⟩
    · obtain ⟨-, hroll⟩ := State.clockOk_iff.mp h
      rw [State.clockOk_iff, htime, hnext, hopt]
      rw [hroll] at hge ⊢
      exact ⟨hmax, (nextRolloverAfter_of_le (Nat.le_of_not_lt hge)).symm⟩
    · obtain ⟨ho, -, -, hi, hs⟩ := State.settingsOk_iff.mp h
      rw [State.settingsOk_iff, hopt, htar, hpend, himg, hstore]
      exact ⟨ho, pendingOrCurrent_inRange h, nofun, hi, hs⟩

theorem advance_keepsInRange (s : State) : KeepsInRange s s.advance := by
  unfold State.advance
  split
  · exact advanceTo_keepsInRange (Nat.le_succ _) ‹_›
  · exact .refl s

theorem takeTick_keepsInRange (s : State) : KeepsInRange s s.takeTick := by
  refine (advance_keepsInRange s).trans ?_
  unfold State.takeTick
  split <;> exact .of_same rfl

theorem loseTick_keepsInRange (s : State) : KeepsInRange s s.loseTick := by
  unfold State.loseTick
  split
  · exact .refl s
  · exact ((KeepsInRange.of_same rfl : KeepsInRange s (s.reach _)).trans (advance_keepsInRange _)).trans (.of_same rfl)

theorem takeSecond_keepsInRange (s : State) : KeepsInRange s s.takeSecond := by
  unfold State.takeSecond
  split
  · exact .refl s
  · exact ((KeepsInRange.of_same rfl : KeepsInRange s (s.reach _)).trans (advance_keepsInRange _)).trans (.of_same rfl)

theorem serveSetTime_keepsInRange (time : BitVec 32) (s : State) : KeepsInRange s (serveSetTime time s).1 := by
  rcases serveSetTime_cases time s with e | ⟨hlt, -, e⟩ <;> rw [e]
  · exact .refl s
  · exact advanceTo_keepsInRange (Nat.le_of_not_lt hlt) (Nat.le_of_lt_succ time.isLt)

/-! ## Options and tariffs (10 R178, R179; 11 R192) -/

/-- New options have the next rollover recomputed with them (08 R161). -/
theorem putOptions_clockOk (o : Options) (h : s.clockOk = true) : (s.putOptions o).clockOk = true :=
  State.clockOk_iff.mpr ⟨(State.clockOk_iff.mp h).1, rfl⟩

theorem bring_range {low high : Nat} (h : low ≤ high) (x : Nat) : low ≤ bring low high x ∧ bring low high x ≤ high := by
  unfold bring
  repeat' split
  all_goals omega

theorem optionsOf_inRange (f : OptionFields) : (optionsOf f).inRange = true := by
  obtain ⟨h1, h2⟩ := bring_range (low := 2) (high := 30) (by decide) f.unlockDeadline.toNat
  obtain ⟨h3, h4⟩ := bring_range (low := 60) (high := 86400) (by decide) f.holdLifetime.toNat
  exact Options.inRange_iff.mpr ⟨h1, h2, h3, h4, (bring_range (Nat.zero_le _) _).2, (bring_range (Nat.zero_le _) _).2,
    (bring_range (Nat.zero_le _) _).2, (bring_range (Nat.zero_le _) _).2⟩

theorem serveSetOptions_keepsInRange (f : OptionFields) (s : State) : KeepsInRange s (serveSetOptions f s).1 := by
  rw [serveSetOptions_state]
  refine ⟨putOptions_clockOk _, fun h => ?_⟩
  obtain ⟨-, rest⟩ := State.settingsOk_iff.mp h
  exact State.settingsOk_iff.mpr ⟨optionsOf_inRange f, rest⟩

theorem rateTo_le {top : Nat} {l : List (BitVec 16)} {r : Nat} (h : r ∈ l.map (rateTo top)) : r ≤ top := by
  obtain ⟨x, -, rfl⟩ := List.mem_map.mp h
  exact Nat.min_le_left _ _

/-- The pending tariff alone is written. -/
theorem setPending_keepsInRange {x : Tariff} (h : s.settingsOk = true → x.inRange = true) :
    KeepsInRange s { s with pendingTariff := some x } := by
  refine ⟨id, fun hs => ?_⟩
  obtain ⟨ho, ht, -, rest⟩ := State.settingsOk_iff.mp hs
  refine State.settingsOk_iff.mpr ⟨ho, ht, fun t e => ?_, rest⟩
  cases e
  exact h hs

/-- A part 1 with whole lists makes a tariff in range, on rows 8 to 15 that are (10 R179). -/
theorem tariffOf_inRange {part : TariffPart1} {current : Tariff} (hw : part.wf = true)
    (hf : (tariffOf part current).capFloor ≤ (tariffOf part current).capCeiling) (hc : current.inRange = true) :
    (tariffOf part current).inRange = true := by
  obtain ⟨hrates, hrows⟩ : part.rates.length = 8 ∧ part.rows.length = 64 := by simpa [TariffPart1.wf] using hw
  obtain ⟨-, -, hlen, hdisc, -⟩ := Tariff.inRange_iff.mp hc
  refine Tariff.inRange_iff.mpr ⟨?_, fun r hr => rateTo_le hr, ?_, fun d hd => ?_, Nat.min_le_left _ _,
    Nat.min_le_left _ _, Nat.min_le_left _ _, Nat.min_le_left _ _, hf⟩
  · simp only [tariffOf, List.length_map, hrates]
  · simp only [tariffOf, List.length_append, List.length_map, List.length_drop, hrows, hlen]
  · rcases List.mem_append.mp hd with hd | hd
    · exact rateTo_le hd
    · exact hdisc d (List.mem_of_mem_drop hd)

theorem serveSetTariff1_keepsInRange (part : TariffPart1) (s : State) : KeepsInRange s (serveSetTariff1 part s).1 := by
  rcases serveSetTariff1_cases part s with e | ⟨hw, hf, e⟩ <;> rw [e]
  · exact .refl s
  · refine setPending_keepsInRange (fun hs => ?_)
    obtain ⟨-, ht, -⟩ := State.settingsOk_iff.mp hs
    exact tariffOf_inRange (eq_true_of_ne_false hw) (Nat.le_of_not_lt hf) ht

/-- Rows 8 to 15 written anew (11 R192). -/
theorem withRows_inRange {t : Tariff} {rows : List (BitVec 16)} (hl : rows.length = 64) (h : t.inRange = true) :
    (t.withRows rows).inRange = true := by
  obtain ⟨hrates, hrate, hlen, hdisc, caps⟩ := Tariff.inRange_iff.mp h
  refine Tariff.inRange_iff.mpr ⟨hrates, hrate, ?_, fun d hd => ?_, caps⟩
  · simp only [Tariff.withRows, List.length_append, List.length_take, List.length_map, hlen, hl]; rfl
  · rcases List.mem_append.mp hd with hd | hd
    · exact hdisc d (List.mem_of_mem_take hd)
    · exact rateTo_le hd

theorem serveSetTariff2_keepsInRange (rows : List (BitVec 16)) (s : State) :
    KeepsInRange s (serveSetTariff2 rows s).1 := by
  rcases serveSetTariff2_cases rows s with e | ⟨t, hl, hp, e⟩ <;> rw [e]
  · exact .refl s
  · refine setPending_keepsInRange (fun hs => ?_)
    obtain ⟨-, -, hpend, -⟩ := State.settingsOk_iff.mp hs
    exact withRows_inRange (not_not.mp hl) (hpend t hp)

/-! ## The settings image and its saves (10 R181 to R183) -/

theorem serveLoadSettings_keepsInRange (s : State) : KeepsInRange s (serveLoadSettings s).1 := by
  rcases serveLoadSettings_cases s with e | ⟨x, -, hx, e⟩ <;> rw [e]
  · exact .refl s
  · refine ⟨putOptions_clockOk x.options, fun h => ?_⟩
    obtain ⟨-, -, -, hi, hs⟩ := State.settingsOk_iff.mp h
    obtain ⟨ho, ht⟩ := Settings.inRange_iff.mp (hi x hx)
    exact State.settingsOk_iff.mpr ⟨ho, ht, nofun, hi, hs⟩

theorem serveSaveSettings_keepsInRange (p : Port) (s : State) : KeepsInRange s (serveSaveSettings p s).1 := by
  rcases serveSaveSettings_cases p s with e | ⟨-, -, e⟩ <;> rw [e]
  · exact .refl s
  · refine ⟨id, fun h => ?_⟩
    obtain ⟨ho, ht, hp, -⟩ := State.settingsOk_iff.mp h
    exact State.settingsOk_iff.mpr
      ⟨ho, ht, hp, nofun, Settings.inRange_iff.mpr ⟨ho, pendingOrCurrent_inRange h⟩⟩

/-- A save completed: the snapshot becomes the image (10 R183). -/
theorem completeSave_keepsInRange (s : State) : KeepsInRange s s.completeSave := by
  unfold State.completeSave
  split
  · exact .refl s
  · next p x hb =>
    refine ⟨id, fun h => ?_⟩
    obtain ⟨ho, ht, hp, -, hs⟩ := State.settingsOk_iff.mp h
    rw [hb] at hs
    refine State.settingsOk_iff.mpr ⟨ho, ht, hp, fun y e => ?_, rfl⟩
    cases e
    exact hs

theorem failSave_keepsInRange (s : State) : KeepsInRange s s.failSave := by
  unfold State.failSave
  split
  · exact .refl s
  · refine ⟨id, fun h => ?_⟩
    obtain ⟨ho, ht, hp, hi, -⟩ := State.settingsOk_iff.mp h
    exact State.settingsOk_iff.mpr ⟨ho, ht, hp, hi, rfl⟩

/-! ## Record memory initialized (10 R184, R185) -/

theorem serveVoyageClear_keepsInRange (s : State) : KeepsInRange s (serveVoyageClear s).1 := by
  rcases serveVoyageClear_cases s with e | ⟨-, e⟩ <;> rw [e]
  · exact .refl s
  · exact ⟨fun _ => State.clockOk_iff.mpr ⟨Nat.zero_le _, rfl⟩, id⟩

theorem coldRecords_clockSettings (s : State) : s.coldRecords.clockSettings =
    { shipTime := 0, nextRollover := nextRolloverAfter 0 Options.cold.rolloverHour, options := .cold, tariff := .cold,
      pendingTariff := none, image := s.image, store := s.store } := by
  simp only [State.clockSettings, State.coldRecords, State.clearRecords]

/-- A cold start sets time, options and tariff to their first values (10 R184). -/
theorem coldRecords_keepsInRange (s : State) : KeepsInRange s s.coldRecords := by
  have view := coldRecords_clockSettings s
  simp only [State.clockSettings, ClockSettings.mk.injEq] at view
  obtain ⟨htime, hnext, hopt, htar, hpend, himg, hstore⟩ := view
  refine ⟨fun _ => ?_, fun h => ?_⟩
  · rw [State.clockOk_iff, htime, hnext, hopt]
    exact ⟨Nat.zero_le _, rfl⟩
  · obtain ⟨-, -, -, hi, hs⟩ := State.settingsOk_iff.mp h
    rw [State.settingsOk_iff, hopt, htar, hpend, himg, hstore]
    exact ⟨by decide, cold_inRange, nofun, hi, hs⟩

/-- Every start drops a save in progress (10 R184). -/
theorem restart_keepsInRange (s : State) (straps : Quad (BitVec 2)) (warm : Bool) :
    KeepsInRange s (s.restart straps warm) := by
  refine ⟨id, fun h => ?_⟩
  obtain ⟨ho, ht, hp, hi, -⟩ := State.settingsOk_iff.mp h
  exact State.settingsOk_iff.mpr ⟨ho, ht, hp, hi, rfl⟩

theorem startUp_keepsInRange (s : State) (straps : Quad (BitVec 2)) (lost : Bool) :
    KeepsInRange s (s.startUp straps lost) := by
  unfold State.startUp
  split
  · exact restart_keepsInRange s straps true
  · exact (coldRecords_keepsInRange s).trans (restart_keepsInRange _ straps false)

/-! ## Every request, every event, every step -/

/-- The other requests leave the clock and the settings as they are. -/
theorem serve_keepsInRange (p : Port) (req : Request) (s : State) : KeepsInRange s (serve p req s).1 := by
  cases req with
  | setTime time => exact serveSetTime_keepsInRange time s
  | setTariff1 part => exact serveSetTariff1_keepsInRange part s
  | setTariff2 rows => exact serveSetTariff2_keepsInRange rows s
  | setOptions fields => exact serveSetOptions_keepsInRange fields s
  | loadSettings => exact serveLoadSettings_keepsInRange s
  | saveSettings => exact serveSaveSettings_keepsInRange p s
  | voyageClear => exact serveVoyageClear_keepsInRange s
  | badFrame | unknown | badLength | noOp | readPortStatus | readCounts | readCall | readSettings => exact .refl s
  | readTime => exact .of_same rfl
  | setNoticeMask mask => obtain ⟨_, e⟩ := serveSetNoticeMask_frame p mask s; exact .of_frame e rfl
  | readCardholder card => exact .of_eq (serveReadCardholder_frame card s)
  | readAccount folio => exact .of_eq (serveReadAccount_frame folio s)
  | readCabin cabin => exact .of_eq (serveReadCabin_frame cabin s)
  | readHold slot reuse => exact .of_eq (serveReadHold_frame slot reuse s)
  | readEntry seq => exact .of_eq (serveReadEntry_frame seq s)
  | readLane lane => exact .of_eq (serveReadLane_frame lane s)
  | windowOpen collection mode key start =>
    obtain ⟨_, e⟩ := serveWindowOpen_frame p collection mode key start s; exact .of_frame e rfl
  | windowRead => obtain ⟨_, e⟩ := serveWindowRead_frame p s; exact .of_frame e rfl
  | windowAct action => obtain ⟨_, _, _, _, e⟩ := serveWindowAct_frame p action s; exact .of_frame e rfl
  | price cls unit qty k card package => exact .of_eq (servePrice_frame cls unit qty k card package s)
  | charge outlet cls unit qty cards =>
    obtain ⟨_, _, _, _, _, e⟩ := serveCharge_frame p outlet cls unit qty cards s; exact .of_frame e rfl
  | holdOpen card gen outlet cls gross lifetime =>
    obtain ⟨_, _, _, _, e⟩ := serveHoldOpen_frame p card gen outlet cls gross lifetime s; exact .of_frame e rfl
  | holdComplete slot reuse gross =>
    obtain ⟨_, _, _, _, _, _, e⟩ := serveHoldComplete_frame p slot reuse gross s; exact .of_frame e rfl
  | holdRelease slot reuse => obtain ⟨_, _, _, e⟩ := serveHoldRelease_frame p slot reuse s; exact .of_frame e rfl
  | void seq outlet => obtain ⟨_, _, _, e⟩ := serveVoid_frame p seq outlet s; exact .of_frame e rfl
  | accessQuery card gen cabin =>
    obtain ⟨_, _, _, _, _, e⟩ := serveAccessQuery_frame p card gen cabin s; exact .of_frame e rfl
  | lockReport cabin token outcome =>
    obtain ⟨_, _, _, e⟩ := serveLockReport_frame cabin token outcome s; exact .of_frame e rfl
  | privacySet cabin => obtain ⟨_, e⟩ := servePrivacySet_frame cabin s; exact .of_frame e rfl
  | privacyClear cabin => obtain ⟨_, e⟩ := servePrivacyClear_frame cabin s; exact .of_frame e rfl
  | enrol card kind folio classMask deckMask =>
    obtain ⟨_, _, _, e⟩ := serveEnrol_frame card kind folio classMask deckMask s; exact .of_frame e rfl
  | reissue card => obtain ⟨_, e⟩ := serveReissue_frame card s; exact .of_frame e rfl
  | suspend card => obtain ⟨_, e⟩ := serveSuspend_frame card s; exact .of_frame e rfl
  | resume card => obtain ⟨_, e⟩ := serveResume_frame card s; exact .of_frame e rfl
  | purge card => obtain ⟨_, _, e⟩ := servePurge_frame card s; exact .of_frame e rfl
  | setClassMask card mask => obtain ⟨_, e⟩ := serveSetClassMask_frame card mask s; exact .of_frame e rfl
  | setDeckMask card mask => obtain ⟨_, e⟩ := serveSetDeckMask_frame card mask s; exact .of_frame e rfl
  | capUp card => obtain ⟨_, e⟩ := serveCapUp_frame card s; exact .of_frame e rfl
  | capDown card => obtain ⟨_, e⟩ := serveCapDown_frame card s; exact .of_frame e rfl
  | setCapOffset card offset => obtain ⟨_, e⟩ := serveSetCapOffset_frame card offset s; exact .of_frame e rfl
  | openAccount folio limit deposit =>
    obtain ⟨_, _, e⟩ := serveOpenAccount_frame folio limit deposit s; exact .of_frame e rfl
  | setLimit folio amount => obtain ⟨_, _, e⟩ := serveSetLimit_frame folio amount s; exact .of_frame e rfl
  | setDeposit folio amount => obtain ⟨_, _, e⟩ := serveSetDeposit_frame folio amount s; exact .of_frame e rfl
  | setPackage folio package => obtain ⟨_, e⟩ := serveSetPackage_frame folio package s; exact .of_frame e rfl
  | setMinorRelease folio value => obtain ⟨_, e⟩ := serveSetMinorRelease_frame folio value s; exact .of_frame e rfl
  | adjust folio kind amount => obtain ⟨_, _, _, _, e⟩ := serveAdjust_frame folio kind amount s; exact .of_frame e rfl
  | settleBegin folio => obtain ⟨_, e⟩ := serveSettleBegin_frame folio s; exact .of_frame e rfl
  | settleStep folio => obtain ⟨_, _, e⟩ := serveSettleStep_frame folio s; exact .of_frame e rfl
  | reopen folio => obtain ⟨_, _, e⟩ := serveReopen_frame folio s; exact .of_frame e rfl
  | close folio => obtain ⟨_, _, _, _, e⟩ := serveClose_frame folio s; exact .of_frame e rfl
  | takeClosure => obtain ⟨_, _, e⟩ := serveTakeClosure_frame s; exact .of_frame e rfl
  | defineCabin cabin deck => obtain ⟨_, e⟩ := serveDefineCabin_frame cabin deck s; exact .of_frame e rfl
  | undefineCabin cabin => obtain ⟨_, _, e⟩ := serveUndefineCabin_frame cabin s; exact .of_frame e rfl
  | grantCabin card cabin => obtain ⟨_, _, e⟩ := serveGrantCabin_frame card cabin s; exact .of_frame e rfl
  | revokeCabin card cabin => obtain ⟨_, _, e⟩ := serveRevokeCabin_frame card cabin s; exact .of_frame e rfl
  | rekeyCabin cabin => obtain ⟨_, _, e⟩ := serveRekeyCabin_frame cabin s; exact .of_frame e rfl
  | blockCabin cabin => obtain ⟨_, e⟩ := serveBlockCabin_frame cabin s; exact .of_frame e rfl
  | unblockCabin cabin => obtain ⟨_, e⟩ := serveUnblockCabin_frame cabin s; exact .of_frame e rfl
  | setPresence card presence =>
    obtain ⟨_, _, _, _, _, e⟩ := serveSetPresence_frame card presence s; exact .of_frame e rfl
  | openCall kind allAboard mode closeTime =>
    obtain ⟨_, e⟩ := serveOpenCall_frame kind allAboard mode closeTime s; exact .of_frame e rfl
  | closeCall force => obtain ⟨_, _, _, e⟩ := serveCloseCall_frame force s; exact .of_frame e rfl
  | laneMode lane mode direction clearFaults =>
    obtain ⟨_, e⟩ := serveLaneMode_frame lane mode direction clearFaults s; exact .of_frame e rfl
  | injectRead lane card gen direction seq => exact .of_eq (serveInjectRead_frame lane card gen direction seq s)

/-- From a state on, each rule and each event keeps what was kept. -/
theorem keepsInRange_kept (s : State) : Kept (KeepsInRange s) where
  queue := fun _ _ h => h.trans (.of_same rfl)
  timer := fun _ h => h.trans (.of_same rfl)
  port := fun _ _ _ h => h.trans (.of_same rfl)
  serve := fun p req x h => h.trans (serve_keepsInRange p req x)
  startUp := fun x straps lost h => h.trans (startUp_keepsInRange x straps lost)
  completeSave := fun x h => h.trans (completeSave_keepsInRange x)
  failSave := fun x h => h.trans (failSave_keepsInRange x)
  readMessage := fun x l kind card gen direction seq crc h => by
    obtain ⟨_, _, _, _, _, _, e⟩ := x.readMessage_frame l kind card gen direction seq crc
    exact h.trans (.of_frame e rfl)
  laneByte := fun x l b h => by obtain ⟨_, _, _, _, _, _, e⟩ := x.laneByte_frame l b; exact h.trans (.of_frame e rfl)
  framingFault := fun x l h => by obtain ⟨_, e⟩ := x.framingFault_frame l; exact h.trans (.of_frame e rfl)
  gapFault := fun x l h => by obtain ⟨_, _, e⟩ := x.gapFault_frame l; exact h.trans (.of_frame e rfl)
  endOfTransmission := fun x l h => by
    obtain ⟨_, _, _, _, _, _, e⟩ := x.endOfTransmission_frame l; exact h.trans (.of_frame e rfl)
  repeatExpiry := fun x l h => by obtain ⟨_, e⟩ := x.repeatExpiry_frame l; exact h.trans (.of_frame e rfl)
  takeTick := fun x h => h.trans (takeTick_keepsInRange x)
  loseTick := fun x h => h.trans (loseTick_keepsInRange x)
  takeSecond := fun x h => h.trans (takeSecond_keepsInRange x)
  expireHold := fun x slot h => by
    obtain ⟨_, _, _, _, e⟩ := x.expireHold_frame slot.toNat; exact h.trans (.of_frame e rfl)
  expireUnlock := fun x cabin h => by
    obtain ⟨_, _, _, _, e⟩ := x.expireUnlock_frame cabin; exact h.trans (.of_frame e rfl)
  takeAllAboard := fun x h => by obtain ⟨_, _, _, e⟩ := x.takeAllAboard_frame; exact h.trans (.of_frame e rfl)
  takeClose := fun x h => by obtain ⟨_, _, _, e⟩ := x.takeClose_frame; exact h.trans (.of_frame e rfl)

/-- Settles O60: each rule and each event keeps both laws, so every step does. -/
theorem clockAndSettingsStayInRange : Obligations.ClockAndSettingsStayInRange := by
  intro s t hs
  obtain ⟨clock, settings⟩ := (keepsInRange_kept s).step (.refl s) hs
  exact ⟨clock, settings⟩

end Sys2Proof.Machine
end

section
/-! PROOFS. The Pricing Unit: the effective daily cap, the four stages, cap offsets and PRICE (chapter 3). -/

namespace Sys2Proof.Machine

variable {s : State} {p : Port} {tag : Byte}

/-! ## The effective daily cap (03 R61) -/

section Cap

variable {t : Tariff} {c : Cardholder} {raw : Int}

theorem Tariff.clampCap_of_lt (h : raw < t.capFloor) : t.clampCap raw = t.capFloor := if_pos h

theorem Tariff.clampCap_of_gt (hf : t.capFloor ≤ t.capCeiling) (h : t.capCeiling < raw) :
    t.clampCap raw = t.capCeiling := by
  rw [Tariff.clampCap, if_neg (by omega), if_pos h]

theorem Tariff.clampCap_of_within (h1 : t.capFloor ≤ raw) (h2 : raw ≤ t.capCeiling) : t.clampCap raw = raw := by
  rw [Tariff.clampCap, if_neg (Int.not_lt.mpr h1), if_neg (Int.not_lt.mpr h2)]

theorem Tariff.clampCap_range (hf : t.capFloor ≤ t.capCeiling) (raw : Int) :
    t.capFloor ≤ t.clampCap raw ∧ t.clampCap raw ≤ t.capCeiling := by
  unfold Tariff.clampCap
  repeat' split
  all_goals omega

theorem effectiveCap_minor (h : c.kind = .minor) :
    effectiveCap t c = t.clampCap (t.minorBase + c.capOffset * t.capStep) := by
  rw [effectiveCap, h]; rfl

theorem effectiveCap_adult (h : c.kind = .adult) :
    effectiveCap t c = t.clampCap (t.adultBase + c.capOffset * t.capStep) := by
  rw [effectiveCap, h]; rfl

end Cap

/-! ## The four stages (03 R55 to R57) -/

theorem getD_le_of_forall {l : List Nat} {top : Nat} (h : ∀ x ∈ l, x ≤ top) (i : Nat) : l.getD i 0 ≤ top := by
  rw [List.getD_eq_getElem?_getD]
  cases hi : l[i]? with
  | none => exact Nat.zero_le _
  | some x => exact h x (List.mem_of_getElem? hi)

/-- At a rate of at most 100 % no more than the whole is taken (03 R55). -/
theorem atRate_le {amount rate : Nat} (h : rate ≤ 10000) : atRate amount rate ≤ amount := by
  have : amount * rate ≤ amount * 10000 := Nat.mul_le_mul_left _ h
  unfold atRate
  omega

theorem atRate_mono {amount rate top high : Nat} (ha : amount ≤ top) (hr : rate ≤ high) :
    atRate amount rate ≤ atRate top high :=
  Nat.div_le_div_right (Nat.add_le_add_right (Nat.mul_le_mul ha hr) _)

@[simp] theorem splitShares_length (total k : Nat) : (splitShares total k).length = k := by
  rw [splitShares, List.length_map, List.length_range]

theorem splitShares_getD {total k i : Nat} (h : i < k) :
    (splitShares total k).getD i 0 = if i < total % k then total / k + 1 else total / k := by
  rw [splitShares, List.getD_eq_getElem?_getD, List.getElem?_map, List.getElem?_range h]; rfl

/-- Of k equal parts the first r one more. -/
theorem sum_map_range_ite (b r k : Nat) :
    ((List.range k).map (fun i => if i < r then b + 1 else b)).sum = k * b + min r k := by
  induction k with
  | zero => simp
  | succ k ih =>
    rw [List.range_succ, List.map_append, List.sum_append, ih, List.map_singleton, List.sum_singleton, Nat.succ_mul]
    split <;> omega

/-- The shares sum to the total (03 R57). -/
theorem splitShares_sum {total k : Nat} (h : 0 < k) : (splitShares total k).sum = total := by
  rw [splitShares, sum_map_range_ite, Nat.min_eq_left (Nat.mod_lt _ h).le, Nat.div_add_mod]

/-- Shares never rise, and differ by at most 1 (03 R57). -/
theorem splitShares_spread {total k i j : Nat} (hij : i ≤ j) (hj : j < k) :
    (splitShares total k).getD j 0 ≤ (splitShares total k).getD i 0 ∧
      (splitShares total k).getD i 0 ≤ (splitShares total k).getD j 0 + 1 := by
  rw [splitShares_getD hj, splitShares_getD (Nat.lt_of_le_of_lt hij hj)]
  split <;> split <;> omega

/-- Settles O31: the cap is a value brought between floor and ceiling, and the stages follow one another. -/
theorem pricesAndShares : Obligations.PricesAndShares := by
  refine ⟨fun t c ht => ?_, fun t cls package gross k ht _ _ hg h1 _ => ?_⟩
  · obtain ⟨-, -, -, -, -, -, -, -, hf⟩ := Tariff.inRange_iff.mp ht
    obtain ⟨low, high⟩ := Tariff.clampCap_range hf (t.baseCap c.kind + c.capOffset * t.capStep)
    refine ⟨low, high, fun hk => ?_, fun hk => ?_, fun hk => ?_, fun hk => ?_, fun hk => ?_, fun hk => ?_⟩
    · rw [effectiveCap_minor hk]; exact Tariff.clampCap_of_within
    · rw [effectiveCap_adult hk]; exact Tariff.clampCap_of_within
    · rw [effectiveCap_minor hk]; exact Tariff.clampCap_of_lt
    · rw [effectiveCap_minor hk]; exact Tariff.clampCap_of_gt hf
    · rw [effectiveCap_adult hk]; exact Tariff.clampCap_of_lt
    · rw [effectiveCap_adult hk]; exact Tariff.clampCap_of_gt hf
  · obtain ⟨-, hrates, -, hdiscounts, -⟩ := Tariff.inRange_iff.mp ht
    have hrate : t.rateOf cls ≤ 2500 := getD_le_of_forall hrates cls
    have hnet : gross - atRate gross (t.discountOf package cls) ≤ 98999901 := Nat.le_trans (Nat.sub_le _ _) hg
    have hservice := atRate_mono hnet hrate
    rw [show atRate 98999901 2500 = 24749975 from rfl] at hservice
    exact ⟨rfl, rfl, rfl, atRate_le (getD_le_of_forall hdiscounts _), rfl, rfl, hservice, rfl,
      Nat.add_le_add hnet hservice, splitShares_length _ _, splitShares_sum h1, fun i j => splitShares_spread⟩

/-! ## Cap offset requests (03 R63, R64) -/

theorem exec_capUp (h : s.readyAs p .purser) (card : BitVec 32) :
    exec (.capUp p tag card) s = (serveCapUp card s).answers p 0x47#8 tag :=
  submit_owned h rfl rfl nofun

theorem exec_capDown (h : s.readyAs p .purser) (card : BitVec 32) :
    exec (.capDown p tag card) s = (serveCapDown card s).answers p 0x48#8 tag :=
  submit_owned h rfl rfl nofun

theorem exec_setCapOffset (h : s.readyAs p .purser) (card : BitVec 32) (offset : Byte) :
    exec (.setCapOffset p tag card offset) s = (serveSetCapOffset card offset s).answers p 0x49#8 tag :=
  submit_owned h rfl rfl nofun

section Offset

variable {card : BitVec 32} {offset : Byte} {slot : Nat} {c : Cardholder}

theorem serveCapUp_found (hf : s.findCard card.toNat = some (slot, c)) (hn : ¬ (c.kind = .staff ∨ c.state = .closed)) :
    serveCapUp card s = if 31 ≤ c.capOffset then
        (s, { Reply.ok (i8 c.capOffset ++ i32 (effectiveCap s.tariff c)) with saturated := true })
      else writeOffset slot c (c.capOffset + 1) s := by
  simp only [serveCapUp, hf, hn, if_false]

theorem serveCapDown_found (hf : s.findCard card.toNat = some (slot, c))
    (hn : ¬ (c.kind = .staff ∨ c.state = .closed)) :
    serveCapDown card s = if c.capOffset ≤ -32 then
        (s, { Reply.ok (i8 c.capOffset ++ i32 (effectiveCap s.tariff c)) with saturated := true })
      else writeOffset slot c (c.capOffset - 1) s := by
  simp only [serveCapDown, hf, hn, if_false]

/-- SET CAP OFFSET writes the byte brought to `x`, and says whether it was moved (03 R64). -/
theorem serveSetCapOffset_found (hf : s.findCard card.toNat = some (slot, c))
    (hn : ¬ (c.kind = .staff ∨ c.state = .closed)) {x : Int} (hx : clampOffset offset.toInt = x) :
    serveSetCapOffset card offset s = (s.withCard slot { c with capOffset := x },
      { Reply.ok (i8 x ++ i32 (effectiveCap s.tariff { c with capOffset := x })) with
        clamped := x != offset.toInt }) := by
  simp only [serveSetCapOffset, hf, hn, if_false, hx, writeOffset]

theorem clampOffset_of_within {x : Int} (h1 : -32 ≤ x) (h2 : x ≤ 31) : clampOffset x = x := by
  rw [clampOffset, if_neg (Int.not_lt.mpr h1), if_neg (Int.not_lt.mpr h2)]

theorem clampOffset_of_lt {x : Int} (h : x < -32) : clampOffset x = -32 := if_pos h

theorem clampOffset_of_gt {x : Int} (h : 31 < x) : clampOffset x = 31 := by
  rw [clampOffset, if_neg (by omega), if_pos h]

end Offset

/-- Settles O32: not found, not a guest to price, at the end of the range, or moved. -/
theorem capOffsets : Obligations.CapOffsets := by
  intro s p tag card offset h
  rw [exec_capUp h, exec_capDown h, exec_setCapOffset h]
  refine ⟨fun hf => ?_, fun slot c hf => ⟨fun hn => ?_, fun hk hs => ?_⟩⟩
  · simp only [serveCapUp, serveCapDown, serveSetCapOffset, hf, Served.answers_mk, and_self]
  · simp only [serveCapUp, serveCapDown, serveSetCapOffset, hf, hn, if_true, Served.answers_mk, and_self]
  · have hn : ¬ (c.kind = .staff ∨ c.state = .closed) := not_or.mpr ⟨hk, hs⟩
    rw [serveCapUp_found hf hn, serveCapDown_found hf hn]
    refine ⟨fun ho => ?_, fun ho => ?_, fun ho => ?_, fun ho => ?_, fun h1 h2 => ?_, fun ho => ?_, fun ho => ?_⟩
    · rw [if_pos (Int.le_of_eq ho.symm), ho, Served.answers_mk]
    · rw [if_neg (Int.not_le.mpr ho)]; rfl
    · rw [if_pos (Int.le_of_eq ho), ho, Served.answers_mk]
    · rw [if_neg (Int.not_le.mpr ho)]; rfl
    · rw [serveSetCapOffset_found hf hn (clampOffset_of_within h1 h2), bne_self_eq_false, Served.answers_mk]; rfl
    · rw [serveSetCapOffset_found hf hn (clampOffset_of_lt ho), bne_iff_ne.mpr (Int.ne_of_gt ho), Served.answers_mk]
    · rw [serveSetCapOffset_found hf hn (clampOffset_of_gt ho), bne_iff_ne.mpr (Int.ne_of_lt ho), Served.answers_mk]

/-! ## PRICE (03 R66, R67) -/

theorem exec_price (h : s.readyAs p .service) (cls : Byte) (unit : BitVec 32) (qty k : Byte) (card : BitVec 32)
    (package : Byte) : exec (.price p tag cls unit qty k card package) s =
      (servePrice cls unit qty k card package s).answers p 0x20#8 tag :=
  submit_owned h rfl rfl nofun

theorem priceOutOfRange_iff (unit qty : Nat) :
    priceOutOfRange unit qty = true ↔ 999999 < unit ∨ qty = 0 ∨ 99 < qty := by
  simp only [priceOutOfRange, Bool.or_eq_true, decide_eq_true_eq, or_assoc]

section Price

variable {cls qty k package : Byte} {unit card : BitVec 32}

theorem servePrice_badField (h : 7 < cls.toNat ∨ k.toNat = 0 ∨ 4 < k.toNat) :
    servePrice cls unit qty k card package s = (s, Reply.refuse .badField) := if_pos h

theorem servePrice_amountRange (hc : ¬ (7 < cls.toNat ∨ k.toNat = 0 ∨ 4 < k.toNat))
    (hr : priceOutOfRange unit.toNat qty.toNat = true) :
    servePrice cls unit qty k card package s = (s, Reply.refuse .amountRange) := by
  rw [servePrice, if_neg hc, if_pos hr]

section Passed

variable (hc : ¬ (7 < cls.toNat ∨ k.toNat = 0 ∨ 4 < k.toNat)) (hr : ¬ priceOutOfRange unit.toNat qty.toNat = true)

include hc hr

/-- Past the first checks, without a card: the request's package prices the quote (03 R66, R67). -/
theorem servePrice_noCard (h0 : card.toNat = 0) : servePrice cls unit qty k card package s =
    if 15 < package.toNat then (s, Reply.refuse .badField)
    else
      (s, Reply.ok ((s.tariff.price cls.toNat package.toNat (unit.toNat * qty.toNat) k.toNat).bytes ++
        [0x00#8])) := by
  rw [servePrice, if_neg hc, if_neg hr, if_pos h0, optionalGroup_false]

theorem servePrice_notFound (h0 : card.toNat ≠ 0) (hf : s.findCard card.toNat = none) :
    servePrice cls unit qty k card package s = (s, Reply.refuse .notFound) := by
  rw [servePrice, if_neg hc, if_neg hr, if_neg h0, hf]

theorem servePrice_noAccount {slot : Nat} {c : Cardholder} (h0 : card.toNat ≠ 0)
    (hf : s.findCard card.toNat = some (slot, c)) (hn : c.kind = .staff ∨ s.accountOf c = none) :
    servePrice cls unit qty k card package s = (s, Reply.refuse .slotState) := by
  rw [servePrice, if_neg hc, if_neg hr, if_neg h0, hf]
  dsimp only
  rcases hn with hk | ha
  · rw [if_pos hk]
  · rw [ha]; exact ite_self _

/-- The named card's account prices the quote, and the card's cap and room follow it (03 R67). -/
theorem servePrice_card {slot aslot : Nat} {c : Cardholder} {a : Account} (h0 : card.toNat ≠ 0)
    (hf : s.findCard card.toNat = some (slot, c)) (hk : c.kind ≠ .staff) (ha : s.accountOf c = some (aslot, a)) :
    servePrice cls unit qty k card package s =
      (s, Reply.ok ((s.tariff.price cls.toNat a.package (unit.toNat * qty.toNat) k.toNat).bytes ++
        (0x01#8 :: quoteRoom s c))) := by
  rw [servePrice, if_neg hc, if_neg hr, if_neg h0, hf]
  dsimp only
  rw [if_neg hk, ha, optionalGroup_true]

end Passed

end Price

/-- Settles O33: the checks one after the other, then a quote without a card or for the card named. -/
theorem priceQuotes : Obligations.PriceQuotes := by
  intro s p tag cls unit qty k card package h
  rw [exec_price h]
  refine ⟨fun hc => by rw [servePrice_badField hc, Served.answers_mk], fun h1 h2 h3 => ?_⟩
  have hc : ¬ (7 < cls.toNat ∨ k.toNat = 0 ∨ 4 < k.toNat) := by omega
  refine ⟨fun hr => ?_, fun h4 h5 h6 => ?_⟩
  · rw [servePrice_amountRange hc ((priceOutOfRange_iff _ _).mpr hr), Served.answers_mk]
  have hr : ¬ priceOutOfRange unit.toNat qty.toNat = true := by rw [priceOutOfRange_iff]; omega
  refine ⟨fun h0 hp => ?_, fun h0 hp => ?_, fun h0 hf => ?_,
    fun slot c h0 hf => ⟨fun hn => ?_, fun aslot a hk ha => ?_⟩⟩
  · rw [servePrice_noCard hc hr h0, if_pos hp, Served.answers_mk]
  · rw [servePrice_noCard hc hr h0, if_neg (Nat.not_lt.mpr hp), Served.answers_mk]
  · rw [servePrice_notFound hc hr h0 hf, Served.answers_mk]
  · rw [servePrice_noAccount hc hr h0 hf hn, Served.answers_mk]
  · rw [servePrice_card hc hr h0 hf hk ha, Served.answers_mk]
    rfl

end Sys2Proof.Machine
end

section
/-! PROOFS. EveryShareIsPosted: a CHARGE of 1 to 4 cards whose every share passes (03 R57; 04 R70 to R79). -/

namespace Sys2Proof.Machine

variable {s : State} {p : Port} {tag : Byte}

/-! ## Shares posted one after the other (04 R72, R79) -/

/-- The first share posted, with its response fields, then the others on the state it leaves. -/
theorem postShares_cons {outlet cls first i : Nat} {pr : Priced} {y : Share} {rest : List Share} {a : Account}
    (ha : s.accounts.fetch y.account = some a) : s.postShares p outlet cls pr first (y :: rest) i =
      (((s.shareState p outlet cls pr first i y a).postShares p outlet cls pr first rest (i + 1)).1,
        u32 s.nextSeq ++ u32 y.amount ++ i64 (a.joined s.nextSeq y.amount).headroom ++
          ((s.shareState p outlet cls pr first i y a).postShares p outlet cls pr first rest (i + 1)).2) := by
  have hroom : (s.shareState p outlet cls pr first i y a).headroomAt y.account =
      (a.joined s.nextSeq y.amount).headroom := by
    rw [State.headroomAt, shareState_fetch_same]
  simp only [State.postShares, post_share ha, hroom]

/-- Each share takes one sequence (04 R71). -/
theorem postShares_nextSeq (p : Port) (outlet cls : Nat) (pr : Priced) (first : Nat) :
    ∀ (shares : List Share) (i : Nat) (s : State), (∀ y ∈ shares, (s.accounts.fetch y.account).isSome = true) →
      (s.postShares p outlet cls pr first shares i).1.nextSeq = s.nextSeq + shares.length := by
  intro shares
  induction shares with
  | nil => exact fun _ _ _ => rfl
  | cons y rest ih =>
    intro i s hs
    obtain ⟨a, ha⟩ := Option.isSome_iff_exists.mp (hs y List.mem_cons_self)
    rw [postShares_cons ha, ih _ _ (fun z hz => shareState_isSome (hs z (List.mem_cons_of_mem y hz))),
      List.length_cons, Nat.add_comm rest.length, ← Nat.add_assoc]
    rfl

/-- A record rewritten in its slot moves the sum of a figure by the change of its own. -/
theorem Table.sum_store {α : Type} {t : Table α} {n k : Nat} {a : α} (x : α) (f : α → Int)
    (h : t.rising n = true) (ha : t.fetch k = some a) :
    ((t.store k x).map (fun e => f e.2)).sum = (t.map (fun e => f e.2)).sum + (f x - f a) := by
  induction t generalizing n with
  | nil => cases ha
  | cons e rest ih =>
    obtain ⟨i, b⟩ := e
    simp only [Table.rising, Bool.and_eq_true, decide_eq_true_eq] at h
    by_cases hik : i = k
    · simp only [Table.fetch, if_pos hik, Option.some.injEq] at ha
      simp only [Table.store, if_neg (show ¬ k < i by omega), if_pos hik.symm, List.map_cons, List.sum_cons, ha]
      omega
    · simp only [Table.fetch, if_neg hik] at ha
      have hlt : ¬ k < i := fun hlt => by rw [Table.fetch_below h.2 (Nat.lt_succ_of_lt hlt)] at ha; cases ha
      simp only [Table.store, if_neg hlt, if_neg (Ne.symm hik), List.map_cons, List.sum_cons, ih h.2 ha]
      omega

/-- The sum of the posted totals rises by the amounts of the shares (04 R79). -/
theorem postShares_posted (p : Port) (outlet cls : Nat) (pr : Priced) (first : Nat) :
    ∀ (shares : List Share) (i : Nat) (s : State), s.accounts.rising 0 = true →
      (∀ y ∈ shares, (s.accounts.fetch y.account).isSome = true) →
      ((s.postShares p outlet cls pr first shares i).1.accounts.map (fun e => e.2.posted)).sum =
        (s.accounts.map (fun e => e.2.posted)).sum + (shares.map (·.amount)).sum := by
  intro shares
  induction shares with
  | nil => exact fun _ _ _ _ => (Int.add_zero _).symm
  | cons y rest ih =>
    intro i s hr hs
    obtain ⟨a, ha⟩ := Option.isSome_iff_exists.mp (hs y List.mem_cons_self)
    have joined : ((s.shareState p outlet cls pr first i y a).accounts.map (fun e => e.2.posted)).sum =
        (s.accounts.map (fun e => e.2.posted)).sum + (a.posted + y.amount - a.posted) :=
      Table.sum_store (a.joined s.nextSeq y.amount) Account.posted hr ha
    rw [postShares_cons ha, ih _ _ (Table.rising_store _ hr (Nat.zero_le _))
      (fun z hz => shareState_isSome (hs z (List.mem_cons_of_mem y hz))), joined, List.map_cons, List.sum_cons]
    omega

/-! ## A charge that passes (04 R75 to R78) -/

theorem chargeBadField_eq_false {outlet cls : Nat} {cards : List Presentation} :
    chargeBadField outlet cls cards = false ↔
      outlet ≤ 1023 ∧ cls ≤ 7 ∧ 1 ≤ cards.length ∧ cards.length ≤ 4 ∧ (cards.map (·.card)).Nodup := by
  simp only [chargeBadField, Bool.or_eq_false_iff, decide_eq_false_iff_not, Bool.not_eq_false', decide_eq_true_eq,
    Nat.not_lt, ← Nat.pos_iff_ne_zero, Nat.succ_le_iff, and_assoc]

theorem serveCharge_passed {outlet : BitVec 16} {cls : Byte} {unit : BitVec 32} {qty : Byte}
    {cards : List Presentation} {shares : List Share} {x : Priced}
    (hb : chargeBadField outlet.toNat cls.toNat cards = false) (hr : priceOutOfRange unit.toNat qty.toNat = false)
    (ha : s.authorize cls.toNat (unit.toNat * qty.toNat) cards.length cards 1 [] none = .passed shares (some x))
    (hl : s.logRefusal cards.length = none) : serveCharge p outlet cls unit qty cards s =
      ((s.postShares p outlet.toNat cls.toNat x s.nextSeq shares 1).1,
        Reply.ok (x.bytes ++ (s.postShares p outlet.toNat cls.toNat x s.nextSeq shares 1).2)) := by
  simp only [serveCharge, hb, hr, ha, hl, Bool.false_eq_true, if_false]

section Passed

variable {cls gross : Nat} {cards : List Presentation} {shares : List Share} {x : Priced}
  (ha : s.authorize cls gross cards.length cards 1 [] none = .passed shares (some x))

include ha

/-- One share for each card in listed order, and the pricing on the first card's account (04 R78, 03 R59). -/
theorem passed_shares : shares.length = cards.length ∧ ∀ (n : Nat) (y : Presentation), cards[n]? = some y →
    ∃ payer : Payer, s.checkCard y.card.toNat y.gen.toNat = .ok payer ∧
      shares[n]? = some { holder := payer.holder, account := payer.account, amount := x.shares.getD n 0 } ∧
      (n = 0 → x = s.tariff.price cls payer.folio.package gross cards.length) := by
  obtain ⟨-, new, hnew, hlen, hall⟩ := authorize_passed _ _ _ _ _ _ _ _ _ _ (Nat.le_refl 1) ha
  rw [List.nil_append] at hnew
  subst hnew
  refine ⟨hlen, fun n y hy => ?_⟩
  obtain ⟨payer, hcard, hshare, hprice⟩ := hall n y hy
  rw [Nat.sub_self, Nat.zero_add] at hshare
  exact ⟨payer, hcard, hshare, fun h0 => hprice h0 rfl⟩

theorem passed_priced (h1 : 1 ≤ cards.length) : ∃ package, x = s.tariff.price cls package gross cards.length := by
  obtain ⟨-, hall⟩ := passed_shares ha
  obtain ⟨payer, -, -, hprice⟩ := hall 0 cards[0] (List.getElem?_eq_getElem h1)
  exact ⟨payer.folio.package, hprice rfl⟩

/-- The amounts are the shares of the pricing, which sum to its total (03 R57). -/
theorem passed_amounts (h1 : 1 ≤ cards.length) : (shares.map (·.amount)).sum = x.total ∧ x.k = cards.length := by
  obtain ⟨hlen, hall⟩ := passed_shares ha
  obtain ⟨package, hx⟩ := passed_priced ha h1
  have hsplit : x.shares = splitShares x.total cards.length := by rw [hx]; rfl
  have hamounts : shares.map (·.amount) = x.shares := by
    refine List.ext_getElem (by rw [List.length_map, hlen, hsplit, splitShares_length]) (fun n hn hn' => ?_)
    rw [List.length_map, hlen] at hn
    obtain ⟨payer, -, hshare, -⟩ := hall n cards[n] (List.getElem?_eq_getElem hn)
    obtain ⟨_, hget⟩ := List.getElem?_eq_some_iff.mp hshare
    rw [List.getElem_map, hget, List.getD_eq_getElem _ _ hn']
  exact ⟨by rw [hamounts, hsplit, splitShares_sum h1], by rw [hx]; rfl⟩

/-- Every share falls on an account. -/
theorem passed_accounts : ∀ y ∈ shares, (s.accounts.fetch y.account).isSome = true := by
  obtain ⟨new, hnew, -, hroom⟩ := authorize_room _ _ _ _ _ _ _ _ _ _ ha
  rw [List.nil_append] at hnew
  subst hnew
  intro y hy
  obtain ⟨_, _, a, _, hfa, -⟩ := hroom y hy
  exact Option.isSome_iff_exists.mpr ⟨a, hfa⟩

/-- With its shares posted, each account lies within its limit and deposit, and each cardholder within its cap (04
R77). -/
theorem passed_within (hw : s.tablesWf = true) (hn : (cards.map (·.card)).Nodup) (outlet cls' first : Nat)
    (pr : Priced) :
    ∀ y ∈ shares,
      (∃ a, (s.postShares p outlet cls' pr first shares 1).1.accounts.fetch y.account = some a ∧
        a.posted + a.held ≤ a.limit + a.deposit) ∧
      ∃ c, (s.postShares p outlet cls' pr first shares 1).1.roster.fetch y.holder = some c ∧
        (c.spentToday s.shipDay + c.held : Nat) ≤ effectiveCap s.tariff c := by
  obtain ⟨new, hnew, hholders, hroom⟩ := authorize_room _ _ _ _ _ _ _ _ _ _ ha
  rw [List.nil_append] at hnew
  subst hnew
  intro y hy
  obtain ⟨card, c, a, hfc, hfa, hheadroom, hcap⟩ := hroom y hy
  obtain ⟨_, _, _, _, hposted⟩ := postShares_account p outlet cls' pr first shares 1 s y.account a hfa
  obtain ⟨hfh, -⟩ := State.fetch_of_findCard hw hfc
  obtain ⟨c', hc', hsame, hspent, -⟩ := postShares_holder p outlet cls' pr first shares 1 s y.holder c hfh
  refine ⟨⟨_, hposted, ?_⟩, c', hc', ?_⟩
  · rw [Account.headroom] at hheadroom
    dsimp only
    omega
  · have hheld : c'.held = c.held := by rw [hsame]
    have hsamecap : effectiveCap s.tariff c' = effectiveCap s.tariff c := by rw [hsame]; rfl
    have htaken : takenFrom shares y.holder = y.amount :=
      takenFrom_nodup shares y (by rw [hholders]; exact holders_nodup (State.roster_wf hw) cards hn) hy
    rw [hspent, hheld, hsamecap, htaken]
    omega

/-- Each share is its own entry of the log after (04 R70, R72). -/
theorem passed_entries (h1 : 1 ≤ cards.length) (h4 : cards.length ≤ 4) (hledger : s.ledgerOk) (outlet cls' : Nat)
    {n : Nat} {y : Share} {a : Account} (hn : shares[n]? = some y) (hfa : s.accounts.fetch y.account = some a) :
    ({ seq := s.nextSeq + n, kind := .charge, state := .posted, serial := a.serial,
       link := ((shares.drop (n + 1)).findIdx? (fun z => z.account == y.account)).map
         (fun j => s.nextSeq + (n + 1 + j)),
       amount := y.amount, time := s.shipTime, day := s.shipDay,
       origin := some { holder := y.holder, port := p, outlet := outlet }, cls := cls',
       detail := if n = 0 then some { gross := x.gross, discount := x.discount, service := x.service } else none,
       hold := none,
       split := if 2 ≤ cards.length then
           some { first := s.nextSeq, index := n + 1, count := cards.length }
         else none } : Entry) ∈ (s.postShares p outlet cls' x s.nextSeq shares 1).1.log := by
  obtain ⟨hlen, -⟩ := passed_shares ha
  obtain ⟨-, hk⟩ := passed_amounts ha h1
  have hplaces : shares.length + 1 < Config.logPlaces := by rw [hlen, Config.logPlaces]; omega
  have hlast : ∀ k b q, s.accounts.fetch k = some b → b.last = some q → q < s.nextSeq := by
    intro k b q hb hq
    obtain ⟨-, -, hchain⟩ := hledger.1 k b hb
    exact (hchain q (.inr (.inl hq))).1
  have entry := postShares_entry p outlet cls' x s.nextSeq shares 1 s n y a hplaces (passed_accounts ha) hlast hn hfa
  simpa only [hk, Nat.add_comm 1 n, Nat.add_eq_right] using entry

end Passed

/-- Settles O35: the recursion of the posting, and what a charge that passes its checks leaves. -/
theorem everyShareIsPosted : Obligations.EveryShareIsPosted := by
  refine ⟨fun s p outlet cls x first i rest y a ha => ⟨rfl, postShares_cons ha⟩,
    fun s p tag outlet cls unit qty cards shares x h hw hb hr ha hl => ?_⟩
  obtain ⟨-, -, h1, h4, hnodup⟩ := chargeBadField_eq_false.mp hb
  obtain ⟨hlen, hall⟩ := passed_shares ha
  obtain ⟨hsum, hk⟩ := passed_amounts ha h1
  have hsome := passed_accounts ha
  obtain ⟨_, _, _, _, frame⟩ := s.postShares_frame p outlet.toNat cls.toNat x s.nextSeq shares 1
  refine ⟨(s.postShares p outlet.toNat cls.toNat x s.nextSeq shares 1).1,
    (s.postShares p outlet.toNat cls.toNat x s.nextSeq shares 1).2, ?_, ?_, hlen, hsum, hk, ?_, by rw [frame],
    by rw [frame], by rw [frame], by rw [frame], by rw [frame], rfl, passed_within ha hw hnodup _ _ _ _,
    fun n y hy => ?_, fun hledger n y a => passed_entries ha h1 h4 hledger _ _⟩
  · rw [exec_charge h, serveCharge_passed hb hr ha hl, Served.answers_mk]
  · rw [postShares_nextSeq _ _ _ _ _ _ _ _ hsome, hlen]
  · rw [postShares_posted _ _ _ _ _ _ _ _ (Table.rising_of_wf (State.accounts_wf hw)) hsome, hsum]
  · obtain ⟨payer, hcard, hshare, hprice⟩ := hall n y hy
    obtain ⟨hfind, -, -, -, hacc, -⟩ := checkCard_ok hcard
    exact ⟨_, _, _, _, hfind, hacc, hshare, hprice⟩

end Sys2Proof.Machine
end

section
/-! PROOFS. The law of the ledger, for an account and for an entry; the sums over the log; and the steps that leave the
ledger, or carry its accounts on (04 R69 to R73). -/

namespace Sys2Proof.Machine

variable {s t : State}

/-! ## Sums over the log (04 R72) -/

/-- What an entry adds to the sum of a serial's entries of one state. -/
def Entry.weight (serial : Nat) (st : EntryState) (e : Entry) : Int :=
  if e.serial = serial ∧ e.state = st then e.signed else 0

theorem ledgerSum_eq (log : List Entry) (serial : Nat) (st : EntryState) :
    ledgerSum log serial st = (log.map (Entry.weight serial st)).sum := by
  induction log with
  | nil => rfl
  | cons e rest ih =>
    unfold ledgerSum at ih ⊢
    by_cases h : e.serial = serial ∧ e.state = st
    · simp [Entry.weight, h, ih]
    · simp [Entry.weight, h, ih]

theorem ledgerSum_cons (e : Entry) (log : List Entry) (serial : Nat) (st : EntryState) :
    ledgerSum (e :: log) serial st = e.weight serial st + ledgerSum log serial st := by
  rw [ledgerSum_eq, ledgerSum_eq, List.map_cons, List.sum_cons]

theorem ledgerSum_append (l m : List Entry) (serial : Nat) (st : EntryState) :
    ledgerSum (l ++ m) serial st = ledgerSum l serial st + ledgerSum m serial st := by
  rw [ledgerSum_eq, ledgerSum_eq, ledgerSum_eq, List.map_append, List.sum_append]

/-- A log without entries of a serial sums to 0. -/
theorem ledgerSum_eq_zero {log : List Entry} {serial : Nat} (h : ∀ e ∈ log, e.serial ≠ serial) (st : EntryState) :
    ledgerSum log serial st = 0 := by
  rw [ledgerSum_eq, List.sum_eq_zero]
  intro x hx
  obtain ⟨e, he, rfl⟩ := List.mem_map.mp hx
  exact if_neg (fun hw => h e he hw.1)

/-- The entry of one sequence in another state. -/
def Entry.mark (q : Nat) (st : EntryState) (e : Entry) : Entry := if e.seq = q then { e with state := st } else e

theorem map_mark_of_absent {log : List Entry} {q : Nat} (h : q ∉ log.map (·.seq)) (st : EntryState) :
    log.map (Entry.mark q st) = log := by
  refine (List.map_congr_left (fun e he => ?_)).trans (List.map_id log)
  exact if_neg (fun hq => h (List.mem_map.mpr ⟨e, he, hq⟩))

/-- One entry of the log moves between the sums of its states, and no other entry does. -/
theorem ledgerSum_mark {log : List Entry} {e : Entry} (hn : (log.map (·.seq)).Nodup) (he : e ∈ log)
    (st : EntryState) (serial : Nat) (st' : EntryState) :
    ledgerSum (log.map (Entry.mark e.seq st)) serial st' =
      ledgerSum log serial st' - e.weight serial st' + ({ e with state := st } : Entry).weight serial st' := by
  induction log with
  | nil => cases he
  | cons d rest ih =>
    rw [List.map_cons, List.nodup_cons] at hn
    obtain ⟨hd, hrest⟩ := hn
    rw [List.map_cons, ledgerSum_cons, ledgerSum_cons]
    rcases List.mem_cons.mp he with rfl | he
    · rw [map_mark_of_absent hd, Entry.mark, if_pos rfl]
      omega
    · have hne : d.seq ≠ e.seq := fun heq => hd (heq ▸ List.mem_map.mpr ⟨e, he, rfl⟩)
      rw [ih hrest he, Entry.mark, if_neg hne]
      omega

/-! ## The law of the log, read (04 R69, R71) -/

theorem State.seqs_nodup (h : s.logOk = true) : (s.log.map (·.seq)).Nodup := by
  obtain ⟨-, hrise, -⟩ := State.logOk_iff.mp h
  exact hrise.imp Nat.ne_of_lt

theorem State.seq_lt (h : s.logOk = true) {e : Entry} (he : e ∈ s.log) : e.seq < s.nextSeq := by
  obtain ⟨-, -, hlt, -⟩ := State.logOk_iff.mp h
  exact hlt _ (List.mem_map.mpr ⟨e, he, rfl⟩)

/-- An entry found at a sequence is in the log, and has it. -/
theorem State.of_findEntry {q : Nat} {e : Entry} (h : s.findEntry q = some e) : e ∈ s.log ∧ e.seq = q :=
  ⟨List.mem_of_find?_eq_some h, by simpa using List.find?_some h⟩

/-! ## The law of the ledger, account by account and entry by entry -/

/-- An account's totals are its POSTED and SETTLED entries, and its chain is its own (04 R72). -/
def State.balanced (s : State) (a : Account) : Prop :=
  a.posted = ledgerSum s.log a.serial .posted ∧ a.settled = ledgerSum s.log a.serial .settled ∧
    ∀ q, a.first = some q ∨ a.last = some q ∨ a.cursor = some q → s.ofChain a.serial q

/-- An entry's serial has been given, its link stays on its account, and it and its group are charges where they must be
(04 R70, R72); the sequences of a group lie below `n`. -/
def State.lawful (s : State) (n : Nat) (e : Entry) : Prop :=
  e.serial < s.nextSerial ∧ (e.origin ≠ none → e.kind = .charge) ∧ (∀ q, e.link = some q → s.ofChain e.serial q) ∧
    ∀ x, e.split = some x → x.first + x.count ≤ n ∧
      ∀ d ∈ s.log, x.first ≤ d.seq → d.seq < x.first + x.count → d.kind = .charge

/-- The law of the ledger while a charge is posted whose last sequence lies below `n`. -/
def State.ledgerTo (s : State) (n : Nat) : Prop :=
  (∀ i a, s.accounts.fetch i = some a → s.balanced a) ∧ ∀ e ∈ s.log, s.lawful n e

theorem State.ledgerOk_iff : s.ledgerOk ↔ s.ledgerTo s.nextSeq := Iff.rfl

/-- What the chain of an account names is of its chain. -/
theorem chain_of_ledgerOk (hl : s.ledgerOk) {i : Nat} {a : Account} (ha : s.accounts.fetch i = some a) :
    ∀ q, a.first = some q ∨ a.last = some q ∨ a.cursor = some q → s.ofChain a.serial q := by
  obtain ⟨-, -, hchain⟩ := hl.1 i a ha
  exact hchain

/-- The link of an entry is of its account's chain. -/
theorem link_of_ledgerOk (hl : s.ledgerOk) {e : Entry} (he : e ∈ s.log) :
    ∀ q, e.link = some q → s.ofChain e.serial q := by
  obtain ⟨-, -, hlink, -⟩ := hl.2 e he
  exact hlink

theorem State.ledgerTo_mono {m n : Nat} (h : s.ledgerTo m) (hmn : m ≤ n) : s.ledgerTo n := by
  refine ⟨h.1, fun e he => ?_⟩
  obtain ⟨hserial, hkind, hlink, hsplit⟩ := h.2 e he
  exact ⟨hserial, hkind, hlink, fun x hx => ⟨Nat.le_trans (hsplit x hx).1 hmn, (hsplit x hx).2⟩⟩

/-! ## Logs that follow one another -/

/-- Every entry of the log after stands in the log before with its sequence, serial and kind, or is new: its sequence
had not been given, and it is a charge where a charge of sequences up to `n` is being posted. -/
structure Follows (n : Nat) (s t : State) : Prop where
  nextSeq : s.nextSeq ≤ t.nextSeq
  nextSerial : s.nextSerial ≤ t.nextSerial
  log : ∀ d ∈ t.log, (∃ e ∈ s.log, e.seq = d.seq ∧ e.serial = d.serial ∧ e.kind = d.kind) ∨
    (s.nextSeq ≤ d.seq ∧ (d.seq < n → d.kind = .charge))

theorem Follows.ofChain {n serial q : Nat} (h : Follows n s t) (hq : s.ofChain serial q) : t.ofChain serial q := by
  obtain ⟨hlt, hown⟩ := hq
  refine ⟨Nat.lt_of_lt_of_le hlt h.nextSeq, fun d hd hdq => ?_⟩
  rcases h.log d hd with ⟨e, he, hseq, hserial, -⟩ | ⟨hnew, -⟩
  · rw [← hserial]; exact hown e he (hseq.trans hdq)
  · omega

/-- An entry that keeps all but its state stays lawful. -/
theorem Follows.lawful {n : Nat} {e d : Entry} (h : Follows n s t) (he : s.lawful n e) (hserial : d.serial = e.serial)
    (hkind : d.kind = e.kind) (horigin : d.origin = e.origin) (hlink : d.link = e.link ∨ ∀ q, d.link = some q →
      t.ofChain d.serial q) (hsplit : d.split = e.split) : t.lawful n d := by
  obtain ⟨e1, e2, e3, e4⟩ := he
  refine ⟨by rw [hserial]; exact Nat.lt_of_lt_of_le e1 h.nextSerial, by rw [horigin, hkind]; exact e2, fun q hq => ?_,
    fun x hx => ?_⟩
  · rcases hlink with hl | hl
    · rw [hserial]; exact h.ofChain (e3 q (hl ▸ hq))
    · exact hl q hq
  · obtain ⟨hle, hgroup⟩ := e4 x (hsplit ▸ hx)
    refine ⟨hle, fun y hy hlo hhi => ?_⟩
    rcases h.log y hy with ⟨z, hz, hseq, -, hk⟩ | ⟨-, hk⟩
    · rw [← hk]; exact hgroup z hz (by omega) (by omega)
    · exact hk (by omega)

/-! ## Steps that carry the accounts on and leave the log -/

/-- An account with its serial and totals, whose chain names what it named. -/
structure Account.Carried (a b : Account) : Prop where
  serial : b.serial = a.serial
  posted : b.posted = a.posted
  settled : b.settled = a.settled
  chain : ∀ q, b.first = some q ∨ b.last = some q ∨ b.cursor = some q →
    a.first = some q ∨ a.last = some q ∨ a.cursor = some q

theorem Account.Carried.refl (a : Account) : a.Carried a := ⟨rfl, rfl, rfl, fun _ h => h⟩

theorem Account.Carried.trans {a b c : Account} (h : a.Carried b) (k : b.Carried c) : a.Carried c :=
  ⟨k.serial.trans h.serial, k.posted.trans h.posted, k.settled.trans h.settled, fun q hq => h.chain q (k.chain q hq)⟩

/-- The log stands, and so does every account that is left, in what the law of the ledger reads. -/
structure Carries (s t : State) : Prop where
  log : t.log = s.log
  nextSeq : t.nextSeq = s.nextSeq
  nextSerial : t.nextSerial = s.nextSerial
  accounts : ∀ i b, t.accounts.fetch i = some b → ∃ a, s.accounts.fetch i = some a ∧ a.Carried b

theorem Carries.of_same (ha : t.accounts = s.accounts) (hl : t.log = s.log) (hq : t.nextSeq = s.nextSeq)
    (hn : t.nextSerial = s.nextSerial) : Carries s t :=
  ⟨hl, hq, hn, fun _ b hb => ⟨b, ha ▸ hb, .refl b⟩⟩

theorem Carries.refl (s : State) : Carries s s := .of_same rfl rfl rfl rfl

theorem Carries.trans {u : State} (h : Carries s t) (k : Carries t u) : Carries s u := by
  refine ⟨k.log.trans h.log, k.nextSeq.trans h.nextSeq, k.nextSerial.trans h.nextSerial, fun i c hc => ?_⟩
  obtain ⟨b, hb, hbc⟩ := k.accounts i c hc
  obtain ⟨a, ha, hab⟩ := h.accounts i b hb
  exact ⟨a, ha, hab.trans hbc⟩

theorem Carries.of_eq (h : t = s) : Carries s t := by rw [h]; exact .refl s

/-- One account rewritten in its slot. -/
theorem Carries.of_store {k : Nat} {a x : Account} (ha : s.accounts.fetch k = some a) (hx : a.Carried x)
    (ht : t.accounts = s.accounts.store k x) (hl : t.log = s.log) (hq : t.nextSeq = s.nextSeq)
    (hn : t.nextSerial = s.nextSerial) : Carries s t := by
  refine ⟨hl, hq, hn, fun _ b hb => ?_⟩
  rw [ht] at hb
  rcases Table.fetch_store_cases hb with ⟨rfl, rfl⟩ | ⟨-, hb⟩
  · exact ⟨a, ha, hx⟩
  · exact ⟨b, hb, .refl b⟩

/-- Held totals are no part of the ledger. -/
theorem Carries.moveHeld (s : State) (h : Hold) (f : Nat → Nat) : Carries s (s.moveHeld h f) := by
  refine ⟨rfl, rfl, rfl, fun i b hb => ?_⟩
  simp only [State.moveHeld, Table.fetch_modify] at hb
  split at hb
  · obtain ⟨a, ha, rfl⟩ := Option.map_eq_some_iff.mp hb
    exact ⟨a, ha, rfl, rfl, rfl, fun _ h => h⟩
  · exact ⟨b, hb, .refl b⟩

theorem Carries.endHold (s : State) (slot : Nat) (h : Hold) : Carries s (s.endHold slot h) :=
  Carries.trans (.of_same (t := { s with holds := putHold s.holds slot { s.holdSlot slot with live := none } })
    rfl rfl rfl rfl) (.moveHeld _ h _)

theorem Calm.carries (h : Calm s t) : Carries s t := .of_same h.accounts h.log h.nextSeq h.nextSerial

theorem Carries.follows (h : Carries s t) (n : Nat) : Follows n s t :=
  ⟨Nat.le_of_eq h.nextSeq.symm, Nat.le_of_eq h.nextSerial.symm,
    fun d hd => .inl ⟨d, h.log ▸ hd, rfl, rfl, rfl⟩⟩

theorem Carries.ledgerOk (h : Carries s t) (hl : s.ledgerOk) : t.ledgerOk := by
  have follows := h.follows s.nextSeq
  rw [State.ledgerOk_iff, h.nextSeq]
  refine ⟨fun i b hb => ?_, fun e he => ?_⟩
  · obtain ⟨a, ha, hab⟩ := h.accounts i b hb
    obtain ⟨hposted, hsettled, hchain⟩ := hl.1 i a ha
    unfold State.balanced
    rw [hab.serial, hab.posted, hab.settled, h.log]
    exact ⟨hposted, hsettled, fun q hq => follows.ofChain (hchain q (hab.chain q hq))⟩
  · exact follows.lawful (hl.2 e (h.log ▸ he)) rfl rfl rfl (.inl rfl) rfl

/-- A serial not given yet begins an account without entries (01 R14). -/
theorem openAccount_ledgerOk {slot : Nat} {x : Account} (hx : x.serial = s.nextSerial) (hp : x.posted = 0)
    (hs : x.settled = 0) (hfirst : x.first = none) (hlast : x.last = none) (hcursor : x.cursor = none)
    (hl : s.ledgerOk) :
    ({ s with accounts := s.accounts.store slot x, nextSerial := s.nextSerial + 1 } : State).ledgerOk := by
  have follows : Follows s.nextSeq s
      { s with accounts := s.accounts.store slot x, nextSerial := s.nextSerial + 1 } :=
    ⟨Nat.le_refl _, Nat.le_succ _, fun d hd => .inl ⟨d, hd, rfl, rfl, rfl⟩⟩
  refine ⟨fun i b hb => ?_, fun e he => follows.lawful (hl.2 e he) rfl rfl rfl (.inl rfl) rfl⟩
  rcases Table.fetch_store_cases hb with ⟨-, rfl⟩ | ⟨-, hb⟩
  · have fresh : ∀ e ∈ s.log, e.serial ≠ b.serial := fun e he => by
      have := (hl.2 e he).1
      omega
    exact ⟨by rw [hp, ledgerSum_eq_zero fresh], by rw [hs, ledgerSum_eq_zero fresh],
      by simp [hfirst, hlast, hcursor]⟩
  · obtain ⟨hposted, hsettled, hchain⟩ := hl.1 i b hb
    exact ⟨hposted, hsettled, fun q hq => follows.ofChain (hchain q hq)⟩

end Sys2Proof.Machine
end

section
/-! PROOFS. Appends: the places of the log while entries join it, and the law of the ledger after one (04 R69 to
R74). -/

namespace Sys2Proof.Machine

variable {s t : State}

/-! ## Places (04 R73) -/

/-- A serial that no account carries. -/
theorem State.findSerial_none_iff (hw : s.tablesWf = true) (serial : Nat) :
    s.findSerial serial = none ↔ ∀ i a, s.accounts.fetch i = some a → a.serial ≠ serial := by
  constructor
  · exact fun h i a ha => by simpa using Table.fetch_of_search_none h ha
  · intro h
    cases hf : s.findSerial serial with
    | none => rfl
    | some x =>
      exact absurd (by simpa using Table.search_pred hf)
        (h x.1 x.2 (Table.fetch_of_search (State.accounts_wf hw) hf))

/-- Where accounts keep their serials, none is lost and none is new. -/
theorem Steady.findSerial_isNone (h : Steady s t) (hw : s.tablesWf = true) (serial : Nat) :
    (t.findSerial serial).isNone = (s.findSerial serial).isNone := by
  rw [Bool.eq_iff_iff, Option.isNone_iff_eq_none, Option.isNone_iff_eq_none,
    State.findSerial_none_iff (h.tablesWf hw), State.findSerial_none_iff hw]
  constructor
  · intro hs i a ha
    obtain ⟨b, hb, hab⟩ := h.accounts.onto i a ha
    exact hab.serial ▸ hs i b hb
  · intro hs i b hb
    obtain ⟨a, ha, hab⟩ := h.accounts.back i b hb
    exact hab.serial ▸ hs i a ha

/-- An entry is reclaimable still where its serial and state are as they were. -/
theorem Steady.reclaimable (h : Steady s t) (hw : s.tablesWf = true) {e d : Entry} (hserial : d.serial = e.serial)
    (hstate : d.state = e.state) : t.reclaimable d = s.reclaimable e := by
  rw [State.reclaimable, State.reclaimable, hserial, hstate, h.findSerial_isNone hw]

/-- The entry that leaves a full log was reclaimable, where there is a place. -/
theorem makePlace_cases (hp : 1 ≤ s.places) :
    (s.log.length < Config.logPlaces ∧ makePlace s.log = s.log) ∨
      ∃ d, s.log = d :: makePlace s.log ∧ s.reclaimable d = true ∧ Config.logPlaces ≤ s.log.length := by
  by_cases hl : Config.logPlaces ≤ s.log.length
  · refine .inr ?_
    rw [makePlace, if_pos hl]
    unfold State.places at hp
    rw [Nat.sub_eq_zero_of_le hl, Nat.zero_add] at hp
    cases hlog : s.log with
    | nil => rw [hlog] at hl; exact absurd hl (by decide)
    | cons d rest =>
      refine ⟨d, rfl, ?_, hlog ▸ hl⟩
      by_contra hd
      rw [hlog, List.takeWhile_cons_of_neg hd] at hp
      exact absurd hp (by decide)
  · exact .inl ⟨Nat.lt_of_not_le hl, if_neg hl⟩

theorem makePlace_subset (log : List Entry) : makePlace log ⊆ log := by
  unfold makePlace
  split
  · exact List.drop_subset 1 log
  · exact fun _ h => h

/-- The entry that an append writes: the next sequence, POSTED, on its account and without a link, at the present time
(04 R69 to R72). -/
def State.written (s : State) (a : Account) (e : Entry) : Entry :=
  { e with
    seq := s.nextSeq, state := .posted, serial := a.serial, link := none, time := s.shipTime, day := s.shipDay }

/-- An append, written out: the log, the counter and the account alone. -/
theorem State.post_some {slot : Nat} {a : Account} (ha : s.accounts.fetch slot = some a) (e : Entry) :
    s.post slot e = { s with
      log := linkFrom (makePlace s.log) a.last s.nextSeq ++ [s.written a e]
      nextSeq := s.nextSeq + 1
      accounts := s.accounts.store slot (a.joined s.nextSeq e.signed) } := by
  simp only [State.post, ha, State.written]

theorem length_takeWhile_append_ge {α : Type} (p : α → Bool) (l m : List α) :
    (l.takeWhile p).length ≤ ((l ++ m).takeWhile p).length := by
  rw [List.takeWhile_append]
  split
  · rw [List.length_append, ‹(l.takeWhile p).length = l.length›]; exact Nat.le_add_right _ _
  · exact Nat.le_refl _

/-- An append takes one place at most. -/
theorem post_places (hw : s.tablesWf = true) {k : Nat} (hp : k + 1 ≤ s.places) {slot : Nat} {a : Account}
    (ha : s.accounts.fetch slot = some a) (e : Entry) : k ≤ (s.post slot e).places := by
  have steady := Steady.post s slot e
  obtain ⟨f, hf, hkeep, hlink⟩ := linkFrom_map a.last s.nextSeq
  have same : ∀ d, (s.post slot e).reclaimable (f d) = s.reclaimable d := fun d => by
    by_cases hd : a.last = some d.seq
    · rw [hlink d hd]; exact steady.reclaimable hw rfl rfl
    · rw [hkeep d hd]; exact steady.reclaimable hw rfl rfl
  have run : ((makePlace s.log).takeWhile s.reclaimable).length ≤
      ((s.post slot e).log.takeWhile (s.post slot e).reclaimable).length := by
    calc _ = (((makePlace s.log).map f).takeWhile (s.post slot e).reclaimable).length := by
          rw [List.takeWhile_map, List.length_map]
          congr 2
          exact funext (fun d => (same d).symm)
      _ ≤ _ := by
          rw [State.post_some ha e]
          dsimp only
          rw [hf]
          exact length_takeWhile_append_ge _ _ _
  have len : (s.post slot e).log.length = (makePlace s.log).length + 1 := by
    rw [State.post_some ha e]
    dsimp only
    rw [hf, List.length_append, List.length_map, List.length_singleton]
  unfold State.places at hp ⊢
  rcases makePlace_cases (Nat.le_trans (Nat.le_add_left 1 k) hp) with ⟨hfree, hm⟩ | ⟨d, hm, hd, hfull⟩
  · rw [hm] at run len
    omega
  · rw [hm, List.takeWhile_cons_of_pos hd, List.length_cons, List.length_cons] at hp
    rw [hm, List.length_cons] at hfull
    omega

/-! ## The ledger after an append (04 R70, R72) -/

theorem ledgerSum_linkFrom (log : List Entry) (last : Option Nat) (seq serial : Nat) (st : EntryState) :
    ledgerSum (linkFrom log last seq) serial st = ledgerSum log serial st := by
  obtain ⟨f, hf, hkeep, hlink⟩ := linkFrom_map last seq
  rw [hf, ledgerSum_eq, ledgerSum_eq, List.map_map]
  congr 1
  refine List.map_congr_left (fun d _ => ?_)
  by_cases hd : last = some d.seq
  · rw [Function.comp, hlink d hd]; rfl
  · rw [Function.comp, hkeep d hd]

/-- What leaves a full log is no account's. -/
theorem ledgerSum_makePlace (hw : s.tablesWf = true) (hp : 1 ≤ s.places) {i : Nat} {a : Account}
    (ha : s.accounts.fetch i = some a) (st : EntryState) :
    ledgerSum (makePlace s.log) a.serial st = ledgerSum s.log a.serial st := by
  rcases makePlace_cases hp with ⟨-, hm⟩ | ⟨d, hm, hd, -⟩
  · rw [hm]
  · rw [State.reclaimable, Bool.and_eq_true, Option.isNone_iff_eq_none, State.findSerial_none_iff hw] at hd
    have hne : ¬ (d.serial = a.serial ∧ d.state = st) := fun h => hd.2 i a ha h.1.symm
    conv_rhs => rw [hm, ledgerSum_cons]
    rw [Entry.weight, if_neg hne, Int.zero_add]

/-- What makes an entry fit to join the log while a charge of sequences below `n` is posted (04 R70, R79). -/
structure Entry.Fits (s : State) (n : Nat) (e : Entry) : Prop where
  origin : e.origin ≠ none → e.kind = .charge
  next : s.nextSeq < n → e.kind = .charge
  split : ∀ x, e.split = some x → x.first + x.count ≤ n ∧ ∀ d ∈ s.log, x.first ≤ d.seq → d.kind = .charge

/-- Every entry after an append is the new one, or is an old one with its link as it was, or as the append wrote it. -/
theorem mem_post_log {slot : Nat} {a : Account} (ha : s.accounts.fetch slot = some a) {e d : Entry}
    (hd : d ∈ (s.post slot e).log) : d = s.written a e ∨ ∃ c ∈ s.log, d = c ∨
      (a.last = some c.seq ∧ d = { c with link := some s.nextSeq }) := by
  obtain ⟨f, hf, hkeep, hlink⟩ := linkFrom_map a.last s.nextSeq
  rw [State.post_some ha e] at hd
  dsimp only at hd
  rw [hf, List.mem_append, List.mem_singleton, List.mem_map] at hd
  rcases hd with ⟨c, hc, rfl⟩ | rfl
  · refine .inr ⟨c, makePlace_subset s.log hc, ?_⟩
    by_cases hl : a.last = some c.seq
    · exact .inr ⟨hl, hlink c hl⟩
    · exact .inl (hkeep c hl)
  · exact .inl rfl

/-- The chain of an account that an entry joins names that entry, or what it named (04 R72). -/
theorem Account.joined_chain {a : Account} {seq q : Nat} {x : Int} (h : (a.joined seq x).first = some q ∨
    (a.joined seq x).last = some q ∨ (a.joined seq x).cursor = some q) :
    q = seq ∨ a.first = some q ∨ a.last = some q ∨ a.cursor = some q := by
  rcases h with h | h | h
  · cases hfirst : a.first with
    | none => simp only [Account.joined, hfirst, Option.getD_none, Option.some.injEq] at h; exact .inl h.symm
    | some r => simp only [Account.joined, hfirst, Option.getD_some] at h; exact .inr (.inl h)
  · exact .inl (Option.some.inj h).symm
  · simp only [Account.joined] at h
    split at h
    · exact .inl (Option.some.inj h).symm
    · exact .inr (.inr (.inr h))

/-- The law of the ledger after an append. -/
theorem post_ledgerTo {n slot : Nat} {a : Account} {e : Entry} (hw : s.tablesWf = true) (hf : s.foliosOk)
    (hlog : s.logOk = true) (hp : 1 ≤ s.places) (ha : s.accounts.fetch slot = some a) (he : e.Fits s n)
    (hl : s.ledgerTo n) : (s.post slot e).ledgerTo n := by
  obtain ⟨-, -, honce, hlists⟩ := hf
  have follows : Follows n s (s.post slot e) := by
    refine ⟨by rw [State.post_some ha]; exact Nat.le_succ _, by rw [State.post_some ha], fun d hd => ?_⟩
    rcases mem_post_log ha hd with rfl | ⟨c, hc, rfl | ⟨-, rfl⟩⟩
    · exact .inr ⟨Nat.le_refl _, he.next⟩
    · exact .inl ⟨d, hc, rfl, rfl, rfl⟩
    · exact .inl ⟨c, hc, rfl, rfl, rfl⟩
  have next : (s.post slot e).ofChain a.serial s.nextSeq := by
    refine ⟨by rw [State.post_some ha]; exact Nat.lt_succ_self _, fun d hd hq => ?_⟩
    rcases mem_post_log ha hd with rfl | ⟨c, hc, rfl | ⟨-, rfl⟩⟩
    · rfl
    · exact absurd (State.seq_lt hlog hc) (by omega)
    · exact absurd (State.seq_lt hlog hc) (by dsimp only at hq; omega)
  have sum : ∀ i b, s.accounts.fetch i = some b → ∀ st, ledgerSum (s.post slot e).log b.serial st =
      ledgerSum s.log b.serial st + (s.written a e).weight b.serial st := fun i b hb st => by
    rw [State.post_some ha e]
    dsimp only
    rw [ledgerSum_append, ledgerSum_linkFrom, ledgerSum_makePlace hw hp hb, ledgerSum_cons]
    simp [ledgerSum]
  refine ⟨fun i b hb => ?_, fun d hd => ?_⟩
  · have hb' := hb
    rw [State.post_some ha e] at hb'
    rcases Table.fetch_store_cases hb' with ⟨rfl, rfl⟩ | ⟨hi, hb'⟩
    · obtain ⟨hposted, hsettled, hchain⟩ := hl.1 i a ha
      refine ⟨?_, ?_, fun q hq => ?_⟩
      · show a.posted + e.signed = _
        rw [show (a.joined s.nextSeq e.signed).serial = a.serial from rfl, sum i a ha, hposted]
        simp [Entry.weight, State.written, Entry.signed]
      · show a.settled = _
        rw [show (a.joined s.nextSeq e.signed).serial = a.serial from rfl, sum i a ha, hsettled]
        simp [Entry.weight, State.written]
      · show (s.post i e).ofChain a.serial q
        rcases Account.joined_chain hq with rfl | hq
        · exact next
        · exact follows.ofChain (hchain q hq)
    · obtain ⟨hposted, hsettled, hchain⟩ := hl.1 i b hb'
      have hne : a.serial ≠ b.serial := fun h => hi (honce i b slot a hb' ha (.inr h.symm))
      refine ⟨?_, ?_, fun q hq => follows.ofChain (hchain q hq)⟩
      · rw [sum i b hb', hposted]; simp [Entry.weight, State.written, hne]
      · rw [sum i b hb', hsettled]; simp [Entry.weight, State.written]
  · rcases mem_post_log ha hd with rfl | ⟨c, hc, rfl | ⟨hlast, rfl⟩⟩
    · refine ⟨?_, he.origin, by simp [State.written], fun x hx => ?_⟩
      · obtain ⟨hserial, -⟩ := hlists slot a ha
        exact Nat.lt_of_lt_of_le hserial follows.nextSerial
      · obtain ⟨hle, hgroup⟩ := he.split x hx
        refine ⟨hle, fun y hy hlo hhi => ?_⟩
        rcases follows.log y hy with ⟨z, hz, hseq, -, hkind⟩ | ⟨-, hkind⟩
        · rw [← hkind]; exact hgroup z hz (by omega)
        · exact hkind (by omega)
    · exact follows.lawful (hl.2 d hc) rfl rfl rfl (.inl rfl) rfl
    · refine follows.lawful (hl.2 c hc) rfl rfl rfl (.inr fun q hq => ?_) rfl
      obtain ⟨-, -, hchain⟩ := hl.1 slot a ha
      have hown : c.serial = a.serial := (hchain c.seq (.inr (.inl hlast))).2 c hc rfl
      cases hq
      dsimp only
      rw [hown]; exact next

/-! ## Appends one after the other -/

/-- A state in which `k` entries may join the log, one after the other, while a charge of sequences below `n` is
posted. -/
structure Posts (n k : Nat) (s : State) : Prop where
  wf : s.tablesWf = true
  folios : s.foliosOk
  log : s.logOk = true
  places : k ≤ s.places
  room : s.nextSeq + k ≤ 4294967296
  ledger : s.ledgerTo n

/-- A log that does not refuse `k` entries has the places and the sequences (04 R71, R74). -/
theorem places_of_logRefusal {k : Nat} (h : s.logRefusal k = none) : k ≤ s.places := by
  unfold State.logRefusal at h
  split at h
  · cases h
  split at h
  · cases h
  · omega

theorem Posts.of_logRefusal {n k : Nat} (hw : s.tablesWf = true) (hf : s.foliosOk) (hlog : s.logOk = true)
    (hl : s.ledgerOk) (hr : s.logRefusal k = none) (hn : s.nextSeq ≤ n) : Posts n k s :=
  ⟨hw, hf, hlog, places_of_logRefusal hr, nextSeq_of_logRefusal hr, State.ledgerTo_mono hl hn⟩

theorem Posts.post {n k slot : Nat} {a : Account} {e : Entry} (h : Posts n (k + 1) s)
    (ha : s.accounts.fetch slot = some a) (he : e.Fits s n) : Posts n k (s.post slot e) where
  wf := (Steady.post s slot e).tablesWf h.wf
  folios := (Steady.post s slot e).foliosOk h.folios
  log := (post_logOk (by have := h.room; omega) h.log).1
  places := post_places h.wf h.places ha e
  room := by have := h.room; rw [State.post_some ha e]; dsimp only; omega
  ledger := post_ledgerTo h.wf h.folios h.log (Nat.le_trans (Nat.le_add_left 1 k) h.places) ha he h.ledger

theorem Posts.spendAt {n k : Nat} (h : Posts n k s) (holder amount : Nat) : Posts n k (s.spendAt holder amount) where
  wf := (Steady.spendAt s holder amount).tablesWf h.wf
  folios := (Steady.spendAt s holder amount).foliosOk h.folios
  log := h.log
  places := h.places
  room := h.room
  ledger := h.ledger

/-- One entry posted outside a charge of several. -/
theorem Posts.ledgerOk_of_one {e : Entry} (h : Posts s.nextSeq 1 s) (slot : Nat)
    (hkind : e.origin ≠ none → e.kind = .charge) (hsplit : e.split = none) : (s.post slot e).ledgerOk := by
  cases ha : s.accounts.fetch slot with
  | none => simp only [State.post, ha]; exact h.ledger
  | some a =>
    have fits : e.Fits s s.nextSeq :=
      ⟨hkind, fun hlt => absurd hlt (Nat.lt_irrefl _), fun x hx => by rw [hsplit] at hx; cases hx⟩
    refine State.ledgerTo_mono (h.post ha fits).ledger ?_
    rw [State.post_some ha e]
    exact Nat.le_succ _

/-! ## ADJUST, HOLD COMPLETE and CHARGE (04 R79, R85, R92) -/

theorem serveAdjust_ledgerOk (folio : BitVec 32) (kind : Byte) (amount : BitVec 32) (hw : s.tablesWf = true)
    (hf : s.foliosOk) (hlog : s.logOk = true) (hl : s.ledgerOk) : (serveAdjust folio kind amount s).1.ledgerOk := by
  rcases serveAdjust_cases folio kind amount s with e | ⟨why, -, e⟩ | ⟨k, slot, a, -, -, -, -, hr, e⟩ <;> rw [e]
  · exact hl
  · exact (Calm.noteLogFull s why).carries.ledgerOk hl
  · exact (Posts.of_logRefusal hw hf hlog hl hr (Nat.le_refl _)).ledgerOk_of_one slot (fun h => absurd rfl h) rfl

/-- A hold that ends leaves every serial with its account, and so the places of the log (04 R73, R86). -/
theorem endHold_places (s : State) (slot : Nat) (h : Hold) : (s.endHold slot h).places = s.places := by
  have serials : ∀ serial, ((s.endHold slot h).findSerial serial).isNone = (s.findSerial serial).isNone := by
    intro serial
    have same : ((s.endHold slot h).findSerial serial).map (·.1) = (s.findSerial serial).map (·.1) :=
      Table.search_modify_slot _ _ _ _ (fun _ => rfl)
    have none := congrArg Option.isNone same
    rwa [Option.isNone_map, Option.isNone_map] at none
  have reclaimable : (s.endHold slot h).reclaimable = s.reclaimable := by
    funext e
    rw [State.reclaimable, State.reclaimable, serials]
  rw [State.places, State.places, reclaimable]
  rfl

/-- HOLD COMPLETE ends its hold and posts one charge (04 R85). -/
theorem serveHoldComplete_ledgerOk (p : Port) (slot reuse : Byte) (gross : BitVec 32) (hw : s.tablesWf = true)
    (hf : s.foliosOk) (hlog : s.logOk = true) (hl : s.ledgerOk) :
    (serveHoldComplete p slot reuse gross s).1.ledgerOk := by
  rcases serveHoldComplete_cases p slot reuse gross s with e | ⟨why, -, e⟩ | ⟨h, hh, hr, e⟩ <;> rw [e]
  · exact hl
  · exact (Calm.noteLogFull s why).carries.ledgerOk hl
  · have ended : Posts s.nextSeq 1 (s.endHold slot.toNat h) := {
      wf := State.endHold_tablesWf (live_of_liveHold hh) hw
      folios := moveHeld_foliosOk _ _ hf
      log := hlog
      places := by rw [endHold_places]; exact places_of_logRefusal hr
      room := show s.nextSeq + 1 ≤ _ from nextSeq_of_logRefusal hr
      ledger := (Carries.endHold s slot.toNat h).ledgerOk hl }
    exact ended.ledgerOk_of_one h.account (fun _ => rfl) rfl

/-- Shares posted one after the other keep the law of the ledger: from the first sequence of the charge on, the log
holds charges alone, and their groups end where the charge does. -/
theorem postShares_ledgerTo {n : Nat} (p : Port) (outlet cls : Nat) (pr : Priced) (first : Nat)
    (hn : first + pr.k ≤ n) : ∀ (shares : List Share) (i : Nat) (s : State), Posts n shares.length s →
      (∀ y ∈ shares, (s.accounts.fetch y.account).isSome = true) →
      (∀ d ∈ s.log, first ≤ d.seq → d.kind = .charge) →
      (s.postShares p outlet cls pr first shares i).1.ledgerTo n := by
  intro shares
  induction shares with
  | nil => exact fun _ _ h _ _ => h.ledger
  | cons y rest ih =>
    intro i s h hs hc
    obtain ⟨a, ha⟩ := Option.isSome_iff_exists.mp (hs y List.mem_cons_self)
    have fits : (shareEntry p outlet cls pr first i y).Fits s n := by
      refine ⟨fun _ => rfl, fun _ => rfl, fun x hx => ?_⟩
      rcases Decidable.em (2 ≤ pr.k) with h2 | h2
      · simp only [shareEntry, Entry.draft, if_pos h2, Option.some.injEq] at hx
        rw [← hx]
        exact ⟨hn, hc⟩
      · simp only [shareEntry, Entry.draft, if_neg h2] at hx
        cases hx
    refine ih (i + 1) _ ((h.post ha fits).spendAt _ _) (fun z hz => ?_) (fun d hd hfirst => ?_)
    · rw [post_share ha]
      exact shareState_isSome (hs z (List.mem_cons_of_mem y hz))
    · rcases mem_post_log ha hd with rfl | ⟨c, hcl, rfl | ⟨-, rfl⟩⟩
      · rfl
      · exact hc d hcl hfirst
      · exact hc c hcl hfirst

/-- A charge posts its shares in places that it has (04 R78, R79). -/
theorem serveCharge_ledgerOk (p : Port) (outlet : BitVec 16) (cls : Byte) (unit : BitVec 32) (qty : Byte)
    (cards : List Presentation) (hw : s.tablesWf = true) (hf : s.foliosOk) (hlog : s.logOk = true) (hl : s.ledgerOk) :
    (serveCharge p outlet cls unit qty cards s).1.ledgerOk := by
  rcases serveCharge_cases p outlet cls unit qty cards s with
    e | ⟨card, r, e⟩ | ⟨why, -, e⟩ | ⟨shares, pr, ha, hr, e⟩ <;> rw [e]
  · exact hl
  · exact (Calm.declineEffect s card r).carries.ledgerOk hl
  · exact (Calm.noteLogFull s why).carries.ledgerOk hl
  · have h1 : 1 ≤ cards.length := by
      cases cards with
      | nil => cases ha
      | cons x rest => exact Nat.succ_le_succ (Nat.zero_le _)
    obtain ⟨hlen, -⟩ := passed_shares ha
    obtain ⟨-, hk⟩ := passed_amounts ha h1
    have start : Posts (s.nextSeq + pr.k) shares.length s := by
      rw [hlen]
      exact .of_logRefusal hw hf hlog hl hr (Nat.le_add_right _ _)
    have final := postShares_ledgerTo p outlet.toNat cls.toNat pr s.nextSeq (Nat.le_refl _) shares 1 s start
      (passed_accounts ha) (fun d hd hq => absurd (State.seq_lt hlog hd) (Nat.not_lt.mpr hq))
    rw [State.ledgerOk_iff, postShares_nextSeq _ _ _ _ _ _ _ _ (passed_accounts ha), hlen, ← hk]
    exact final

end Sys2Proof.Machine
end

section
/-! PROOFS. Entries that change their state: voids and settlement walks keep the law of the ledger (04 R72, R90; 05
R100). -/

namespace Sys2Proof.Machine

variable {s t : State}

/-! ## One entry in another state -/

theorem Entry.mark_weight (e : Entry) (st : EntryState) (serial : Nat) (st' : EntryState) :
    ({ e with state := st } : Entry).weight serial st' = if e.serial = serial ∧ st = st' then e.signed else 0 := rfl

theorem mem_map_mark {log : List Entry} {q : Nat} {st : EntryState} {d : Entry} (h : d ∈ log.map (Entry.mark q st)) :
    ∃ c ∈ log, d = c ∨ d = { c with state := st } := by
  obtain ⟨c, hc, rfl⟩ := List.mem_map.mp h
  refine ⟨c, hc, ?_⟩
  unfold Entry.mark
  split
  · exact .inr rfl
  · exact .inl rfl

/-- What a change of one entry's state does to an account: the totals take the entry's change, and the chain names what
its log allows (04 R72). -/
structure Account.Marked (s : State) (e : Entry) (st : EntryState) (a b : Account) : Prop where
  serial : b.serial = a.serial
  posted : b.posted = a.posted - e.weight a.serial .posted + ({ e with state := st } : Entry).weight a.serial .posted
  settled : b.settled = a.settled - e.weight a.serial .settled +
    ({ e with state := st } : Entry).weight a.serial .settled
  chain : ∀ q, b.first = some q ∨ b.last = some q ∨ b.cursor = some q → s.ofChain a.serial q

/-- One entry of the log takes another state, and each account's totals take the change. -/
structure Marks (s : State) (e : Entry) (st : EntryState) (t : State) : Prop where
  log : t.log = s.log.map (Entry.mark e.seq st)
  nextSeq : t.nextSeq = s.nextSeq
  nextSerial : t.nextSerial = s.nextSerial
  accounts : ∀ i b, t.accounts.fetch i = some b → ∃ a, s.accounts.fetch i = some a ∧ a.Marked s e st b

theorem Marks.logOk {e : Entry} {st : EntryState} (h : Marks s e st t) (hlog : s.logOk = true) : t.logOk = true := by
  refine logOk_of_seqs ?_ h.nextSeq hlog
  rw [h.log, List.map_map]
  refine List.map_congr_left (fun d _ => ?_)
  rw [Function.comp, Entry.mark]
  split <;> rfl

theorem Marks.ledgerOk {e : Entry} {st : EntryState} (h : Marks s e st t) (he : e ∈ s.log) (hlog : s.logOk = true)
    (hl : s.ledgerOk) : t.ledgerOk := by
  have follows : Follows s.nextSeq s t := by
    refine ⟨Nat.le_of_eq h.nextSeq.symm, Nat.le_of_eq h.nextSerial.symm, fun d hd => .inl ?_⟩
    obtain ⟨c, hc, rfl | rfl⟩ := mem_map_mark (h.log ▸ hd)
    · exact ⟨d, hc, rfl, rfl, rfl⟩
    · exact ⟨c, hc, rfl, rfl, rfl⟩
  rw [State.ledgerOk_iff, h.nextSeq]
  refine ⟨fun i b hb => ?_, fun d hd => ?_⟩
  · obtain ⟨a, ha, hab⟩ := h.accounts i b hb
    obtain ⟨hposted, hsettled, -⟩ := hl.1 i a ha
    unfold State.balanced
    rw [hab.posted, hab.settled, hab.serial, h.log, ledgerSum_mark (State.seqs_nodup hlog) he,
      ledgerSum_mark (State.seqs_nodup hlog) he, hposted, hsettled]
    exact ⟨rfl, rfl, fun q hq => follows.ofChain (hab.chain q hq)⟩
  · obtain ⟨c, hc, rfl | rfl⟩ := mem_map_mark (h.log ▸ hd)
    · exact follows.lawful (hl.2 d hc) rfl rfl rfl (.inl rfl) rfl
    · exact follows.lawful (hl.2 c hc) rfl rfl rfl (.inl rfl) rfl

/-! ## Voids (04 R90) -/

/-- An account of another serial, or one that loses a POSTED charge by its void. -/
theorem Account.Marked.of_void {e : Entry} {a b : Account} (hposted : e.state = .posted) (hserial : b.serial = a.serial)
    (hp : b.posted = a.posted - if e.serial = a.serial then e.signed else 0) (hs : b.settled = a.settled)
    (hchain : ∀ q, b.first = some q ∨ b.last = some q ∨ b.cursor = some q → s.ofChain a.serial q) :
    a.Marked s e .voided b := by
  refine ⟨hserial, ?_, ?_, hchain⟩
  · rw [hp, Entry.mark_weight, Entry.weight, hposted]; simp
  · rw [hs, Entry.mark_weight, Entry.weight, hposted]; simp

theorem voidEntry_marks {e : Entry} (hw : s.tablesWf = true) (hf : s.foliosOk) (hl : s.ledgerOk)
    (hposted : e.state = .posted) (hkind : e.kind = .charge) : Marks s e .voided (s.voidEntry e) := by
  obtain ⟨-, -, honce, -⟩ := hf
  have signed : e.signed = e.amount := by rw [Entry.signed, hkind]
  refine ⟨rfl, rfl, rfl, fun i b hb => ?_⟩
  cases hs : s.findSerial e.serial with
  | none =>
    simp only [State.voidEntry, hs] at hb
    have hne := (State.findSerial_none_iff hw e.serial).mp hs i b hb
    exact ⟨b, hb, .of_void hposted rfl (by simp [Ne.symm hne]) rfl (chain_of_ledgerOk hl hb)⟩
  | some x =>
    obtain ⟨slot, c⟩ := x
    have hc := Table.fetch_of_search (State.accounts_wf hw) hs
    have hserial : c.serial = e.serial := by simpa using Table.search_pred hs
    simp only [State.voidEntry, hs, Table.fetch_modify] at hb
    split at hb
    · rename_i hi
      subst hi
      rw [hc] at hb
      cases hb
      have chain := chain_of_ledgerOk hl hc
      exact ⟨c, hc, .of_void hposted rfl (by rw [if_pos hserial.symm, signed]) rfl chain⟩
    · rename_i hi
      have hne : e.serial ≠ b.serial := fun h => hi (honce i b slot c hb hc (.inr (h.symm.trans hserial.symm)))
      exact ⟨b, hb, .of_void hposted rfl (by simp [hne]) rfl (chain_of_ledgerOk hl hb)⟩

/-- A group of POSTED charges of the log is voided, entry after entry. -/
theorem voidAll_ledgerOk : ∀ (g : List Entry) (s : State), s.tablesWf = true → s.foliosOk → s.logOk = true →
    s.ledgerOk → (g.map (·.seq)).Nodup → (∀ e ∈ g, e ∈ s.log ∧ e.state = .posted ∧ e.kind = .charge) →
    (s.voidAll g).ledgerOk := by
  intro g
  induction g with
  | nil => exact fun _ _ _ _ h _ _ => h
  | cons e rest ih =>
    intro s hw hf hlog hl hn hg
    obtain ⟨he, hposted, hkind⟩ := hg e List.mem_cons_self
    rw [List.map_cons, List.nodup_cons] at hn
    obtain ⟨hne, hn⟩ := hn
    have marks := voidEntry_marks hw hf hl hposted hkind
    have steady := Steady.voidEntry s e
    refine ih (s.voidEntry e) (steady.tablesWf hw) (steady.foliosOk hf) (marks.logOk hlog)
      (marks.ledgerOk he hlog hl) hn (fun d hd => ?_)
    obtain ⟨hmem, hrest⟩ := hg d (List.mem_cons_of_mem e hd)
    refine ⟨?_, hrest⟩
    rw [marks.log]
    exact List.mem_map.mpr ⟨d, hmem, if_neg (fun hq => hne (List.mem_map.mpr ⟨d, hd, hq⟩))⟩

/-- A gathered group holds the entries of its sequences, each of the log and POSTED. -/
theorem State.of_gatherPosted : ∀ {qs : List Nat} {g : List Entry}, s.gatherPosted qs = some g →
    g.map (·.seq) = qs ∧ ∀ e ∈ g, e ∈ s.log ∧ e.state = .posted := by
  intro qs
  induction qs with
  | nil => intro g h; cases h; exact ⟨rfl, nofun⟩
  | cons q qs ih =>
    intro g h
    simp only [State.gatherPosted] at h
    split at h
    · cases h
    rename_i e he
    obtain ⟨hmem, hseq⟩ := State.of_findEntry he
    split at h
    · rename_i hposted
      obtain ⟨rest, hrest, rfl⟩ := Option.map_eq_some_iff.mp h
      obtain ⟨hseqs, hall⟩ := ih hrest
      exact ⟨by rw [List.map_cons, hseq, hseqs], List.forall_mem_cons.mpr ⟨⟨hmem, hposted⟩, hall⟩⟩
    · cases h

theorem State.gather_of_voidGroup {e : Entry} {g : List Entry} (h : s.voidGroup e = .ok g) :
    s.gatherPosted e.groupSeqs = some g := by
  unfold State.voidGroup at h
  split at h
  · cases h
  split at h
  · cases h
  split at h
  · cases h
  · cases h; assumption

theorem Entry.groupSeqs_nodup (e : Entry) : e.groupSeqs.Nodup := by
  unfold Entry.groupSeqs
  split
  · exact List.nodup_singleton _
  · exact List.nodup_range.map (fun _ _ h => Nat.add_left_cancel h)

/-- The group of an entry with an origin is of charges (04 R70). -/
theorem voidGroup_ledgerOk {e : Entry} {g : List Entry} (hw : s.tablesWf = true) (hf : s.foliosOk)
    (hlog : s.logOk = true) (hl : s.ledgerOk) (he : e ∈ s.log) (horigin : e.origin ≠ none)
    (hg : s.voidGroup e = .ok g) : (s.voidAll g).ledgerOk := by
  obtain ⟨hseqs, hall⟩ := State.of_gatherPosted (State.gather_of_voidGroup hg)
  obtain ⟨-, hkind, -, hsplit⟩ := hl.2 e he
  refine voidAll_ledgerOk g s hw hf hlog hl (by rw [hseqs]; exact e.groupSeqs_nodup) (fun d hd => ?_)
  obtain ⟨hmem, hposted⟩ := hall d hd
  refine ⟨hmem, hposted, ?_⟩
  have hq : d.seq ∈ e.groupSeqs := hseqs ▸ List.mem_map.mpr ⟨d, hd, rfl⟩
  cases hx : e.split with
  | none =>
    simp only [Entry.groupSeqs, hx, List.mem_singleton] at hq
    rw [List.inj_on_of_nodup_map (State.seqs_nodup hlog) hmem he hq]
    exact hkind horigin
  | some x =>
    simp only [Entry.groupSeqs, hx, List.mem_map, List.mem_range] at hq
    obtain ⟨i, hi, hq⟩ := hq
    exact (hsplit x hx).2 d hmem (by omega) (by omega)

theorem serveVoid_ledgerOk (p : Port) (seq : BitVec 32) (outlet : BitVec 16) (hw : s.tablesWf = true)
    (hf : s.foliosOk) (hlog : s.logOk = true) (hl : s.ledgerOk) : (serveVoid p seq outlet s).1.ledgerOk := by
  unfold serveVoid
  split
  · exact hl
  split
  · exact hl
  rename_i e he
  split
  · exact hl
  split
  · exact hl
  rename_i o ho
  split
  · exact hl
  split
  · exact hl
  split
  · exact hl
  · exact voidGroup_ledgerOk hw hf hlog hl (State.of_findEntry he).1 (by rw [ho]; exact nofun) ‹_›

/-- A review finds an entry of the log. -/
theorem State.mem_of_reviewed {serial : Nat} {cursor : Option Nat} {a : Account} {e : Entry}
    (h : s.reviewed serial cursor = some (a, e)) : e ∈ s.log := by
  unfold State.reviewed at h
  split at h
  · rename_i hfind
    cases h
    obtain ⟨q, -, hq⟩ := Option.bind_eq_some_iff.mp hfind
    exact (State.of_findEntry hq).1
  · cases h
  · cases h

theorem reviewGroup_origin {a : Account} {e : Entry} {g : List Entry} (h : s.reviewGroup a e = .ok g) :
    e.origin ≠ none := by
  unfold State.reviewGroup at h
  split at h
  · cases h
  split at h
  · cases h
  split at h
  · cases h
  · assumption

theorem serveWindowAct_ledgerOk (p : Port) (action : Byte) (hw : s.tablesWf = true) (hf : s.foliosOk)
    (hlog : s.logOk = true) (hl : s.ledgerOk) : (serveWindowAct p action s).1.ledgerOk := by
  unfold serveWindowAct
  split
  · split
    · exact hl
    · split
      · exact hl
      · rename_i hr
        unfold State.act
        split
        · exact (Carries.of_same rfl rfl rfl rfl).ledgerOk hl
        · split
          · exact hl
          · rename_i hg
            exact (Carries.of_same rfl rfl rfl rfl).ledgerOk
              (voidGroup_ledgerOk hw hf hlog hl (State.mem_of_reviewed hr) (reviewGroup_origin hg) (reviewGroup_ok hg))
  · exact hl

/-! ## Settlement walks (05 R100) -/

/-- One entry of the chain settled: its amount moves between the totals of its account. -/
theorem settling_marks {slot : Nat} {a : Account} {e : Entry} (hf : s.foliosOk) (hl : s.ledgerOk)
    (ha : s.accounts.fetch slot = some a) (he : e ∈ s.log) (hown : e.serial = a.serial) (hposted : e.state = .posted) :
    Marks s e .settled { s with
      log := settleIn s.log e.seq
      accounts := s.accounts.store slot { a.settling e with cursor := e.link } } := by
  obtain ⟨-, -, honce, -⟩ := hf
  refine ⟨rfl, rfl, rfl, fun i b hb => ?_⟩
  rcases Table.fetch_store_cases hb with ⟨rfl, rfl⟩ | ⟨hi, hb⟩
  · have posted : e.weight a.serial .posted = e.signed := if_pos ⟨hown, hposted⟩
    have unsettled : e.weight a.serial .settled = 0 := if_neg (fun h => by rw [hposted] at h; cases h.2)
    have left : ({ e with state := .settled } : Entry).weight a.serial .posted = 0 := if_neg (fun h => by cases h.2)
    have joined : ({ e with state := .settled } : Entry).weight a.serial .settled = e.signed := if_pos ⟨hown, rfl⟩
    refine ⟨a, ha, rfl, ?_, ?_, fun q hq => ?_⟩
    · rw [posted, left, Int.add_zero]; rfl
    · rw [unsettled, joined, Int.sub_zero]; rfl
    · rcases hq with hq | hq | hq
      · exact chain_of_ledgerOk hl ha q (.inl hq)
      · exact chain_of_ledgerOk hl ha q (.inr (.inl hq))
      · rw [← hown]; exact link_of_ledgerOk hl he q hq
  · have hne : e.serial ≠ b.serial := fun h => hi (honce i b slot a hb ha (.inr (h.symm.trans hown)))
    refine ⟨b, hb, rfl, ?_, ?_, (chain_of_ledgerOk hl hb)⟩
    · simp [Entry.weight, hne]
    · simp [Entry.weight, hne]

/-- The cursor of an account moved past an entry of its chain, or past the end. -/
theorem cursor_ledgerOk {slot : Nat} {a : Account} {c : Option Nat} (ha : s.accounts.fetch slot = some a)
    (hc : ∀ q, c = some q → s.ofChain a.serial q) (hl : s.ledgerOk) :
    (s.withAccount slot { a with cursor := c }).ledgerOk := by
  refine ⟨fun i b hb => ?_, hl.2⟩
  rcases Table.fetch_store_cases hb with ⟨rfl, rfl⟩ | ⟨-, hb⟩
  · obtain ⟨hposted, hsettled, hchain⟩ := hl.1 i a ha
    refine ⟨hposted, hsettled, fun q hq => ?_⟩
    rcases hq with hq | hq | hq
    · exact hchain q (.inl hq)
    · exact hchain q (.inr (.inl hq))
    · exact hc q hq
  · exact hl.1 i b hb

/-- What a walk leaves of a state whose account was written already is what it leaves of the state. -/
theorem Carries.walked (s : State) (slot : Nat) (log : List Entry) (a : Account) (w : Walk) (b : Account) :
    Carries (State.walked { s with log := log, accounts := s.accounts.store slot a } slot w b) (s.walked slot w b) := by
  refine ⟨rfl, rfl, rfl, fun i c hc => ⟨c, ?_, .refl c⟩⟩
  rcases Table.fetch_store_cases hc with ⟨rfl, rfl⟩ | ⟨hi, hc⟩
  · exact Table.fetch_store_same _ _ _
  · dsimp only [State.walked]
    rw [Table.fetch_store_ne _ _ hi, Table.fetch_store_ne _ _ hi]
    exact hc

theorem Carries.walked_as (s : State) (slot : Nat) (w : Walk) {a b : Account} (hab : a.Carried b) :
    Carries (s.walked slot w a) (s.walked slot w b) := by
  refine ⟨rfl, rfl, rfl, fun i c hc => ?_⟩
  rcases Table.fetch_store_cases hc with ⟨rfl, rfl⟩ | ⟨hi, hc⟩
  · exact ⟨a, Table.fetch_store_same _ _ _, hab⟩
  · exact ⟨c, (Table.fetch_store_ne _ _ hi).trans hc, .refl c⟩

/-- A walk of a chain keeps the law of the ledger, entry after entry. -/
theorem walk_ledgerOk (slot : Nat) : ∀ (fuel : Nat) (s : State) (a : Account) (passed : Nat), s.tablesWf = true →
    s.foliosOk → s.logOk = true → s.ledgerOk → s.accounts.fetch slot = some a → a.state = .settling →
    (s.walked slot (walk s.log a passed fuel) (walk s.log a passed fuel).account).ledgerOk := by
  intro fuel
  induction fuel with
  | zero =>
    intro s a _ _ _ _ hl ha _
    exact cursor_ledgerOk ha (fun q hq => chain_of_ledgerOk hl ha q (.inr (.inr hq))) hl
  | succ n ih =>
    intro s a passed hw hf hlog hl ha hs
    have steady : ∀ x y c (l : List Entry), Steady s { s with
        log := l, accounts := s.accounts.store slot { a with posted := x, settled := y, cursor := c } } :=
      fun x y c l => .of_accounts (.store .refl ha ⟨rfl, rfl, rfl, rfl, id, fun _ _ => hs⟩)
    have hchain := chain_of_ledgerOk hl ha
    simp only [walk]
    split
    · exact cursor_ledgerOk ha nofun hl
    rename_i e he
    obtain ⟨q, hq, hfind⟩ := Option.bind_eq_some_iff.mp he
    obtain ⟨hmem, rfl⟩ := State.of_findEntry hfind
    have hown : e.serial = a.serial := (hchain e.seq (.inr (.inr hq))).2 e hmem rfl
    split
    · have hlink : ∀ q, e.link = some q → s.ofChain a.serial q := hown ▸ link_of_ledgerOk hl hmem
      have next := steady a.posted a.settled e.link s.log
      exact (Carries.walked s slot s.log _ _ _).ledgerOk (ih (s.withAccount slot { a with cursor := e.link }) _ _
        (next.tablesWf hw) (next.foliosOk hf) hlog (cursor_ledgerOk ha hlink hl) (Table.fetch_store_same _ _ _) hs)
    split
    · rename_i hposted _
      have next := steady (a.posted - e.signed) (a.settled + e.signed) e.link (settleIn s.log e.seq)
      have marks := settling_marks hf hl ha hmem hown (Decidable.not_not.mp hposted)
      exact (Carries.walked s slot (settleIn s.log e.seq) _ _ _).ledgerOk (ih _ _ _
        (next.tablesWf hw) (next.foliosOk hf) (marks.logOk hlog) (marks.ledgerOk hmem hlog hl)
        (Table.fetch_store_same _ _ _) hs)
    · exact cursor_ledgerOk ha (fun q hq => hchain q (.inr (.inr hq))) hl

theorem serveSettleStep_ledgerOk (folio : BitVec 32) (hw : s.tablesWf = true) (hf : s.foliosOk) (hlog : s.logOk = true)
    (hl : s.ledgerOk) : (serveSettleStep folio s).1.ledgerOk := by
  unfold serveSettleStep
  split
  · exact hl
  rename_i slot a hfolio
  split
  · exact hl
  · exact hl
  rename_i hs
  have walked := walk_ledgerOk slot Config.settleStride s a 0 hw hf hlog hl (State.fetch_of_findFolio hw hfolio).1 hs
  dsimp only
  split
  · exact walked
  · exact walked
  · have settled := Carries.walked_as (a := (walk s.log a 0 Config.settleStride).account)
      (b := { (walk s.log a 0 Config.settleStride).account with state := .settled }) s slot
      (walk s.log a 0 Config.settleStride) ⟨rfl, rfl, rfl, fun _ h => h⟩
    exact settled.ledgerOk walked

end Sys2Proof.Machine
end

section
/-! PROOFS. TotalsStayExact: every request, every event and every step keep the law of the ledger (04 R72). -/

namespace Sys2Proof.Machine

variable {s t : State}

/-! ## Requests that carry the accounts on -/

/-- What the law of the ledger reads of a state. -/
structure Ledger where
  accounts : Table Account
  log : List Entry
  nextSeq : Nat
  nextSerial : Nat

def State.ledger (s : State) : Ledger :=
  { accounts := s.accounts, log := s.log, nextSeq := s.nextSeq, nextSerial := s.nextSerial }

theorem Carries.of_ledger (h : t.ledger = s.ledger) : Carries s t := by
  simp only [State.ledger, Ledger.mk.injEq] at h
  obtain ⟨ha, hl, hq, hn⟩ := h
  exact .of_same ha hl hq hn

theorem Carries.of_frame {u : State} (e : t = u) (h : u.ledger = s.ledger) : Carries s t := by
  rw [e]; exact .of_ledger h

/-- An account rewritten in what the law of the ledger does not read. -/
theorem Carries.withAccount {slot : Nat} {a b : Account} (ha : s.accounts.fetch slot = some a) (hb : a.Carried b) :
    Carries s (s.withAccount slot b) :=
  .of_store ha hb rfl rfl rfl rfl

theorem Carries.noteOverLimit (s : State) (a : Account) : Carries s (s.noteOverLimit a) := by
  obtain ⟨_, e⟩ := State.noteOverLimit_frame s a
  exact .of_frame e rfl

theorem serveSetLimit_carries (hw : s.tablesWf = true) (folio amount : BitVec 32) :
    Carries s (serveSetLimit folio amount s).1 := by
  rcases serveSetLimit_cases folio amount s with e | ⟨slot, a, hf, -, e⟩ <;> rw [e]
  · exact .refl s
  · have kept : a.Carried { a with limit := amount.toNat } := ⟨rfl, rfl, rfl, fun _ h => h⟩
    exact (Carries.withAccount (State.fetch_of_findFolio hw hf).1 kept).trans (.noteOverLimit _ _)

theorem serveSetDeposit_carries (hw : s.tablesWf = true) (folio amount : BitVec 32) :
    Carries s (serveSetDeposit folio amount s).1 := by
  rcases serveSetDeposit_cases folio amount s with e | ⟨slot, a, hf, -, e⟩ <;> rw [e]
  · exact .refl s
  · have kept : a.Carried { a with deposit := amount.toNat } := ⟨rfl, rfl, rfl, fun _ h => h⟩
    exact (Carries.withAccount (State.fetch_of_findFolio hw hf).1 kept).trans (.noteOverLimit _ _)

theorem serveReopen_carries (hw : s.tablesWf = true) (folio : BitVec 32) : Carries s (serveReopen folio s).1 := by
  rcases serveReopen_cases folio s with e | ⟨slot, a, hf, -, e⟩ <;> rw [e]
  · exact .refl s
  · have chain : a.Carried a.reopened := ⟨rfl, rfl, rfl, fun _ h => h.imp_right (.imp_right nofun)⟩
    exact (Carries.withAccount (State.fetch_of_findFolio hw hf).1 chain).trans (.noteOverLimit _ _)

theorem serveSetPackage_carries (hw : s.tablesWf = true) (folio : BitVec 32) (package : Byte) :
    Carries s (serveSetPackage folio package s).1 := by
  rcases serveSetPackage_cases folio package s with e | ⟨slot, a, -, hf, e⟩ <;> rw [e]
  · exact .refl s
  · exact .withAccount (State.fetch_of_findFolio hw hf).1 ⟨rfl, rfl, rfl, fun _ h => h⟩

theorem serveSetMinorRelease_carries (hw : s.tablesWf = true) (folio : BitVec 32) (value : Byte) :
    Carries s (serveSetMinorRelease folio value s).1 := by
  rcases serveSetMinorRelease_cases folio value s with e | ⟨b, slot, a, -, hf, e⟩ <;> rw [e]
  · exact .refl s
  · exact .withAccount (State.fetch_of_findFolio hw hf).1 ⟨rfl, rfl, rfl, fun _ h => h⟩

/-- SETTLE BEGIN sets the cursor to the chain's first entry (05 R97). -/
theorem serveSettleBegin_carries (hw : s.tablesWf = true) (folio : BitVec 32) :
    Carries s (serveSettleBegin folio s).1 := by
  rcases serveSettleBegin_cases folio s with e | ⟨slot, a, hf, -, -, e⟩ <;> rw [e]
  · exact .refl s
  · have chain : a.Carried { a with state := .settling, cursor := a.first } :=
      ⟨rfl, rfl, rfl, fun _ h => h.elim .inl (.elim · (.inr ∘ .inl) .inl)⟩
    exact .withAccount (State.fetch_of_findFolio hw hf).1 chain

theorem serveEnrol_carries (hw : s.tablesWf = true) (card : BitVec 32) (kind : Byte) (folio : BitVec 32)
    (classMask : Byte) (deckMask : BitVec 32) : Carries s (serveEnrol card kind folio classMask deckMask s).1 := by
  rcases serveEnrol_cases card kind folio classMask deckMask s with
    e | ⟨slot, -, -, e | ⟨k, aslot, a, hf, -, e⟩⟩ <;> rw [e]
  · exact .refl s
  · exact .of_ledger rfl
  · exact .of_store (State.fetch_of_findFolio hw hf).1 (x := { a with holders := a.holders ++ [slot] })
      ⟨rfl, rfl, rfl, fun _ h => h⟩ rfl rfl rfl rfl

/-- CLOSE frees the account's slot (05 R106). -/
theorem serveClose_carries (hw : s.tablesWf = true) (folio : BitVec 32) : Carries s (serveClose folio s).1 := by
  rcases serveClose_cases folio s with e | ⟨slot, a, -, -, -, e⟩ <;> rw [e]
  · exact .refl s
  · obtain ⟨_, _, e⟩ := State.closeHolders_frame s a.holders
    unfold State.closeAccount
    rw [e]
    exact ⟨rfl, rfl, rfl, fun i b hb => ⟨b, (Table.fetch_remove_cases (State.accounts_wf hw) hb).2, .refl b⟩⟩

theorem serveHoldOpen_carries (p : Port) (card : BitVec 32) (gen : Byte) (outlet : BitVec 16) (cls : Byte)
    (gross lifetime : BitVec 32) (s : State) : Carries s (serveHoldOpen p card gen outlet cls gross lifetime s).1 := by
  rcases serveHoldOpen_steady_or p card gen outlet cls gross lifetime s with
    h | ⟨_, h, slot, reuse, -, -, -, -, -, e⟩
  · exact h.carries
  · rw [e]
    exact Carries.trans (.of_ledger (t := { s with holds := putHold s.holds slot { reuse := reuse, live := some h } })
      rfl) (.moveHeld _ _ _)

theorem serveHoldRelease_carries (p : Port) (slot reuse : Byte) (s : State) :
    Carries s (serveHoldRelease p slot reuse s).1 := by
  rcases serveHoldRelease_cases p slot reuse s with e | ⟨h, -, -, e⟩ <;> rw [e]
  · exact .refl s
  · exact .endHold s _ h

theorem expireHold_carries (s : State) (slot : Nat) : Carries s (s.expireHold slot) := by
  unfold State.expireHold
  split
  · exact .refl s
  split
  · exact (Carries.endHold s slot _).trans (.of_ledger rfl)
  · exact .refl s

/-! ## Accounts opened, and record memory initialized (01 R14; 10 R184, R185) -/

theorem serveOpenAccount_ledgerOk (folio limit deposit : BitVec 32) (hl : s.ledgerOk) :
    (serveOpenAccount folio limit deposit s).1.ledgerOk := by
  rcases serveOpenAccount_cases folio limit deposit s with e | ⟨slot, -, -, -, -, e⟩ <;> rw [e]
  · exact hl
  · exact openAccount_ledgerOk rfl rfl rfl rfl rfl rfl hl

theorem serveVoyageClear_ledgerOk (hl : s.ledgerOk) : (serveVoyageClear s).1.ledgerOk := by
  rcases serveVoyageClear_cases s with e | ⟨-, e⟩ <;> rw [e]
  · exact hl
  · exact ledgerOk_empty rfl rfl

theorem startUp_ledgerOk (straps : Quad (BitVec 2)) (lost : Bool) (hl : s.ledgerOk) :
    (s.startUp straps lost).ledgerOk := by
  unfold State.startUp
  split
  · exact (Carries.of_ledger (t := s.restart straps true) rfl).ledgerOk hl
  · exact ledgerOk_empty rfl rfl

/-! ## Every request, every event, every step -/

/-- What the law of the ledger stands on. -/
structure State.Exact (s : State) : Prop where
  wf : s.tablesWf = true
  folios : s.foliosOk
  log : s.logOk = true
  ledger : s.ledgerOk

theorem State.Exact.carried (h : s.Exact) (k : Carries s t) : t.ledgerOk := k.ledgerOk h.ledger

/-- Every request keeps the law of the ledger; those that post, void or settle keep it by the laws of the tables, the
folios and the log. -/
theorem serve_ledgerOk (p : Port) (req : Request) (h : s.Exact) : (serve p req s).1.ledgerOk := by
  cases req with
  | charge outlet cls unit qty cards =>
    exact serveCharge_ledgerOk p outlet cls unit qty cards h.wf h.folios h.log h.ledger
  | holdComplete slot reuse gross => exact serveHoldComplete_ledgerOk p slot reuse gross h.wf h.folios h.log h.ledger
  | adjust folio kind amount => exact serveAdjust_ledgerOk folio kind amount h.wf h.folios h.log h.ledger
  | void seq outlet => exact serveVoid_ledgerOk p seq outlet h.wf h.folios h.log h.ledger
  | windowAct action => exact serveWindowAct_ledgerOk p action h.wf h.folios h.log h.ledger
  | settleStep folio => exact serveSettleStep_ledgerOk folio h.wf h.folios h.log h.ledger
  | openAccount folio limit deposit => exact serveOpenAccount_ledgerOk folio limit deposit h.ledger
  | voyageClear => exact serveVoyageClear_ledgerOk h.ledger
  | setLimit folio amount => exact h.carried (serveSetLimit_carries h.wf folio amount)
  | setDeposit folio amount => exact h.carried (serveSetDeposit_carries h.wf folio amount)
  | setPackage folio package => exact h.carried (serveSetPackage_carries h.wf folio package)
  | setMinorRelease folio value => exact h.carried (serveSetMinorRelease_carries h.wf folio value)
  | settleBegin folio => exact h.carried (serveSettleBegin_carries h.wf folio)
  | reopen folio => exact h.carried (serveReopen_carries h.wf folio)
  | close folio => exact h.carried (serveClose_carries h.wf folio)
  | enrol card kind folio classMask deckMask =>
    exact h.carried (serveEnrol_carries h.wf card kind folio classMask deckMask)
  | holdOpen card gen outlet cls gross lifetime =>
    exact h.carried (serveHoldOpen_carries p card gen outlet cls gross lifetime s)
  | holdRelease slot reuse => exact h.carried (serveHoldRelease_carries p slot reuse s)
  | badFrame | unknown | badLength | noOp | readPortStatus | readCounts | readCall | readSettings => exact h.ledger
  | readTime => exact h.carried (.of_ledger rfl)
  | readCardholder card => exact h.carried (.of_eq (serveReadCardholder_frame card s))
  | readAccount folio => exact h.carried (.of_eq (serveReadAccount_frame folio s))
  | readCabin cabin => exact h.carried (.of_eq (serveReadCabin_frame cabin s))
  | readHold slot reuse => exact h.carried (.of_eq (serveReadHold_frame slot reuse s))
  | readEntry seq => exact h.carried (.of_eq (serveReadEntry_frame seq s))
  | readLane lane => exact h.carried (.of_eq (serveReadLane_frame lane s))
  | price cls unit qty k card package => exact h.carried (.of_eq (servePrice_frame cls unit qty k card package s))
  | injectRead lane card gen direction seq =>
    exact h.carried (.of_eq (serveInjectRead_frame lane card gen direction seq s))
  | setNoticeMask mask => obtain ⟨_, e⟩ := serveSetNoticeMask_frame p mask s; exact h.carried (.of_frame e rfl)
  | windowOpen collection mode key start =>
    obtain ⟨_, e⟩ := serveWindowOpen_frame p collection mode key start s; exact h.carried (.of_frame e rfl)
  | windowRead => obtain ⟨_, e⟩ := serveWindowRead_frame p s; exact h.carried (.of_frame e rfl)
  | accessQuery card gen cabin =>
    obtain ⟨_, _, _, _, _, e⟩ := serveAccessQuery_frame p card gen cabin s; exact h.carried (.of_frame e rfl)
  | lockReport cabin token outcome =>
    obtain ⟨_, _, _, e⟩ := serveLockReport_frame cabin token outcome s; exact h.carried (.of_frame e rfl)
  | privacySet cabin => obtain ⟨_, e⟩ := servePrivacySet_frame cabin s; exact h.carried (.of_frame e rfl)
  | privacyClear cabin => obtain ⟨_, e⟩ := servePrivacyClear_frame cabin s; exact h.carried (.of_frame e rfl)
  | reissue card => obtain ⟨_, e⟩ := serveReissue_frame card s; exact h.carried (.of_frame e rfl)
  | suspend card => obtain ⟨_, e⟩ := serveSuspend_frame card s; exact h.carried (.of_frame e rfl)
  | resume card => obtain ⟨_, e⟩ := serveResume_frame card s; exact h.carried (.of_frame e rfl)
  | purge card => obtain ⟨_, _, e⟩ := servePurge_frame card s; exact h.carried (.of_frame e rfl)
  | setClassMask card mask => obtain ⟨_, e⟩ := serveSetClassMask_frame card mask s; exact h.carried (.of_frame e rfl)
  | setDeckMask card mask => obtain ⟨_, e⟩ := serveSetDeckMask_frame card mask s; exact h.carried (.of_frame e rfl)
  | capUp card => obtain ⟨_, e⟩ := serveCapUp_frame card s; exact h.carried (.of_frame e rfl)
  | capDown card => obtain ⟨_, e⟩ := serveCapDown_frame card s; exact h.carried (.of_frame e rfl)
  | setCapOffset card offset =>
    obtain ⟨_, e⟩ := serveSetCapOffset_frame card offset s; exact h.carried (.of_frame e rfl)
  | takeClosure => obtain ⟨_, _, e⟩ := serveTakeClosure_frame s; exact h.carried (.of_frame e rfl)
  | defineCabin cabin deck => obtain ⟨_, e⟩ := serveDefineCabin_frame cabin deck s; exact h.carried (.of_frame e rfl)
  | undefineCabin cabin => obtain ⟨_, _, e⟩ := serveUndefineCabin_frame cabin s; exact h.carried (.of_frame e rfl)
  | grantCabin card cabin => obtain ⟨_, _, e⟩ := serveGrantCabin_frame card cabin s; exact h.carried (.of_frame e rfl)
  | revokeCabin card cabin =>
    obtain ⟨_, _, e⟩ := serveRevokeCabin_frame card cabin s; exact h.carried (.of_frame e rfl)
  | rekeyCabin cabin => obtain ⟨_, _, e⟩ := serveRekeyCabin_frame cabin s; exact h.carried (.of_frame e rfl)
  | blockCabin cabin => obtain ⟨_, e⟩ := serveBlockCabin_frame cabin s; exact h.carried (.of_frame e rfl)
  | unblockCabin cabin => obtain ⟨_, e⟩ := serveUnblockCabin_frame cabin s; exact h.carried (.of_frame e rfl)
  | setPresence card presence =>
    obtain ⟨_, _, _, _, _, e⟩ := serveSetPresence_frame card presence s; exact h.carried (.of_frame e rfl)
  | openCall kind allAboard mode closeTime =>
    obtain ⟨_, e⟩ := serveOpenCall_frame kind allAboard mode closeTime s; exact h.carried (.of_frame e rfl)
  | closeCall force => obtain ⟨_, _, _, e⟩ := serveCloseCall_frame force s; exact h.carried (.of_frame e rfl)
  | laneMode lane mode direction clearFaults =>
    obtain ⟨_, e⟩ := serveLaneMode_frame lane mode direction clearFaults s; exact h.carried (.of_frame e rfl)
  | setTime time => obtain ⟨_, _, _, _, _, _, e⟩ := serveSetTime_frame time s; exact h.carried (.of_frame e rfl)
  | setTariff1 part => obtain ⟨_, e⟩ := serveSetTariff1_frame part s; exact h.carried (.of_frame e rfl)
  | setTariff2 rows => obtain ⟨_, e⟩ := serveSetTariff2_frame rows s; exact h.carried (.of_frame e rfl)
  | setOptions fields => exact h.carried (.of_frame (serveSetOptions_state fields s) rfl)
  | loadSettings => obtain ⟨_, _, _, _, _, e⟩ := serveLoadSettings_frame s; exact h.carried (.of_frame e rfl)
  | saveSettings => obtain ⟨_, _, e⟩ := serveSaveSettings_frame p s; exact h.carried (.of_frame e rfl)

/-- Each rule and each event keeps the law of the ledger. -/
theorem exact_leads : Leads State.Exact State.ledgerOk where
  here := fun _ h => h.ledger
  queue := fun _ _ h => ⟨h.wf, h.folios, h.log, h.ledger⟩
  portBefore := fun _ _ _ h => ⟨h.wf, h.folios, h.log, h.ledger⟩
  port := fun _ _ _ h => h
  timer := fun _ h => h.carried (.of_ledger rfl)
  serve := fun p req _ h => serve_ledgerOk p req h
  startUp := fun _ straps lost h => startUp_ledgerOk straps lost h.ledger
  completeSave := fun x h => by obtain ⟨_, _, _, _, e⟩ := x.completeSave_frame; exact h.carried (.of_frame e rfl)
  failSave := fun x h => by obtain ⟨_, _, e⟩ := x.failSave_frame; exact h.carried (.of_frame e rfl)
  readMessage := fun x l kind card gen direction seq crc h =>
    h.carried (Calm.readMessage x h.wf l kind card gen direction seq crc).carries
  laneByte := fun x l b h => h.carried (Calm.laneByte x h.wf l b).carries
  framingFault := fun x l h => by obtain ⟨_, e⟩ := x.framingFault_frame l; exact h.carried (.of_frame e rfl)
  gapFault := fun x l h => by obtain ⟨_, _, e⟩ := x.gapFault_frame l; exact h.carried (.of_frame e rfl)
  endOfTransmission := fun x l h => h.carried (Calm.endOfTransmission x h.wf l).carries
  repeatExpiry := fun x l h => by obtain ⟨_, e⟩ := x.repeatExpiry_frame l; exact h.carried (.of_frame e rfl)
  takeTick := fun x h => h.carried (Calm.takeTick x).carries
  loseTick := fun x h => h.carried (Calm.loseTick x).carries
  takeSecond := fun x h => h.carried (Calm.takeSecond x).carries
  expireHold := fun x slot h => h.carried (expireHold_carries x slot.toNat)
  expireUnlock := fun x cabin h => h.carried (Calm.expireUnlock x cabin).carries
  takeAllAboard := fun x h => by obtain ⟨_, _, _, e⟩ := x.takeAllAboard_frame; exact h.carried (.of_frame e rfl)
  takeClose := fun x h => by obtain ⟨_, _, _, e⟩ := x.takeClose_frame; exact h.carried (.of_frame e rfl)

/-- Settles O58: each rule and each event keeps the law of the ledger, so every step does. -/
theorem totalsStayExact : Obligations.TotalsStayExact :=
  fun _ _ hs hw hf hlog hl => exact_leads.step ⟨hw, hf, hlog, hl⟩ hs

end Sys2Proof.Machine
end

section
/-! PROOFS. GroupsAreVoided: the checks of VOID in order, and what the void of a group changes (04 R89, R90). -/

namespace Sys2Proof.Machine

variable {s : State} {p : Port} {tag : Byte} {e : Entry} {g : List Entry}

/-! ## The group of an entry (04 R89, checks 6 to 8) -/

theorem Entry.groupSeqs_eq {seqs : List Nat} (hone : e.split = none → seqs = [e.seq])
    (hmany : ∀ x, e.split = some x → seqs = (List.range x.count).map (fun i => x.first + i)) : e.groupSeqs = seqs := by
  unfold Entry.groupSeqs
  split
  · exact (hone ‹_›).symm
  · exact (hmany _ ‹_›).symm

theorem State.gatherPosted_none : ∀ {qs : List Nat},
    (∃ q ∈ qs, ∀ d, s.findEntry q = some d → d.state ≠ .posted) → s.gatherPosted qs = none := by
  intro qs
  induction qs with
  | nil => rintro ⟨q, hq, -⟩; cases hq
  | cons x qs ih =>
    rintro ⟨q, hq, hbad⟩
    simp only [State.gatherPosted]
    split
    · rfl
    rename_i d hd
    split
    · rcases List.mem_cons.mp hq with rfl | hq
      · exact absurd ‹_› (hbad d hd)
      · rw [ih ⟨q, hq, hbad⟩]; rfl
    · rfl

theorem State.gatherPosted_some : ∀ {g : List Entry},
    (∀ d ∈ g, s.findEntry d.seq = some d ∧ d.state = .posted) → s.gatherPosted (g.map (·.seq)) = some g := by
  intro g
  induction g with
  | nil => exact fun _ => rfl
  | cons d rest ih =>
    intro hg
    obtain ⟨⟨hd, hposted⟩, hrest⟩ := List.forall_mem_cons.mp hg
    simp only [List.map_cons, State.gatherPosted, hd, hposted, if_true, ih hrest, Option.map_some]

section Gathered

variable (hgather : s.gatherPosted e.groupSeqs = some g)

include hgather

theorem State.voidGroup_accountNotOpen
    (h : ∃ d ∈ g, ∀ slot a, s.findSerial d.serial = some (slot, a) → a.state ≠ .opened) :
    s.voidGroup e = .error .accountNotOpen := by
  obtain ⟨d, hd, hbad⟩ := h
  have shut : g.all s.accountOpen = false := by
    refine List.all_eq_false.mpr ⟨d, hd, ?_⟩
    unfold State.accountOpen
    split
    · exact Bool.false_ne_true
    · simpa using hbad _ _ ‹_›
  simp only [State.voidGroup, hgather, shut, if_true]

section Open

variable (hopen : ∀ d ∈ g, ∃ slot a, s.findSerial d.serial = some (slot, a) ∧ a.state = .opened)

include hopen

theorem State.voidGroup_open : s.voidGroup e = if g.any (s.voidTooLow g) then .error .amountRange else .ok g := by
  have all : g.all s.accountOpen = true := by
    refine List.all_eq_true.mpr (fun d hd => ?_)
    obtain ⟨slot, a, hf, ho⟩ := hopen d hd
    simp only [State.accountOpen, hf, ho, beq_self_eq_true]
  simp only [State.voidGroup, hgather, all, Bool.true_eq_false, if_false]

theorem State.voidGroup_amountRange (h : ∃ d ∈ g, ∃ slot a, s.findSerial d.serial = some (slot, a) ∧
    a.posted - groupAmount g d.serial < -2000000000) : s.voidGroup e = .error .amountRange := by
  obtain ⟨d, hd, slot, a, hf, hlow⟩ := h
  have low : g.any (s.voidTooLow g) = true :=
    List.any_eq_true.mpr ⟨d, hd, by simpa only [State.voidTooLow, hf, decide_eq_true_eq] using hlow⟩
  rw [State.voidGroup_open hgather hopen, if_pos low]

theorem State.voidGroup_passes (h : ∀ d ∈ g, ∀ slot a, s.findSerial d.serial = some (slot, a) →
    -2000000000 ≤ a.posted - groupAmount g d.serial) : s.voidGroup e = .ok g := by
  have high : ¬ g.any (s.voidTooLow g) = true := by
    rw [List.any_eq_true]
    rintro ⟨d, hd, hlow⟩
    obtain ⟨slot, a, hf, -⟩ := hopen d hd
    simp only [State.voidTooLow, hf, decide_eq_true_eq] at hlow
    exact Int.not_lt.mpr (h d hd slot a hf) hlow
  rw [State.voidGroup_open hgather hopen, if_neg high]

end Open

end Gathered

/-- The fields of a void, with the sequences of its group (04 R90). -/
theorem voidFields_eq (after : State) {seqs : List Nat} (hseqs : g.map (·.seq) = seqs) :
    voidFields after g = u32 (seqs.headD 0) ++ u8 g.length ++ itemsOf (fun d : Entry =>
      u32 d.seq ++ u32 d.amount ++ i32 (((after.findSerial d.serial).map (fun x => x.2.posted)).getD 0)) g := by
  subst hseqs
  cases g <;> simp [voidFields, listOf]

/-! ## VOID (04 R89) -/

theorem exec_void (h : s.readyAs p .service) (seq : BitVec 32) (outlet : BitVec 16) :
    exec (.void p tag seq outlet) s = (serveVoid p seq outlet s).answers p 0x25#8 tag :=
  submit_owned h rfl rfl nofun

section Void

variable {seq : BitVec 32} {outlet : BitVec 16}

theorem serveVoid_badField (ho : 1023 < outlet.toNat) : serveVoid p seq outlet s = (s, Reply.refuse .badField) :=
  if_pos ho

variable (ho : outlet.toNat ≤ 1023)

include ho

theorem serveVoid_notFound (hf : s.findEntry seq.toNat = none) :
    serveVoid p seq outlet s = (s, Reply.refuse .notFound) := by
  simp only [serveVoid, Config.outletMax, Nat.not_lt.mpr ho, if_false, hf]

variable (hf : s.findEntry seq.toNat = some e)

include hf

theorem serveVoid_entryState (hs : e.state ≠ .posted) :
    serveVoid p seq outlet s = (s, Reply.refuse .entryState) := by
  simp only [serveVoid, Config.outletMax, Nat.not_lt.mpr ho, if_false, hf, hs, ne_eq, not_false_eq_true, if_true]

variable (hs : e.state = .posted)

include hs

theorem serveVoid_adjustment (hn : e.origin = none) : serveVoid p seq outlet s = (s, Reply.refuse .notOwner) := by
  simp only [serveVoid, Config.outletMax, Nat.not_lt.mpr ho, if_false, hf, hs, ne_eq, not_true_eq_false, hn]

variable {o : Origin} (horigin : e.origin = some o)

include horigin

theorem serveVoid_notOwner (hn : o.port ≠ p ∨ o.outlet ≠ outlet.toNat) :
    serveVoid p seq outlet s = (s, Reply.refuse .notOwner) := by
  simp only [serveVoid, Config.outletMax, Nat.not_lt.mpr ho, if_false, hf, hs, ne_eq, not_true_eq_false, horigin]
  exact if_pos hn

variable (hport : o.port = p) (houtlet : o.outlet = outlet.toNat)

include hport houtlet

theorem serveVoid_late (hl : s.options.voidWindow < s.shipTime - e.time) :
    serveVoid p seq outlet s = (s, Reply.refuse .late) := by
  simp only [serveVoid, Config.outletMax, Nat.not_lt.mpr ho, if_false, hf, hs, ne_eq, not_true_eq_false, horigin, hport,
    houtlet, or_self, hl, if_true]

section InTime

variable (hl : s.shipTime - e.time ≤ s.options.voidWindow)

include hl

theorem serveVoid_refused {r : Result} (hr : s.voidGroup e = .error r) :
    serveVoid p seq outlet s = (s, Reply.refuse r) := by
  simp only [serveVoid, Config.outletMax, Nat.not_lt.mpr ho, if_false, hf, hs, ne_eq, not_true_eq_false, horigin, hport,
    houtlet, or_self, Nat.not_lt.mpr hl, hr]

theorem serveVoid_voids (hg : s.voidGroup e = .ok g) :
    serveVoid p seq outlet s = (s.voidAll g, Reply.ok (voidFields (s.voidAll g) g)) := by
  simp only [serveVoid, Config.outletMax, Nat.not_lt.mpr ho, if_false, hf, hs, ne_eq, not_true_eq_false, horigin, hport,
    houtlet, or_self, Nat.not_lt.mpr hl, hg]

end InTime

end Void

/-- Settles O39: the checks of the request, then of its group; and the void of a group, record by record. -/
theorem groupsAreVoided : Obligations.GroupsAreVoided := by
  refine ⟨fun s p tag seq outlet h => ?_, fun s g => ⟨?_, voidAll_log s g, voidAll_accounts s g, voidAll_roster s g⟩⟩
  · rw [exec_void h]
    refine ⟨fun ho => by rw [serveVoid_badField ho, Served.answers_mk], fun ho =>
      ⟨fun hf => by rw [serveVoid_notFound ho hf, Served.answers_mk], fun e hf =>
      ⟨fun hs => by rw [serveVoid_entryState ho hf hs, Served.answers_mk],
      fun hs hn => by rw [serveVoid_adjustment ho hf hs hn, Served.answers_mk], fun o hs horigin =>
      ⟨fun hn => by rw [serveVoid_notOwner ho hf hs horigin hn, Served.answers_mk], fun hport houtlet =>
      ⟨fun hl => by rw [serveVoid_late ho hf hs horigin hport houtlet hl, Served.answers_mk],
      fun seqs hl hone hmany => ?_⟩⟩⟩⟩⟩
    have hseqs := Entry.groupSeqs_eq hone hmany
    have refused : ∀ {r}, s.voidGroup e = .error r → serveVoid p seq outlet s = (s, Reply.refuse r) :=
      serveVoid_refused ho hf hs horigin hport houtlet hl
    refine ⟨fun hbad => ?_, fun g hg hall => ?_⟩
    · have gone : s.voidGroup e = .error .entryState := by
        rw [State.voidGroup, hseqs, State.gatherPosted_none hbad]
      rw [refused gone, Served.answers_mk]
    · have hgather : s.gatherPosted e.groupSeqs = some g := by
        rw [hseqs, ← hg, State.gatherPosted_some hall]
      refine ⟨fun hshut => ?_, fun hopen => ⟨fun hlow => ?_, fun hhigh => ?_⟩⟩
      · rw [refused (State.voidGroup_accountNotOpen hgather hshut), Served.answers_mk]
      · rw [refused (State.voidGroup_amountRange hgather hopen hlow), Served.answers_mk]
      · rw [serveVoid_voids ho hf hs horigin hport houtlet hl (State.voidGroup_passes hgather hopen hhigh),
          Served.answers_mk, voidFields_eq _ hg]
  · obtain ⟨_, _, _, frame⟩ := s.voidAll_frame g
    rw [frame]

end Sys2Proof.Machine
end

section
/-! PROOFS. Adjustments: the places of the log, the checks of ADJUST in order, and its entry (04 R72 to R74, R92). -/

namespace Sys2Proof.Machine

variable {s : State} {p : Port} {tag : Byte}

/-! ## Places (04 R73) -/

theorem Table.search_eq_none {α : Type} {t : Table α} {f : α → Bool} :
    t.search f = none ↔ ∀ i a, (i, a) ∈ t → f a = false := by
  induction t with
  | nil => exact iff_of_true rfl (fun _ _ h => by cases h)
  | cons x rest ih =>
    obtain ⟨k, b⟩ := x
    simp only [Table.search, List.mem_cons, Prod.mk.injEq]
    split
    · rename_i hb
      exact iff_of_false nofun (fun h => Bool.false_ne_true ((h k b (.inl ⟨rfl, rfl⟩)).symm.trans hb))
    · rename_i hb
      rw [ih]
      refine ⟨fun h i a hm => ?_, fun h i a hm => h i a (.inr hm)⟩
      rcases hm with ⟨-, rfl⟩ | hm
      · exact eq_false_of_ne_true hb
      · exact h i a hm

theorem State.reclaimable_iff (s : State) (e : Entry) : s.reclaimable e = true ↔
    e.state ≠ .posted ∧ ∀ i a, (i, a) ∈ s.accounts → a.serial ≠ e.serial := by
  simp only [State.reclaimable, Bool.and_eq_true, bne_iff_ne, Option.isNone_iff_eq_none, State.findSerial,
    Table.search_eq_none, beq_eq_false_iff_ne]

/-- The free places and the reclaimable run at the oldest end. -/
theorem State.places_of_run {run rest : List Entry} (hlog : s.log = run ++ rest) (hlen : s.log.length ≤ 131072)
    (hrun : ∀ e ∈ run, s.reclaimable e = true) (hrest : ∀ e, rest.head? = some e → s.reclaimable e = false) :
    s.places + s.log.length = 131072 + run.length := by
  have stop : rest.takeWhile s.reclaimable = [] := by
    cases rest with
    | nil => rfl
    | cons d ds => rw [List.takeWhile_cons_of_neg (by rw [hrest d rfl]; exact Bool.false_ne_true)]
  have taken : s.log.takeWhile s.reclaimable = run := by
    rw [hlog, List.takeWhile_append_of_pos hrun, stop, List.append_nil]
  rw [State.places, taken, Config.logPlaces]
  omega

/-! ## ADJUST (04 R92) -/

theorem exec_adjust (h : s.readyAs p .purser) (folio : BitVec 32) (kind : Byte) (amount : BitVec 32) :
    exec (.adjust p tag folio kind amount) s = (serveAdjust folio kind amount s).answers p 0x55#8 tag :=
  submit_owned h rfl rfl nofun

theorem EntryKind.ofCode_none {kind : Byte} (h : 1 < kind.toNat) : EntryKind.ofCode kind = none := by
  unfold EntryKind.ofCode
  split
  · omega
  · omega
  · rfl

theorem adjustOutOfRange_iff (a : Account) (k : EntryKind) (amount : Nat) : adjustOutOfRange a k amount = true ↔
    (k = .charge ∧ 2000000000 < a.posted + a.held + amount) ∨ (k = .credit ∧ a.posted - amount < -2000000000) := by
  cases k <;> simp [adjustOutOfRange, Config.totalMax, Config.totalMin]

theorem adjustOutOfRange_eq_false {a : Account} {k : EntryKind} {amount : Nat}
    (hcharge : k = .charge → a.posted + a.held + amount ≤ 2000000000)
    (hcredit : k = .credit → -2000000000 ≤ a.posted - amount) : ¬ adjustOutOfRange a k amount = true := by
  rw [adjustOutOfRange_iff]
  rintro (⟨hk, h⟩ | ⟨hk, h⟩)
  · exact Int.not_lt.mpr (hcharge hk) h
  · exact Int.not_lt.mpr (hcredit hk) h

/-! ## The refusals of the log (04 R71, R74; log 17) -/

theorem logRefusal_exhausted (hq : 4294967296 ≤ s.nextSeq) (k : Nat) : s.logRefusal k = some (none, 0) :=
  if_pos hq

theorem logRefusal_places {k : Nat} (hq : s.nextSeq < 4294967296) (hp : s.places < k) :
    s.logRefusal k = some (s.reclaimStop, s.places) := by
  rw [State.logRefusal, if_neg (Nat.not_le.mpr hq), if_pos hp]

theorem logRefusal_noPlace (hq : s.nextSeq < 4294967296) (hp : s.places = 0) :
    s.logRefusal 1 = some (s.reclaimStop, 0) := by
  rw [logRefusal_places hq (by omega), hp]

/-- Places enough, but sequences that would pass the counter's last. -/
theorem logRefusal_beyond {k : Nat} (hq : s.nextSeq < 4294967296) (hp : k ≤ s.places)
    (hk : 4294967296 < s.nextSeq + k) : s.logRefusal k = some (none, 0) := by
  rw [State.logRefusal, if_neg (Nat.not_le.mpr hq), if_neg (Nat.not_lt.mpr hp), if_pos hk]

/-! ## The checks of ADJUST in order (04 R92) -/

section Adjust

variable {folio amount : BitVec 32} {kind : Byte} {k : EntryKind} {slot : Nat} {a : Account}

theorem serveAdjust_badField (hk : EntryKind.ofCode kind = none) :
    serveAdjust folio kind amount s = (s, Reply.refuse .badField) := by
  simp only [serveAdjust, hk]

variable (hk : EntryKind.ofCode kind = some k)

include hk

theorem serveAdjust_amountRange (h : amount.toNat = 0 ∨ 99999999 < amount.toNat) :
    serveAdjust folio kind amount s = (s, Reply.refuse .amountRange) := by
  simp only [serveAdjust, hk]
  exact if_pos h

variable (hamount : ¬ (amount.toNat = 0 ∨ 99999999 < amount.toNat))

include hamount

theorem serveAdjust_notFound (hf : s.findFolio folio.toNat = none) :
    serveAdjust folio kind amount s = (s, Reply.refuse .notFound) := by
  simp only [serveAdjust, hk, Config.adjustMax, hamount, if_false, hf]

variable (hf : s.findFolio folio.toNat = some (slot, a))

include hf

theorem serveAdjust_settled (hs : a.state = .settled) :
    serveAdjust folio kind amount s = (s, Reply.refuse .accountSettled) := by
  simp only [serveAdjust, hk, Config.adjustMax, hamount, if_false, hf, hs, if_true]

variable (hs : a.state ≠ .settled)

include hs

theorem serveAdjust_outOfRange (hr : adjustOutOfRange a k amount.toNat = true) :
    serveAdjust folio kind amount s = (s, Reply.refuse .amountRange) := by
  simp only [serveAdjust, hk, Config.adjustMax, hamount, if_false, hf, hs, hr, if_true]

variable (hr : ¬ adjustOutOfRange a k amount.toNat = true)

include hr

theorem serveAdjust_logFull {why : Option Subject × Nat} (hl : s.logRefusal 1 = some why) :
    serveAdjust folio kind amount s = (s.noteLogFull why, Reply.refuse .logFull) := by
  simp only [serveAdjust, hk, Config.adjustMax, hamount, if_false, hf, hs, hr, hl, Bool.false_eq_true]

theorem serveAdjust_posts (hl : s.logRefusal 1 = none) : serveAdjust folio kind amount s =
    (s.post slot (Entry.draft k amount.toNat 7 none none none none),
      Reply.ok (u32 s.nextSeq ++
        i32 (a.posted + (Entry.draft k amount.toNat 7 none none none none).signed) ++
        i64 (a.headroom - (Entry.draft k amount.toNat 7 none none none none).signed))) := by
  simp only [serveAdjust, hk, Config.adjustMax, hamount, if_false, hf, hs, hr, hl, Bool.false_eq_true]

end Adjust

/-- The signed amount of an adjustment (04 R70). -/
theorem Entry.draft_signed (k : EntryKind) (amount cls : Nat) (origin : Option Origin) (detail : Option Detail)
    (hold : Option Handle) (split : Option Split) : (Entry.draft k amount cls origin detail hold split).signed =
      if k = .charge then (amount : Int) else -(amount : Int) := by
  cases k <;> rfl

/-- Settles O40: the places and the links of the log, then the checks of ADJUST, and the entry that it appends. -/
theorem adjustments : Obligations.Adjustments := by
  refine ⟨⟨State.reclaimable_iff, fun s run rest => State.places_of_run, fun _ _ => rfl, fun _ _ _ => rfl⟩,
    fun s p tag folio kind amount h => ?_⟩
  rw [exec_adjust h]
  refine ⟨fun hk => by rw [serveAdjust_badField (EntryKind.ofCode_none hk), Served.answers_mk], fun k hk =>
    ⟨fun hamount => by rw [serveAdjust_amountRange hk hamount, Served.answers_mk], fun h1 h2 => ?_⟩⟩
  have hamount : ¬ (amount.toNat = 0 ∨ 99999999 < amount.toNat) := by omega
  refine ⟨fun hf => by rw [serveAdjust_notFound hk hamount hf, Served.answers_mk], fun slot a hf hfetch =>
    ⟨fun hs => by rw [serveAdjust_settled hk hamount hf hs, Served.answers_mk], fun hs =>
    ⟨fun hr => by rw [serveAdjust_outOfRange hk hamount hf hs ((adjustOutOfRange_iff _ _ _).mpr hr), Served.answers_mk],
    fun hcharge hcredit => ?_⟩⟩⟩
  have hr := adjustOutOfRange_eq_false hcharge hcredit
  have full : ∀ {why}, s.logRefusal 1 = some why →
      serveAdjust folio kind amount s = (s.noteLogFull why, Reply.refuse .logFull) :=
    serveAdjust_logFull hk hamount hf hs hr
  refine ⟨fun hq => ?_, fun hq hp => ?_, fun hq hp => ?_⟩
  · rw [full (logRefusal_exhausted (Nat.le_of_eq hq.symm) 1), Served.answers_mk]
    rfl
  · rw [full (logRefusal_noPlace hq hp), Served.answers_mk]
    rfl
  · rw [serveAdjust_posts hk hamount hf hs hr (logRefusal_one hq hp), Served.answers_mk, State.post_some hfetch]
    simp only [Entry.draft_signed]
    rfl

end Sys2Proof.Machine
end

section
/-! PROOFS. HoldsEnd and HoldRequests: slots of the hold table, the end of a hold, and its three requests (04 R81 to
R87). -/

namespace Sys2Proof.Machine

variable {s : State} {p : Port} {tag : Byte}

/-! ## The hold table (04 R81, R83) -/

theorem State.holdSlot_of_none {slot : Nat} (h : s.holds.fetch slot = none) : s.holdSlot slot = .blank := by
  rw [State.holdSlot, h]; rfl

theorem State.holdSlot_of_some {slot : Nat} {x : HoldSlot} (h : s.holds.fetch slot = some x) : s.holdSlot slot = x := by
  rw [State.holdSlot, h]; rfl

theorem putHold_live (t : Table HoldSlot) (slot reuse : Nat) (h : Hold) :
    putHold t slot { reuse := reuse, live := some h } = t.store slot { reuse := reuse, live := some h } :=
  if_neg nofun

/-- A slot that becomes FREE with a tag stays listed. -/
theorem putHold_tagged (t : Table HoldSlot) (slot : Nat) {x : HoldSlot} (h : x.reuse ≠ 0) :
    putHold t slot { x with live := none } = t.store slot { x with live := none } :=
  if_neg (fun hb => h (congrArg HoldSlot.reuse hb))

/-- A slot that becomes FREE with tag 0 is not listed. -/
theorem putHold_untagged (t : Table HoldSlot) (slot : Nat) {x : HoldSlot} (h : x.reuse = 0) :
    putHold t slot { x with live := none } = t.remove slot :=
  if_pos (by rw [HoldSlot.blank, h])

theorem State.freeHold_none (h : ∀ i, i < 256 → ∃ y x, s.holds.fetch i = some y ∧ y.live = some x) :
    s.freeHold = none := by
  rw [State.freeHold, List.find?_range_eq_none]
  intro i hi
  obtain ⟨y, x, hy, hx⟩ := h i hi
  rw [State.holdSlot_of_some hy, hx]
  rfl

theorem State.freeHold_lowest {free : Nat} (hlt : free < 256) (hfree : (s.holdSlot free).live = none)
    (hlow : ∀ i, i < free → (s.holdSlot i).live ≠ none) : s.freeHold = some free := by
  rw [State.freeHold, List.find?_range_eq_some]
  refine ⟨by rw [hfree]; rfl, List.mem_range.mpr hlt, fun i hi => ?_⟩
  rw [Bool.not_eq_true', Option.isNone_eq_false_iff, Option.isSome_iff_ne_none]
  exact hlow i hi

/-! ## The end of a hold (04 R85 to R87) -/

/-- An expiry event of a LIVE slot: the hold ends where ship time has reached its expiry. -/
theorem State.expireHold_live {slot : Nat} {x : HoldSlot} {h : Hold} (hx : s.holds.fetch slot = some x)
    (hl : x.live = some h) : s.expireHold slot =
      if h.expiry ≤ s.shipTime then
        (s.endHold slot h).raiseTo h.port .holdExpired (some (.handle { slot := slot, reuse := x.reuse }))
          (some (h.amount : Int))
      else s := by
  simp only [State.expireHold, State.holdSlot_of_some hx, hl]

theorem State.expireHold_free {slot : Nat} (hl : (s.holdSlot slot).live = none) : s.expireHold slot = s := by
  simp only [State.expireHold, hl]

theorem exec_holdExpiry (s : State) (slot : Byte) : exec (.holdExpiry slot) s = .next (s.expireHold slot.toNat) := rfl

/-- Settles O38: the expiry event by its slot, and the two canonical forms of a slot that becomes FREE. -/
theorem holdsEnd : Obligations.HoldsEnd := by
  intro s slot x h
  rw [exec_holdExpiry]
  refine ⟨fun hx => ?_, fun hx hl => ?_, fun hx hl => ⟨fun hlt => ?_, fun hle => ?_, fun hr => ?_, fun hr => ?_⟩⟩
  · rw [State.expireHold_free (by rw [State.holdSlot_of_none hx]; rfl)]
  · rw [State.expireHold_free (by rw [State.holdSlot_of_some hx, hl])]
  · rw [State.expireHold_live hx hl, if_neg (Nat.not_le.mpr hlt)]
  · rw [State.expireHold_live hx hl, if_pos hle]
  · rw [State.endHold, State.holdSlot_of_some hx, putHold_tagged _ _ hr]
    rfl
  · rw [State.endHold, State.holdSlot_of_some hx, putHold_untagged _ _ hr]
    rfl

/-! ## HOLD OPEN (04 R82, R83) -/

theorem exec_holdOpen (h : s.readyAs p .service) (card : BitVec 32) (gen : Byte) (outlet : BitVec 16) (cls : Byte)
    (gross lifetime : BitVec 32) : exec (.holdOpen p tag card gen outlet cls gross lifetime) s =
      (serveHoldOpen p card gen outlet cls gross lifetime s).answers p 0x22#8 tag :=
  submit_owned h rfl rfl nofun

theorem lifetimeOk_iff (n : Nat) : lifetimeOk n = true ↔ n = 0 ∨ (60 ≤ n ∧ n ≤ 86400) := by
  simp [lifetimeOk]

/-- A HOLD OPEN that passes checks 1 to 12 looks for a slot. -/
theorem serveHoldOpen_passed {card : BitVec 32} {gen : Byte} {outlet : BitVec 16} {cls : Byte}
    {gross lifetime : BitVec 32} {x : Payer} (ho : outlet.toNat ≤ 1023) (hc : cls.toNat ≤ 7)
    (hlife : lifetime.toNat = 0 ∨ (60 ≤ lifetime.toNat ∧ lifetime.toNat ≤ 86400)) (hg : gross.toNat ≤ 98999901)
    (hx : s.checkCard card.toNat gen.toNat = .ok x)
    (hs : s.checkShare x cls.toNat (s.tariff.price cls.toNat x.folio.package gross.toNat 1).total 0 = none) :
    serveHoldOpen p card gen outlet cls gross lifetime s = s.placeHold p x outlet.toNat cls.toNat lifetime.toNat
      (s.tariff.price cls.toNat x.folio.package gross.toNat 1) := by
  have field : ¬ (Config.outletMax < outlet.toNat ∨ 7 < cls.toNat ∨ lifetimeOk lifetime.toNat = false) := by
    rw [(lifetimeOk_iff _).mpr hlife, Config.outletMax]
    simp only [Bool.true_eq_false, or_false]
    omega
  simp only [serveHoldOpen, field, Config.grossMax, Nat.not_lt.mpr hg, if_false, hx, hs]

section Place

variable {x : Payer} {outlet cls lifetime : Nat} {pr : Priced}

theorem placeHold_full (h : s.freeHold = none) :
    s.placeHold p x outlet cls lifetime pr = (s, Reply.of .holdsFull (declineBody 0 (some pr))) := by
  simp only [State.placeHold, h]

theorem headroomAt_modify {accounts : Table Account} {slot : Nat} {a : Account} {f : Account → Account}
    (ht : s.accounts = accounts.modify slot f) (ha : accounts.fetch slot = some a) :
    s.headroomAt slot = (f a).headroom := by
  rw [State.headroomAt, ht, Table.fetch_modify, if_pos rfl, ha]
  rfl

/-- The hold takes a FREE slot, and held total and held sum rise. -/
theorem placeHold_placed {free : Nat} (h : s.freeHold = some free) (ha : s.accounts.fetch x.account = some x.folio) :
    s.placeHold p x outlet cls lifetime pr =
      ({ s with
          holds := s.holds.store free
            { reuse := tagAfter (s.holdSlot free).reuse, live := some (s.newHold p x outlet cls pr.total lifetime) }
          accounts := s.accounts.modify x.account (fun b => { b with held := b.held + pr.total })
          roster := s.roster.modify x.holder (fun b => { b with held := b.held + pr.total }) },
        Reply.ok (Handle.bytes { slot := free, reuse := tagAfter (s.holdSlot free).reuse } ++ pr.bytes ++
          u32 (s.expiryOf lifetime) ++ i64 ({ x.folio with held := x.folio.held + pr.total } : Account).headroom)) := by
  simp only [State.placeHold, h, putHold_live]
  rw [headroomAt_modify (accounts := s.accounts) rfl ha]
  rfl

end Place

/-! ## HOLD COMPLETE and HOLD RELEASE (04 R84 to R86) -/

theorem exec_holdComplete (h : s.readyAs p .service) (slot reuse : Byte) (gross : BitVec 32) :
    exec (.holdComplete p tag slot reuse gross) s = (serveHoldComplete p slot reuse gross s).answers p 0x23#8 tag :=
  submit_owned h rfl rfl nofun

theorem exec_holdRelease (h : s.readyAs p .service) (slot reuse : Byte) :
    exec (.holdRelease p tag slot reuse) s = (serveHoldRelease p slot reuse s).answers p 0x24#8 tag :=
  submit_owned h rfl rfl nofun

section Release

variable {slot reuse : Byte} {h : Hold}

theorem serveHoldRelease_gone (hl : s.liveHold slot.toNat reuse.toNat = none) :
    serveHoldRelease p slot reuse s = (s, Reply.refuse .holdGone) := by
  simp only [serveHoldRelease, hl]

variable (hl : s.liveHold slot.toNat reuse.toNat = some h)

include hl

theorem serveHoldRelease_notOwner (hp : h.port ≠ p) :
    serveHoldRelease p slot reuse s = (s, Reply.refuse .notOwner) := by
  simp only [serveHoldRelease, hl, hp, ne_eq, not_false_eq_true, if_true]

theorem serveHoldRelease_ends (hp : h.port = p) :
    serveHoldRelease p slot reuse s = (s.endHold slot.toNat h, Reply.ok (u32 h.amount)) := by
  simp only [serveHoldRelease, hl, hp, ne_eq, not_true_eq_false, if_false]

end Release

/-- The state a completion leaves: the hold ended, and its final amount posted and spent. -/
def State.completed (s : State) (slot reuse : Nat) (h : Hold) (pr : Priced) : State :=
  ((s.endHold slot h).post h.account (completionEntry h { slot := slot, reuse := reuse } pr)).spendAt h.holder pr.total

section Complete

variable {slot reuse : Byte} {gross : BitVec 32} {h : Hold}

theorem serveHoldComplete_amountRange (hg : 98999901 < gross.toNat) :
    serveHoldComplete p slot reuse gross s = (s, Reply.of .amountRange [0x00#8, 0x00#8]) :=
  if_pos hg

variable (hg : gross.toNat ≤ 98999901)

include hg

theorem serveHoldComplete_gone (hl : s.liveHold slot.toNat reuse.toNat = none) :
    serveHoldComplete p slot reuse gross s = (s, Reply.of .holdGone [0x00#8, 0x00#8]) := by
  simp only [serveHoldComplete, Config.grossMax, Nat.not_lt.mpr hg, if_false, hl]
  rfl

variable (hl : s.liveHold slot.toNat reuse.toNat = some h)

include hl

theorem serveHoldComplete_notOwner (hp : h.port ≠ p) :
    serveHoldComplete p slot reuse gross s = (s, Reply.of .notOwner [0x00#8, 0x00#8]) := by
  simp only [serveHoldComplete, Config.grossMax, Nat.not_lt.mpr hg, if_false, hl, hp, ne_eq, not_false_eq_true, if_true]
  rfl

variable (hp : h.port = p)

include hp

theorem serveHoldComplete_overHold (ht : h.amount < (s.finalPrice h gross.toNat).total) :
    serveHoldComplete p slot reuse gross s =
      (s, Reply.of .overHold (declineBody 0 (some (s.finalPrice h gross.toNat)))) := by
  simp only [serveHoldComplete, Config.grossMax, Nat.not_lt.mpr hg, if_false, hl, hp, ne_eq, not_true_eq_false, ht,
    if_true]

variable (ht : (s.finalPrice h gross.toNat).total ≤ h.amount)

include ht

theorem serveHoldComplete_logFull {why : Option Subject × Nat} (hr : s.logRefusal 1 = some why) :
    serveHoldComplete p slot reuse gross s =
      (s.noteLogFull why, Reply.of .logFull (declineBody 0 (some (s.finalPrice h gross.toNat)))) := by
  simp only [serveHoldComplete, Config.grossMax, Nat.not_lt.mpr hg, if_false, hl, hp, ne_eq, not_true_eq_false,
    Nat.not_lt.mpr ht, hr]

theorem serveHoldComplete_posts (hr : s.logRefusal 1 = none) : serveHoldComplete p slot reuse gross s =
    (s.completed slot.toNat reuse.toNat h (s.finalPrice h gross.toNat),
      Reply.ok (u32 s.nextSeq ++ u32 (s.finalPrice h gross.toNat).total ++ u32 h.amount ++
        i64 ((s.completed slot.toNat reuse.toNat h (s.finalPrice h gross.toNat)).headroomAt h.account))) := by
  simp only [serveHoldComplete, Config.grossMax, Nat.not_lt.mpr hg, if_false, hl, hp, ne_eq, not_true_eq_false,
    Nat.not_lt.mpr ht, hr, State.completed]

end Complete

/-- The account of a hold that ended. -/
theorem endHold_fetch (slot : Nat) {h : Hold} {a : Account} (ha : s.accounts.fetch h.account = some a) :
    (s.endHold slot h).accounts.fetch h.account = some { a with held := a.held - h.amount } := by
  simp only [State.endHold, State.moveHeld, Table.fetch_modify, ha, Option.map_some, if_true]

/-- The state a completion on an OPEN account leaves, record by record. -/
theorem State.completed_eq {slot reuse : Nat} {h : Hold} {pr : Priced} {a : Account}
    (ha : s.accounts.fetch h.account = some a) (ho : a.state = .opened) : s.completed slot reuse h pr =
      { s.endHold slot h with
        log := linkFrom (makePlace s.log) a.last s.nextSeq ++
          [{ seq := s.nextSeq, kind := .charge, state := .posted, serial := a.serial, link := none, amount := pr.total,
             time := s.shipTime, day := s.shipDay,
             origin := some { holder := h.holder, port := h.port, outlet := h.outlet }, cls := h.cls,
             detail := some { gross := pr.gross, discount := pr.discount, service := pr.service },
             hold := some { slot := slot, reuse := reuse }, split := none }]
        nextSeq := s.nextSeq + 1
        accounts := (s.endHold slot h).accounts.store h.account { a with
          held := a.held - h.amount
          posted := a.posted + pr.total
          first := some (a.first.getD s.nextSeq)
          last := some s.nextSeq
          count := a.count + 1 }
        roster := (s.endHold slot h).roster.modify h.holder (fun y => y.spend s.shipDay pr.total) } := by
  have notSettling : ¬ (({ a with held := a.held - h.amount } : Account).state = .settling ∧ a.cursor = none) := by
    rw [ho]; exact nofun
  rw [State.completed, State.post_some (endHold_fetch slot ha)]
  simp only [Account.joined, if_neg notSettling]
  rfl

/-- Settles O37: HOLD OPEN looks for a slot once its checks have passed; HOLD COMPLETE and HOLD RELEASE by the hold
their handle names. -/
theorem holdRequests : Obligations.HoldRequests := by
  refine ⟨?_, fun s p tag slot reuse h => ?_⟩
  · intro s p tag card gen outlet cls gross lifetime slot c aslot a h ho hcls hg hlife hf hgen hs hk ha hopen hp hm
      hminor x expiry hcap hroom
    have hcard := checkCard_of hf hs hk ha hopen
    rw [hgen] at hcard
    have hshare : s.checkShare { holder := slot, card := c, account := aslot, folio := a } cls.toNat x.total 0 = none :=
      checkShare_passes hp hm hminor hcap hroom
    rw [exec_holdOpen h, serveHoldOpen_passed ho hcls hlife hg hcard hshare]
    refine ⟨fun hfull => ?_, fun free hlt hfree hlow => ?_⟩
    · rw [placeHold_full (State.freeHold_none hfull), Served.answers_mk]
      rfl
    · rw [placeHold_placed (State.freeHold_lowest hlt hfree hlow) (State.accountOf_some ha).2, Served.answers_mk]
      rfl
  · rw [exec_holdRelease h]
    have complete : ∀ gross, exec (.holdComplete p tag slot reuse gross) s =
      (serveHoldComplete p slot reuse gross s).answers p 0x23#8 tag := exec_holdComplete h slot reuse
    refine ⟨fun gross hg => ?_, fun hl => ⟨?_, fun gross hg => ?_⟩, fun x hl => ⟨fun hp => ⟨?_, fun gross hg => ?_⟩,
      fun hp => ⟨?_, fun gross a hg ha => ?_⟩⟩⟩
    · rw [complete, serveHoldComplete_amountRange hg, Served.answers_mk]
    · rw [serveHoldRelease_gone hl, Served.answers_mk]
    · rw [complete, serveHoldComplete_gone hg hl, Served.answers_mk]
    · rw [serveHoldRelease_notOwner hl hp, Served.answers_mk]
    · rw [complete, serveHoldComplete_notOwner hg hl hp, Served.answers_mk]
    · rw [serveHoldRelease_ends hl hp, Served.answers_mk]
    · have price : s.finalPrice x gross.toNat = s.tariff.price x.cls a.package gross.toNat 1 := by
        rw [State.finalPrice, ha]; rfl
      rw [complete]
      dsimp only
      rw [← price]
      refine ⟨fun ht => ?_, fun ht hq => ?_, fun ht hq hpl => ?_, fun ht hq hpl hopen => ?_⟩
      · rw [serveHoldComplete_overHold hg hl hp ht, Served.answers_mk]
        rfl
      · rw [serveHoldComplete_logFull hg hl hp ht (logRefusal_exhausted (Nat.le_of_eq hq.symm) 1), Served.answers_mk]
        rfl
      · rw [serveHoldComplete_logFull hg hl hp ht (logRefusal_noPlace hq hpl), Served.answers_mk]
        rfl
      · have room : (s.completed slot.toNat reuse.toNat x (s.finalPrice x gross.toNat)).headroomAt x.account =
            a.limit + a.deposit - (a.posted + (s.finalPrice x gross.toNat).total) - (a.held - x.amount : Nat) := by
          rw [State.completed_eq ha hopen, State.headroomAt, Table.fetch_store_same]
          rfl
        rw [serveHoldComplete_posts hg hl hp ht (logRefusal_one hq hpl), Served.answers_mk, room,
          State.completed_eq ha hopen]
        rfl

end Sys2Proof.Machine
end

section
/-! PROOFS. LedgerAndGangwayReads: what READ HOLD, READ ENTRY, READ COUNTS, READ CALL and READ LANE answer (04 R94, R95;
06 R131; 07 R148, R149). -/

namespace Sys2Proof.Machine

variable {s : State} {p : Port} {tag : Byte}

/-! ## From a command to its rule -/

theorem exec_readHold (h : s.ready p) (slot reuse : Byte) :
    exec (.readHold p tag slot reuse) s = (serveReadHold slot reuse s).answers p 0x07#8 tag :=
  submit_shared h rfl rfl nofun

theorem exec_readEntry (h : s.ready p) (seq : BitVec 32) :
    exec (.readEntry p tag seq) s = (serveReadEntry seq s).answers p 0x08#8 tag :=
  submit_shared h rfl rfl nofun

theorem exec_readCounts (h : s.ready p) : exec (.readCounts p tag) s = (serveReadCounts s).answers p 0x09#8 tag :=
  submit_shared h rfl rfl nofun

theorem exec_readCall (h : s.ready p) : exec (.readCall p tag) s = (serveReadCall s).answers p 0x0A#8 tag :=
  submit_shared h rfl rfl nofun

theorem exec_readLane (h : s.ready p) (lane : Byte) :
    exec (.readLane p tag lane) s = (serveReadLane lane s).answers p 0x0C#8 tag :=
  submit_shared h rfl rfl nofun

/-! ## READ HOLD and READ ENTRY (04 R94, R95) -/

theorem State.liveHold_none {slot reuse : Nat} (h : (s.holdSlot slot).live = none) : s.liveHold slot reuse = none := by
  rw [State.liveHold, h, ite_self]

theorem State.liveHold_some {slot : Nat} {x : HoldSlot} {h : Hold} (hx : s.holds.fetch slot = some x)
    (hl : x.live = some h) : s.liveHold slot x.reuse = some h := by
  rw [State.liveHold, State.holdSlot_of_some hx, if_pos rfl, hl]

theorem State.liveHold_otherTag {slot reuse : Nat} {x : HoldSlot} (hx : s.holds.fetch slot = some x)
    (hr : x.reuse ≠ reuse) : s.liveHold slot reuse = none := by
  rw [State.liveHold, State.holdSlot_of_some hx, if_neg hr]

theorem serveReadHold_notFound {slot reuse : Byte} (h : s.liveHold slot.toNat reuse.toNat = none) :
    serveReadHold slot reuse s = (s, Reply.refuse .notFound) := by
  simp only [serveReadHold, h]

theorem serveReadHold_found {slot reuse : Byte} {h : Hold} {a : Account} {c : Cardholder}
    (hl : s.liveHold slot.toNat reuse.toNat = some h) (ha : s.accounts.fetch h.account = some a)
    (hc : s.roster.fetch h.holder = some c) : serveReadHold slot reuse s =
      (s, Reply.ok (u32 h.serial ++ u16 h.account ++ u16 h.holder ++ u8 h.port.index ++ u16 h.outlet ++ u8 h.cls ++
        u32 h.amount ++ u32 h.expiry ++ u32 a.folio ++ u32 c.card ++ u32 (h.expiry - s.shipTime))) := by
  simp only [serveReadHold, hl, ha, State.cardNumber, hc, Option.map_some, Option.getD_some]

theorem State.findEntry_none {q : Nat} (h : ∀ e ∈ s.log, e.seq ≠ q) : s.findEntry q = none :=
  List.find?_eq_none.mpr (fun e he => by simpa using h e he)

theorem serveReadEntry_notFound {seq : BitVec 32} (h : s.findEntry seq.toNat = none) :
    serveReadEntry seq s = (s, Reply.refuse .notFound) := by
  simp only [serveReadEntry, h]

theorem serveReadEntry_found {seq : BitVec 32} {e : Entry} (h : s.findEntry seq.toNat = some e) :
    serveReadEntry seq s = (s, Reply.ok (e.bytes ((s.findSerial e.serial).map (fun x => x.2.folio))
      (e.origin.bind (fun o => s.cardNumber o.holder)))) := by
  simp only [serveReadEntry, h, State.entryItem]
  cases e.origin <;> rfl

/-! ## READ CALL (07 R149) -/

theorem State.closeRegistered_iff (s : State) : s.closeRegistered = true ↔
    s.call.state = .allAboard ∧ s.call.closeMode = .timed ∧ s.call.closeHeld = false := by
  simp [State.closeRegistered, and_assoc]

/-- The deadlines of READ CALL: the all-aboard deadline ALONGSIDE, the close deadline where it is registered. -/
theorem serveReadCall_eq (s : State) : serveReadCall s =
    (s, Reply.ok (s.call.bytes ++ u16 s.missing.length ++ u16 s.counters.ashore ++
      optional (fun t => u32 (t - s.shipTime)) (if s.call.state = .alongside then s.call.allAboard else none) ++
      optional (fun t => u32 (t - s.shipTime))
        (if s.call.state = .allAboard ∧ s.call.closeMode = .timed ∧ s.call.closeHeld = false then s.call.closeTime
          else none))) := by
  simp only [serveReadCall, State.secondsTo, State.closeRegistered_iff]

/-! ## READ LANE (06 R131) -/

theorem LaneState.bytes_eq (x : LaneState) : x.bytes =
    u8 x.mode.code ++ u8 x.dirSetting.code ++ u8 (if x.receiver = .idle then 0 else 1) ++
      optional (fun r : LaneRead => u32 r.card ++ u8 r.dir.code) x.holding ++
      u8 x.verdicts.length ++ u8 x.faults ++ u8 ((x.lastFault.map (·.code)).getD 0) ++
      optional (fun r : RepeatRecord =>
        u32 r.read.card ++ u8 r.read.dir.code ++ u8 r.verdict.code ++ u8 r.cause.code) x.lastRead := by
  have receiver : x.receiver.code = if x.receiver = .idle then 0 else 1 := by
    cases x.receiver with
    | idle => rfl
    | assembling bytes since => exact (if_neg nofun).symm
  rw [LaneState.bytes, receiver]
  cases x.lastFault <;> rfl

theorem laneOf_index (l : Lane) : laneOf (BitVec.ofNat 8 l.index) = some l := by
  cases l <;> rfl

theorem laneOf_none {lane : Byte} (h : 3 < lane.toNat) : laneOf lane = none := by
  unfold laneOf Four.ofIndex
  split
  · omega
  · omega
  · omega
  · omega
  · rfl

/-- Settles O17: each read answers from the record found, and leaves the state. -/
theorem ledgerAndGangwayReads : Obligations.LedgerAndGangwayReads := by
  refine ⟨fun x => ?_, fun s p tag h => ?_⟩
  · rw [LaneState.bytes_eq]
    cases x.holding <;> cases x.lastFault <;> cases x.lastRead <;> rfl
  rw [exec_readCounts h, exec_readCall h, serveReadCall_eq]
  refine ⟨fun slot reuse hfree => ?_, fun slot reuse x hold a c hx hl ha hc => ⟨fun hr => ?_, fun hr => ?_⟩,
    fun seq => ⟨fun hnone => ?_, fun e he => ?_⟩, rfl, fun hc => ?_, fun hc => ?_, fun hc => ?_, fun l => ?_,
    fun lane hlane => ?_⟩
  · have free : (s.holdSlot slot.toNat).live = none := by
      rcases hfree with hx | ⟨x, hx, hl⟩
      · rw [State.holdSlot_of_none hx]; rfl
      · rw [State.holdSlot_of_some hx, hl]
    rw [exec_readHold h, serveReadHold_notFound (State.liveHold_none free), Served.answers_mk]
  · have live := State.liveHold_some hx hl
    rw [hr] at live
    rw [exec_readHold h, serveReadHold_found live ha hc, Served.answers_mk]
  · rw [exec_readHold h, serveReadHold_notFound (State.liveHold_otherTag hx hr), Served.answers_mk]
  · rw [exec_readEntry h, serveReadEntry_notFound (State.findEntry_none hnone), Served.answers_mk]
  · rw [exec_readEntry h, serveReadEntry_found he, Served.answers_mk]
  · simp [hc, optional]
  · simp [hc, optional]
  · simp [hc, optional]
  · rw [exec_readLane h, serveReadLane, laneOf_index, Served.answers_mk]
  · rw [exec_readLane h, serveReadLane, laneOf_none hlane, Served.answers_mk]

end Sys2Proof.Machine
end

section
/-! PROOFS. ReviewKeepsAndVoids: WINDOW ACT on a review window and on any other (05 R112 to R114). -/

namespace Sys2Proof.Machine

variable {s : State} {p : Port} {tag : Byte}

/-! ## From the two commands to the rule -/

/-- The step that answers a request which keeps its window (09 R167, R177). -/
def Served.keeps (x : Served) (p : Port) (code tag : Byte) : Host.Outcome State Fault Refusal :=
  .next (x.1.respond p code tag x.2)

@[simp] theorem Served.keeps_mk (t : State) (r : Reply) (p : Port) (code tag : Byte) :
    Served.keeps (t, r) p code tag = .next (t.respond p code tag r) := rfl

/-- A request that a profile owns and that keeps the window meets its rule on a port of that profile. -/
theorem submit_owned_keeps {req : Request} {profile : Profile} (h : s.readyAs p profile)
    (ho : ownerOf req.code.toNat = some profile) (hk : keepsWindow req = true) (hb : req ≠ .badFrame)
    (hu : ∀ c, req ≠ .unknown c) :
    Host.Outcome.next (s.submit p tag req) = (serve p req s).keeps p req.code tag := by
  obtain ⟨hr, hp⟩ := h
  have hm : mayIssue (s.ports.get p).profile req = true := by rw [mayIssue, ho, hp]; exact beq_self_eq_true _
  rw [Served.keeps, State.submit_ready s p tag req hr, State.execute, State.effect, if_pos hk,
    State.answer_serve s p req hm hb hu]

theorem exec_windowActKeep (h : s.readyAs p .purser) :
    exec (.windowActKeep p tag) s = (serveWindowAct p 0#8 s).keeps p 0x86#8 tag :=
  submit_owned_keeps h rfl rfl nofun nofun

theorem exec_windowActVoid (h : s.readyAs p .purser) :
    exec (.windowActVoid p tag) s = (serveWindowAct p 1#8 s).keeps p 0x86#8 tag :=
  submit_owned_keeps h rfl rfl nofun nofun

/-! ## The window (05 R112) -/

theorem serveWindowAct_noWindow (action : Byte) (hw : (s.ports.get p).window = none) :
    serveWindowAct p action s = (s, Reply.refuse .slotState) := by
  simp only [serveWindowAct, hw]

theorem serveWindowAct_reading (action : Byte) {folio serial : Nat} {start ending cursor : Option Nat}
    (hw : (s.ports.get p).window = some (.chain false folio serial start ending cursor)) :
    serveWindowAct p action s = (s, Reply.refuse .slotState) := by
  simp only [serveWindowAct, hw]

section Review

variable {action : Byte} {act : Action} {folio serial : Nat} {start ending cursor : Option Nat}
  (hw : (s.ports.get p).window = some (.chain true folio serial start ending cursor))
  (hact : Action.ofCode action = some act)

include hw hact

/-- Past the end, or with the account closed. -/
theorem serveWindowAct_ended (h : s.findSerial serial = none ∨ cursor = none) :
    serveWindowAct p action s = (s, Reply.finished) := by
  have gone : s.reviewed serial cursor = none := by
    rcases h with h | rfl
    · simp only [State.reviewed, h]
    · unfold State.reviewed
      cases s.findSerial serial <;> rfl
  simp only [serveWindowAct, hw, hact, gone]

theorem serveWindowAct_at {q slot : Nat} {a : Account} {e : Entry} (hc : cursor = some q)
    (hs : s.findSerial serial = some (slot, a)) (he : s.findEntry q = some e) : serveWindowAct p action s =
      s.act p act (.chain true folio serial start ending (cursorPast ending e)) (cursorPast ending e) a e := by
  have found : s.reviewed serial cursor = some (a, e) := by
    simp only [State.reviewed, hs, hc, Option.bind_some, he]
  simp only [serveWindowAct, hw, hact, found]

end Review

/-! ## VOID in a review (05 R113) -/

section Void

variable {a : Account} {e : Entry}

theorem reviewGroup_accountNotOpen (ho : a.state ≠ .opened) : s.reviewGroup a e = .error .accountNotOpen :=
  if_pos ho

variable (ho : a.state = .opened)

include ho

theorem reviewGroup_notPosted (hp : e.state ≠ .posted) : s.reviewGroup a e = .error .entryState := by
  simp only [State.reviewGroup, ho, ne_eq, not_true_eq_false, if_false, hp, not_false_eq_true, if_true]

variable (hp : e.state = .posted)

include hp

theorem reviewGroup_adjustment (hn : e.origin = none) : s.reviewGroup a e = .error .entryState := by
  simp only [State.reviewGroup, ho, hp, hn, ne_eq, not_true_eq_false, if_false, if_true]

theorem reviewGroup_charge (hn : e.origin ≠ none) : s.reviewGroup a e = s.voidGroup e := by
  simp only [State.reviewGroup, ho, hp, hn, ne_eq, not_true_eq_false, if_false]

/-- An unsplit POSTED entry of an OPEN account is a group of its own (04 R89). -/
theorem voidGroup_alone {slot : Nat} (he : s.findEntry e.seq = some e) (hs : s.findSerial e.serial = some (slot, a))
    (hsplit : e.split = none) (hlow : -2000000000 ≤ a.posted - e.amount) : s.voidGroup e = .ok [e] := by
  have seqs : e.groupSeqs = [e].map (·.seq) := by rw [Entry.groupSeqs, hsplit]; rfl
  have gathered : s.gatherPosted e.groupSeqs = some [e] := by
    rw [seqs]
    exact State.gatherPosted_some (List.forall_mem_singleton.mpr ⟨he, hp⟩)
  have amount : groupAmount [e] e.serial = e.amount := by simp [groupAmount]
  refine State.voidGroup_passes gathered (List.forall_mem_singleton.mpr ⟨slot, a, hs, ho⟩)
    (List.forall_mem_singleton.mpr (fun i b hb => ?_))
  rw [hs] at hb
  cases hb
  rw [amount]
  exact hlow

end Void

section Act

variable {moved : Window} {next : Option Nat} {a : Account} {e : Entry}

theorem State.act_refused {r : Result} (h : s.reviewGroup a e = .error r) :
    s.act p .void moved next a e = (s, Reply.refuse r) := by
  simp only [State.act, h]

theorem State.act_voids {g : List Entry} (h : s.reviewGroup a e = .ok g) : s.act p .void moved next a e =
    ((s.voidAll g).setWindow p moved,
      { Reply.ok (voidFields (s.voidAll g) g ++ optional u32 next) with ended := next.isNone }) := by
  simp only [State.act, h]

end Act

theorem cursorPast_ending {ending : Option Nat} {e : Entry} (h : some e.seq = ending) : cursorPast ending e = none :=
  if_pos h

theorem cursorPast_link {ending : Option Nat} {e : Entry} (h : some e.seq ≠ ending) : cursorPast ending e = e.link :=
  if_neg h

/-- Settles O15: the two actions at an entry of a review window, the void of an unsplit entry, and every window that
names no entry. -/
theorem reviewKeepsAndVoids : Obligations.ReviewKeepsAndVoids := by
  refine ⟨fun s p tag folio serial start ending q slot a e h hw hs he => ?_, fun s p tag h => ?_⟩
  · have void : exec (.windowActVoid p tag) s = (s.act p .void (.chain true folio serial start ending
        (cursorPast ending e)) (cursorPast ending e) a e).keeps p 0x86#8 tag := by
      rw [exec_windowActVoid h, serveWindowAct_at hw rfl rfl hs he]
    have refused : ∀ {r}, s.reviewGroup a e = .error r →
        exec (.windowActVoid p tag) s = .next (s.respond p 0x86#8 tag (Reply.refuse r)) := fun hr => by
      rw [void, State.act_refused hr, Served.keeps_mk]
    rw [exec_windowActKeep h, serveWindowAct_at hw rfl rfl hs he]
    refine ⟨fun hz => ?_, fun hz q' hq' => ?_, fun ho => refused (reviewGroup_accountNotOpen ho),
      fun ho hp => refused (reviewGroup_notPosted ho hp), fun ho hp hn => refused (reviewGroup_adjustment ho hp hn),
      fun ho hp hn => ⟨fun r hr => refused ((reviewGroup_charge ho hp hn).trans hr), fun g next hg hnext => ?_⟩,
      fun ho hp hq hserial hsplit hlow => ?_⟩
    · rw [cursorPast_ending hz]
      rfl
    · rw [cursorPast_link hz, hq']
      rfl
    · have past : cursorPast ending e = next := hnext.symm
      rw [void, State.act_voids ((reviewGroup_charge ho hp hn).trans hg), Served.keeps_mk, past]
    · subst hq hserial
      refine ⟨voidGroup_alone ho hp he hs hsplit hlow, fun o horigin => ?_⟩
      simp only [State.voidAll, List.foldl_cons, List.foldl_nil, State.voidEntry, hs, horigin, Cardholder.unspend]
  · rw [exec_windowActKeep h, exec_windowActVoid h]
    refine ⟨fun hw => ⟨?_, ?_⟩, fun folio serial start ending cursor => ⟨fun hw => ⟨?_, ?_⟩, fun hw hend => ⟨?_, ?_⟩⟩⟩
    · rw [serveWindowAct_noWindow _ hw, Served.keeps_mk]
    · rw [serveWindowAct_noWindow _ hw, Served.keeps_mk]
    · rw [serveWindowAct_reading _ hw, Served.keeps_mk]
    · rw [serveWindowAct_reading _ hw, Served.keeps_mk]
    · rw [serveWindowAct_ended hw (act := .keep) rfl hend, Served.keeps_mk]
    · rw [serveWindowAct_ended hw (act := .void) rfl hend, Served.keeps_mk]

end Sys2Proof.Machine
end

section
/-! PROOFS. The checks of an authorization in order, card after card (04 R76 to R78). -/

namespace Sys2Proof.Machine

variable {s : State}

/-! ## Checks 2 to 8 of a presentation (04 R76) -/

theorem checkCard_unknown {card : Nat} (hf : s.findCard card = none) (gen : Nat) :
    s.checkCard card gen = .error .cardUnknown := by
  simp only [State.checkCard, hf]

section CheckCard

variable {card gen slot : Nat} {x : Cardholder} (hf : s.findCard card = some (slot, x))

include hf

theorem checkCard_superseded (hg : gen < x.gen) : s.checkCard card gen = .error .cardSuperseded := by
  simp only [State.checkCard, hf, hg, if_true]

theorem checkCard_genAhead (hg : x.gen < gen) : s.checkCard card gen = .error .cardGenAhead := by
  simp only [State.checkCard, hf, Nat.not_lt.mpr (Nat.le_of_lt hg), hg, if_false, if_true]

variable (hg : x.gen = gen)

include hg

theorem checkCard_suspended (hs : x.state = .suspended) : s.checkCard card gen = .error .cardSuspended := by
  simp only [State.checkCard, hf, hg, Nat.lt_irrefl, if_false, hs]

theorem checkCard_closed (hs : x.state = .closed) : s.checkCard card gen = .error .cardClosed := by
  simp only [State.checkCard, hf, hg, Nat.lt_irrefl, if_false, hs]

variable (hs : x.state = .active)

include hs

theorem checkCard_staff (hk : x.kind = .staff) : s.checkCard card gen = .error .noAccount := by
  simp only [State.checkCard, hf, hg, Nat.lt_irrefl, if_false, hs, hk, if_true]

theorem checkCard_accountNotOpen {aslot : Nat} {a : Account} (hk : x.kind ≠ .staff)
    (ha : s.accountOf x = some (aslot, a)) (ho : a.state ≠ .opened) :
    s.checkCard card gen = .error .accountNotOpen := by
  simp only [State.checkCard, hf, hg, Nat.lt_irrefl, if_false, hs, hk, ha, ho]

theorem checkCard_passes {aslot : Nat} {a : Account} (hk : x.kind ≠ .staff) (ha : s.accountOf x = some (aslot, a))
    (ho : a.state = .opened) :
    s.checkCard card gen = .ok { holder := slot, card := x, account := aslot, folio := a } :=
  hg ▸ checkCard_of hf hs hk ha ho

end CheckCard

/-! ## Checks 9 to 12 of a share (04 R77) -/

theorem classDenied_iff (c : Cardholder) (cls : Nat) : classDenied c cls = true ↔
    hasClass c.classMask cls = false ∨ (c.kind = .minor ∧ (cls = 2 ∨ cls = 5)) := by
  simp only [classDenied, Bool.or_eq_true, Bool.and_eq_true, Bool.not_eq_true', beq_iff_eq]

theorem classDenied_eq_false {c : Cardholder} {cls : Nat} (hm : hasClass c.classMask cls = true)
    (hminor : c.kind = .minor → cls ≠ 2 ∧ cls ≠ 5) : classDenied c cls = false := by
  rw [Bool.eq_false_iff, ne_eq, classDenied_iff, hm]
  rintro (h | ⟨hk, hcls⟩)
  · cases h
  · exact hcls.elim (hminor hk).1 (hminor hk).2

section CheckShare

variable {x : Payer} {cls share already : Nat}

theorem checkShare_presence (hp : x.card.presence ≠ some .aboard) :
    s.checkShare x cls share already = some .presenceConflict :=
  if_pos hp

variable (hp : x.card.presence = some .aboard)

include hp

theorem checkShare_class (hc : classDenied x.card cls = true) :
    s.checkShare x cls share already = some .classDenied := by
  simp only [State.checkShare, hp, ne_eq, not_true_eq_false, if_false, hc, if_true]

variable (hc : classDenied x.card cls = false)

include hc

theorem checkShare_overCap
    (hcap : effectiveCap s.tariff x.card < (x.card.spentToday s.shipDay + x.card.held + share : Nat)) :
    s.checkShare x cls share already = some .overCap := by
  simp only [State.checkShare, hp, ne_eq, not_true_eq_false, hc, Bool.false_eq_true, if_false, hcap, if_true]

variable (hcap : (x.card.spentToday s.shipDay + x.card.held + share : Nat) ≤ effectiveCap s.tariff x.card)

include hcap

theorem checkShare_overLimit (hroom : x.folio.headroom < (already + share : Nat)) :
    s.checkShare x cls share already = some .overLimit := by
  simp only [State.checkShare, hp, ne_eq, not_true_eq_false, hc, Bool.false_eq_true, if_false, Int.not_lt.mpr hcap,
    hroom, if_true]

theorem checkShare_room (hroom : (already + share : Nat) ≤ x.folio.headroom) :
    s.checkShare x cls share already = none := by
  simp only [State.checkShare, hp, ne_eq, not_true_eq_false, hc, Bool.false_eq_true, if_false, Int.not_lt.mpr hcap,
    Int.not_lt.mpr hroom]

end CheckShare

/-! ## Card after card (04 R76 to R78) -/

section Authorize

variable {cls gross k i : Nat} {done : List Share} {priced : Option Priced} {y : Presentation}
  {rest : List Presentation}

theorem authorize_card_declined {r : Result} (h : s.checkCard y.card.toNat y.gen.toNat = .error r) :
    s.authorize cls gross k (y :: rest) i done priced = .declined i y.card.toNat r priced := by
  simp only [State.authorize, h]

variable {payer : Payer} (h : s.checkCard y.card.toNat y.gen.toNat = .ok payer)

include h

theorem authorize_share_declined {r : Result}
    (hr : s.checkShare payer cls
      ((priced.getD (s.tariff.price cls payer.folio.package gross k)).shares.getD (i - 1) 0)
      (passedOn done payer.account) = some r) :
    s.authorize cls gross k (y :: rest) i done priced = .declined i y.card.toNat r
      (some (priced.getD (s.tariff.price cls payer.folio.package gross k))) := by
  simp only [State.authorize, h, hr]

theorem authorize_share_passes
    (hr : s.checkShare payer cls
      ((priced.getD (s.tariff.price cls payer.folio.package gross k)).shares.getD (i - 1) 0)
      (passedOn done payer.account) = none) :
    s.authorize cls gross k (y :: rest) i done priced = s.authorize cls gross k rest (i + 1)
      (done ++ [{ holder := payer.holder, account := payer.account,
                  amount := (priced.getD (s.tariff.price cls payer.folio.package gross k)).shares.getD (i - 1) 0 }])
      (some (priced.getD (s.tariff.price cls payer.folio.package gross k))) := by
  simp only [State.authorize, h, hr]

end Authorize

/-! ## What a decline does and leaves (04 R74, R76 to R78) -/

/-- Only checks 4 and 9 have an effect. -/
theorem declineEffect_none {r : Result} (h4 : r ≠ .cardGenAhead) (h9 : r ≠ .presenceConflict) (card : Nat) :
    s.declineEffect card r = s := by
  unfold State.declineEffect
  split
  · exact absurd rfl h4
  · exact absurd rfl h9
  · rfl

theorem declineEffect_conflict {card slot : Nat} {x : Cardholder} (hf : s.findCard card = some (slot, x)) :
    s.declineEffect card .presenceConflict = s.reportConflict slot := by
  simp only [State.declineEffect, hf]

/-- A calm step leaves what every cardholder has spent and holds. -/
theorem Calm.spending {t : State} (h : Calm s t) (i : Nat) :
    (t.roster.fetch i).map (fun c => (c.spent, c.spentDay, c.held)) =
      (s.roster.fetch i).map (fun c => (c.spent, c.spentDay, c.held)) := by
  cases hs : s.roster.fetch i with
  | none =>
    cases ht : t.roster.fetch i with
    | none => rfl
    | some d =>
      obtain ⟨c, hc, -⟩ := h.roster.back i d ht
      rw [hs] at hc
      cases hc
  | some c =>
    obtain ⟨d, hd, hcd⟩ := h.roster.onto i c hs
    rw [hd, Option.map_some, Option.map_some, hcd.spent, hcd.spentDay, hcd.held]

/-- A CHARGE that is not answered OK posts nothing. -/
theorem serveCharge_calm (p : Port) (outlet : BitVec 16) (cls : Byte) (unit : BitVec 32) (qty : Byte)
    (cards : List Presentation) (s : State) : (serveCharge p outlet cls unit qty cards s).2.result ≠ .ok →
      Calm s (serveCharge p outlet cls unit qty cards s).1 := by
  unfold serveCharge
  split
  · exact fun _ => .refl s
  split
  · exact fun _ => .refl s
  split
  · exact fun _ => .declineEffect s _ _
  split
  · exact fun _ => .refl s
  split
  · exact fun _ => .noteLogFull s _
  · exact fun h => absurd rfl h

/-- A HOLD OPEN that is not answered OK places no hold. -/
theorem serveHoldOpen_calm (p : Port) (card : BitVec 32) (gen : Byte) (outlet : BitVec 16) (cls : Byte)
    (gross lifetime : BitVec 32) (s : State) : (serveHoldOpen p card gen outlet cls gross lifetime s).2.result ≠ .ok →
      Calm s (serveHoldOpen p card gen outlet cls gross lifetime s).1 := by
  unfold serveHoldOpen
  split
  · exact fun _ => .refl s
  split
  · exact fun _ => .refl s
  split
  · exact fun _ => .declineEffect s _ _
  dsimp only
  split
  · exact fun _ => .declineEffect s _ _
  unfold State.placeHold
  split
  · exact fun _ => .refl s
  · exact fun h => absurd rfl h

end Sys2Proof.Machine
end

section
/-! PROOFS. DeclinesMoveNoMoney: what a CHARGE and a HOLD OPEN that are declined answer, and what they leave (04 R71 to
R82). -/

namespace Sys2Proof.Machine

variable {s : State} {p : Port} {tag : Byte} {outlet : BitVec 16} {cls : Byte}

/-! ## Check 1 (04 R75, R82) -/

theorem chargeBadField_iff {outlet cls : Nat} {cards : List Presentation} : chargeBadField outlet cls cards = true ↔
    1023 < outlet ∨ 7 < cls ∨ cards = [] ∨ 4 < cards.length ∨ ¬ (cards.map (·.card)).Nodup := by
  simp only [chargeBadField, Config.outletMax, Bool.or_eq_true, decide_eq_true_eq, Bool.not_eq_true',
    decide_eq_false_iff_not, List.length_eq_zero_iff, or_assoc]

/-- The fields of a CHARGE that passes check 1. -/
theorem chargeBadField_passes {outlet cls : Nat} {cards : List Presentation} (ho : outlet ≤ 1023) (hc : cls ≤ 7)
    (hne : cards ≠ []) (h4 : cards.length ≤ 4) (hn : (cards.map (·.card)).Nodup) :
    chargeBadField outlet cls cards = false :=
  chargeBadField_eq_false.mpr ⟨ho, hc, List.length_pos_iff.mpr hne, h4, hn⟩

theorem priceOutOfRange_passes {unit qty : Nat} (hu : unit ≤ 999999) (h1 : 1 ≤ qty) (h99 : qty ≤ 99) :
    priceOutOfRange unit qty = false := by
  rw [Bool.eq_false_iff, ne_eq, priceOutOfRange_iff]
  omega

section Charge

variable {unit : BitVec 32} {qty : Byte} {cards : List Presentation}

theorem serveCharge_badField (hb : chargeBadField outlet.toNat cls.toNat cards = true) :
    serveCharge p outlet cls unit qty cards s = (s, Reply.of .badField [0x00#8, 0x00#8]) := by
  simp only [serveCharge, hb, if_true]
  rfl

variable (hb : chargeBadField outlet.toNat cls.toNat cards = false)

include hb

theorem serveCharge_amountRange (hr : priceOutOfRange unit.toNat qty.toNat = true) :
    serveCharge p outlet cls unit qty cards s = (s, Reply.of .amountRange [0x00#8, 0x00#8]) := by
  simp only [serveCharge, hb, hr, Bool.false_eq_true, if_false, if_true]
  rfl

variable (hr : priceOutOfRange unit.toNat qty.toNat = false)

include hr

theorem serveCharge_declined {i card : Nat} {r : Result} {priced : Option Priced}
    (ha : s.authorize cls.toNat (unit.toNat * qty.toNat) cards.length cards 1 [] none = .declined i card r priced) :
    serveCharge p outlet cls unit qty cards s = (s.declineEffect card r, Reply.of r (declineBody i priced)) := by
  simp only [serveCharge, hb, hr, Bool.false_eq_true, if_false, ha]

theorem serveCharge_logFull {shares : List Share} {x : Priced} {why : Option Subject × Nat}
    (ha : s.authorize cls.toNat (unit.toNat * qty.toNat) cards.length cards 1 [] none = .passed shares (some x))
    (hl : s.logRefusal cards.length = some why) : serveCharge p outlet cls unit qty cards s =
      (s.noteLogFull why, Reply.of .logFull (0x00#8 :: 0x01#8 :: x.bytes)) := by
  simp only [serveCharge, hb, hr, Bool.false_eq_true, if_false, ha, hl]
  rfl

end Charge

section HoldOpen

variable {card : BitVec 32} {gen : Byte} {gross lifetime : BitVec 32}

theorem serveHoldOpen_badField (h : 1023 < outlet.toNat ∨ 7 < cls.toNat ∨
      (1 ≤ lifetime.toNat ∧ lifetime.toNat ≤ 59) ∨ 86400 < lifetime.toNat) :
    serveHoldOpen p card gen outlet cls gross lifetime s = (s, Reply.of .badField [0x00#8, 0x00#8]) := by
  have field : Config.outletMax < outlet.toNat ∨ 7 < cls.toNat ∨ lifetimeOk lifetime.toNat = false := by
    rw [Bool.eq_false_iff, ne_eq, lifetimeOk_iff, Config.outletMax]
    omega
  rw [serveHoldOpen, if_pos field]
  rfl

variable (ho : outlet.toNat ≤ 1023) (hc : cls.toNat ≤ 7)
  (hlife : lifetime.toNat = 0 ∨ (60 ≤ lifetime.toNat ∧ lifetime.toNat ≤ 86400))

include ho hc hlife

theorem holdOpenFields_pass :
    ¬ (Config.outletMax < outlet.toNat ∨ 7 < cls.toNat ∨ lifetimeOk lifetime.toNat = false) := by
  rw [(lifetimeOk_iff _).mpr hlife, Config.outletMax]
  simp only [Bool.true_eq_false, or_false]
  omega

theorem serveHoldOpen_amountRange (hg : 98999901 < gross.toNat) :
    serveHoldOpen p card gen outlet cls gross lifetime s = (s, Reply.of .amountRange [0x00#8, 0x00#8]) := by
  simp only [serveHoldOpen, holdOpenFields_pass ho hc hlife, if_false, Config.grossMax, hg, if_true]
  rfl

variable (hg : gross.toNat ≤ 98999901)

include hg

theorem serveHoldOpen_card_declined {r : Result} (hx : s.checkCard card.toNat gen.toNat = .error r) :
    serveHoldOpen p card gen outlet cls gross lifetime s =
      (s.declineEffect card.toNat r, Reply.of r [0x01#8, 0x00#8]) := by
  simp only [serveHoldOpen, holdOpenFields_pass ho hc hlife, Config.grossMax, Nat.not_lt.mpr hg, if_false, hx]
  rfl

theorem serveHoldOpen_share_declined {x : Payer} {r : Result} (hx : s.checkCard card.toNat gen.toNat = .ok x)
    (hr : s.checkShare x cls.toNat (s.tariff.price cls.toNat x.folio.package gross.toNat 1).total 0 = some r) :
    serveHoldOpen p card gen outlet cls gross lifetime s = (s.declineEffect card.toNat r,
      Reply.of r (0x01#8 :: 0x01#8 :: (s.tariff.price cls.toNat x.folio.package gross.toNat 1).bytes)) := by
  simp only [serveHoldOpen, holdOpenFields_pass ho hc hlife, Config.grossMax, Nat.not_lt.mpr hg, if_false, hx, hr]
  rfl

end HoldOpen

/-! ## One card: HOLD OPEN, and a CHARGE of one (04 R76, R77, R82) -/

/-- A command on one card answers each failure of checks 2 to 12 with its result, effect and body. -/
structure DeclinesOne (s : State) (p : Port) (code tag : Byte) (card gen cls gross : Nat) (c : Instr) : Prop where
  ofCard : ∀ r, s.checkCard card gen = .error r →
    exec c s = .next ((s.declineEffect card r).answered p code tag (Reply.of r [0x01#8, 0x00#8]))
  ofShare : ∀ x r, s.checkCard card gen = .ok x →
    s.checkShare x cls (s.tariff.price cls x.folio.package gross 1).total 0 = some r →
    exec c s = .next ((s.declineEffect card r).answered p code tag
      (Reply.of r (0x01#8 :: 0x01#8 :: (s.tariff.price cls x.folio.package gross 1).bytes)))

theorem DeclinesOne.card_alone {code tag : Byte} {card gen cls gross : Nat} {c : Instr} {r : Result}
    (one : DeclinesOne s p code tag card gen cls gross c) (hx : s.checkCard card gen = .error r)
    (h4 : r ≠ .cardGenAhead) (h9 : r ≠ .presenceConflict) :
    exec c s = .next (s.answered p code tag (Reply.of r [0x01#8, 0x00#8])) := by
  rw [one.ofCard r hx, declineEffect_none h4 h9]

theorem DeclinesOne.share_alone {code tag : Byte} {card gen cls gross : Nat} {c : Instr} {r : Result} {x : Payer}
    (one : DeclinesOne s p code tag card gen cls gross c) (hx : s.checkCard card gen = .ok x)
    (hr : s.checkShare x cls (s.tariff.price cls x.folio.package gross 1).total 0 = some r)
    (h4 : r ≠ .cardGenAhead) (h9 : r ≠ .presenceConflict) :
    exec c s = .next (s.answered p code tag
      (Reply.of r (0x01#8 :: 0x01#8 :: (s.tariff.price cls x.folio.package gross 1).bytes))) := by
  rw [one.ofShare x r hx hr, declineEffect_none h4 h9]

theorem holdOpen_declinesOne (h : s.readyAs p .service) {card : BitVec 32} {gen : Byte} {amount lifetime : BitVec 32}
    (ho : outlet.toNat ≤ 1023) (hc : cls.toNat ≤ 7)
    (hlife : lifetime.toNat = 0 ∨ (60 ≤ lifetime.toNat ∧ lifetime.toNat ≤ 86400)) (hg : amount.toNat ≤ 98999901) :
    DeclinesOne s p 0x22#8 tag card.toNat gen.toNat cls.toNat amount.toNat
      (.holdOpen p tag card gen outlet cls amount lifetime) := by
  refine ⟨fun r hx => ?_, fun x r hx hr => ?_⟩
  · rw [exec_holdOpen h, serveHoldOpen_card_declined ho hc hlife hg hx, Served.answers_mk]
  · rw [exec_holdOpen h, serveHoldOpen_share_declined ho hc hlife hg hx hr, Served.answers_mk]

/-- The one share of a charge on one card is the whole total (03 R57). -/
theorem price_share_one (t : Tariff) (cls package gross : Nat) :
    (t.price cls package gross 1).shares.getD 0 0 = (t.price cls package gross 1).total := by
  have one : (t.price cls package gross 1).shares = [(t.price cls package gross 1).total] := splitShares_one _
  rw [one]
  rfl

theorem charge_declinesOne (h : s.readyAs p .service) {card : BitVec 32} {gen : Byte} {unit : BitVec 32} {qty : Byte}
    (ho : outlet.toNat ≤ 1023) (hc : cls.toNat ≤ 7) (hu : unit.toNat ≤ 999999) (h1 : 1 ≤ qty.toNat)
    (h99 : qty.toNat ≤ 99) :
    DeclinesOne s p 0x21#8 tag card.toNat gen.toNat cls.toNat (unit.toNat * qty.toNat)
      (.charge p tag outlet cls unit qty [{ card := card, gen := gen }]) := by
  have hb : chargeBadField outlet.toNat cls.toNat [{ card := card, gen := gen }] = false :=
    chargeBadField_passes ho hc (List.cons_ne_nil _ _) (by decide : 1 ≤ 4) (List.nodup_singleton _)
  have hp := priceOutOfRange_passes hu h1 h99
  refine ⟨fun r hx => ?_, fun x r hx hr => ?_⟩
  · rw [exec_charge h, serveCharge_declined hb hp (authorize_card_declined hx), Served.answers_mk]
    rfl
  · have declined := authorize_share_declined (k := 1) (i := 1) (done := []) (priced := none) (rest := [])
      (y := { card := card, gen := gen }) hx
      (by rw [Option.getD_none, Nat.sub_self, price_share_one]; exact hr)
    rw [exec_charge h, serveCharge_declined hb hp declined, Served.answers_mk]
    rfl

/-! ## The entry that stops reclaim (04 R74) -/

theorem State.reclaimStop_of_run {run rest : List Entry} {e : Entry} (hlog : s.log = run ++ e :: rest)
    (hrun : ∀ d ∈ run, s.reclaimable d = true) (he : s.reclaimable e = false) :
    s.reclaimStop = (s.findSerial e.serial).map (fun y => Subject.folio y.2.folio) := by
  have stop : s.log.dropWhile s.reclaimable = e :: rest := by
    rw [hlog, List.dropWhile_append_of_pos hrun, List.dropWhile_cons_of_neg (by rw [he]; exact Bool.false_ne_true)]
  rw [State.reclaimStop, stop]
  rfl

/-- Settles O36: check 1; checks 2 to 12 of one card; the recursion card after card; the declines of a CHARGE, LOG_FULL
with the entry that stops reclaim; and what a decline leaves. -/
theorem declinesMoveNoMoney : Obligations.DeclinesMoveNoMoney := by
  refine ⟨fun s p tag outlet cls h => ⟨fun unit qty cards => ⟨fun hb => ?_, fun ho hc hne h4 hn hr => ?_⟩,
    fun card gen gross lifetime => ⟨fun hb => ?_, fun ho hc hlife hg => ?_⟩⟩, ?_, ?_, ?_, ?_, ?_, ?_, ?_⟩
  · rw [exec_charge h, serveCharge_badField (chargeBadField_iff.mpr hb), Served.answers_mk]
  · rw [exec_charge h, serveCharge_amountRange (chargeBadField_passes ho hc hne h4 hn)
      ((priceOutOfRange_iff _ _).mpr hr), Served.answers_mk]
  · rw [exec_holdOpen h, serveHoldOpen_badField hb, Served.answers_mk]
  · rw [exec_holdOpen h, serveHoldOpen_amountRange ho hc hlife hg, Served.answers_mk]
  · intro s p tag card gen outlet cls gross c code h ho hc hcommand
    have one : DeclinesOne s p code tag card.toNat gen.toNat cls.toNat gross c := by
      rcases hcommand with ⟨amount, lifetime, rfl, rfl, rfl, hg, hlife⟩ | ⟨unit, qty, rfl, rfl, rfl, hu, h1, h99⟩
      · exact holdOpen_declinesOne h ho hc hlife hg
      · exact charge_declinesOne h ho hc hu h1 h99
    refine ⟨fun hf => one.card_alone (checkCard_unknown hf _) nofun nofun, fun slot x hf =>
      ⟨fun hg => one.card_alone (checkCard_superseded hf hg) nofun nofun,
      fun hg => one.ofCard _ (checkCard_genAhead hf hg),
      fun hg hs => one.card_alone (checkCard_suspended hf hg hs) nofun nofun,
      fun hg hs => one.card_alone (checkCard_closed hf hg hs) nofun nofun,
      fun hg hs hk => one.card_alone (checkCard_staff hf hg hs hk) nofun nofun, fun hg hs hk aslot a ha =>
      ⟨fun hn => one.card_alone (checkCard_accountNotOpen hf hg hs hk ha hn) nofun nofun, fun hopen => ?_⟩⟩⟩
    have passes := checkCard_passes hf hg hs hk ha hopen
    refine ⟨fun hp => ?_, fun hp => ⟨fun hm => ?_, fun hm hminor => ⟨fun hcap => ?_, fun hcap hroom => ?_⟩⟩⟩
    · rw [one.ofShare _ _ passes (checkShare_presence hp), declineEffect_conflict hf]
    · rw [one.share_alone passes (checkShare_class hp ((classDenied_iff _ _).mpr hm)) nofun nofun]
    · rw [one.share_alone passes (checkShare_overCap hp (classDenied_eq_false hm hminor) hcap) nofun nofun]
    · rw [← Nat.zero_add (Priced.total _)] at hroom
      rw [one.share_alone passes (checkShare_overLimit hp (classDenied_eq_false hm hminor) hcap hroom) nofun nofun]
  · refine fun s cls gross k i done priced => ⟨rfl, fun y rest =>
      ⟨fun hf => authorize_card_declined (checkCard_unknown hf _), fun slot x hf =>
      ⟨fun hg => authorize_card_declined (checkCard_superseded hf hg),
      fun hg => authorize_card_declined (checkCard_genAhead hf hg), fun hg =>
      ⟨fun hs => authorize_card_declined (checkCard_suspended hf hg hs),
      fun hs => authorize_card_declined (checkCard_closed hf hg hs),
      fun hs hk => authorize_card_declined (checkCard_staff hf hg hs hk), fun hs hk aslot a ha =>
      ⟨fun hn => authorize_card_declined (checkCard_accountNotOpen hf hg hs hk ha hn), fun hopen => ?_⟩⟩⟩⟩⟩
    have passes := checkCard_passes hf hg hs hk ha hopen
    refine ⟨fun hp => authorize_share_declined passes (checkShare_presence hp), fun hp =>
      ⟨fun hm => authorize_share_declined passes (checkShare_class hp ((classDenied_iff _ _).mpr hm)),
      fun hm hminor => ?_⟩⟩
    have hclass := classDenied_eq_false hm hminor
    refine ⟨fun hcap => authorize_share_declined passes (checkShare_overCap hp hclass hcap), fun hcap =>
      ⟨fun hroom => authorize_share_declined passes (checkShare_overLimit hp hclass hcap ?_),
      fun hroom => authorize_share_passes passes (checkShare_room hp hclass hcap ?_)⟩⟩
    · rw [Nat.add_comm]; exact hroom
    · rw [Nat.add_comm]; exact hroom
  · intro s p tag outlet cls unit qty cards h ho hc hne h4 hn hu h1 h99 i card r priced ha reply
    have declined : exec (.charge p tag outlet cls unit qty cards) s =
        .next ((s.declineEffect card r).answered p 0x21#8 tag reply) := by
      rw [exec_charge h, serveCharge_declined (chargeBadField_passes ho hc hne h4 hn) (priceOutOfRange_passes hu h1 h99)
        ha, Served.answers_mk]
      cases priced <;> rfl
    rw [declined]
    refine ⟨?_, ?_, fun hr4 hr9 => ?_⟩
    · rintro rfl
      rfl
    · rintro rfl slot x hf
      rw [declineEffect_conflict hf]
    · rw [declineEffect_none hr4 hr9]
  · intro s p tag outlet cls unit qty cards shares x h hb hr ha
    have full : ∀ {why}, s.logRefusal cards.length = some why → exec (.charge p tag outlet cls unit qty cards) s =
        .next ((s.noteLogFull why).answered p 0x21#8 tag (Reply.of .logFull (0x00#8 :: 0x01#8 :: x.bytes))) :=
      fun hl => by rw [exec_charge h, serveCharge_logFull hb hr ha hl, Served.answers_mk]
    refine ⟨fun hq => ?_, fun hq hp => ?_, fun hq hp hk => ?_⟩
    · rw [full (logRefusal_exhausted hq _)]
      rfl
    · rw [full (logRefusal_places hq hp)]
      rfl
    · rw [full (logRefusal_beyond hq hp hk)]
      rfl
  · exact fun s run rest e => State.reclaimStop_of_run
  · intro s p outlet cls unit qty cards hr
    have calm := serveCharge_calm p outlet cls unit qty cards s hr
    exact ⟨calm.accounts, calm.log, calm.nextSeq, calm.spending⟩
  · intro s p card gen outlet cls gross lifetime hr
    have calm := serveHoldOpen_calm p card gen outlet cls gross lifetime s hr
    refine ⟨calm.accounts, calm.holds, fun i => ?_⟩
    have spending := congrArg (Option.map (fun x : Nat × Nat × Nat => (x.1, x.2.2))) (calm.spending i)
    simpa only [Option.map_map, Function.comp_def] using spending

end Sys2Proof.Machine
end

section
/-! PROOFS. SettlementsBeginAndReopen: SETTLE BEGIN and REOPEN by the account found (05 R97, R103). -/

namespace Sys2Proof.Machine

variable {s : State} {p : Port} {tag : Byte} {folio : BitVec 32} {slot : Nat} {a : Account}

/-! ## From the two commands to their rules -/

theorem exec_settleBegin (h : s.readyAs p .purser) (folio : BitVec 32) :
    exec (.settleBegin p tag folio) s = (serveSettleBegin folio s).answers p 0x56#8 tag :=
  submit_owned h rfl rfl nofun

theorem exec_reopen (h : s.readyAs p .purser) (folio : BitVec 32) :
    exec (.reopen p tag folio) s = (serveReopen folio s).answers p 0x58#8 tag :=
  submit_owned h rfl rfl nofun

/-! ## SETTLE BEGIN (05 R97) -/

theorem serveSettleBegin_notFound (hf : s.findFolio folio.toNat = none) :
    serveSettleBegin folio s = (s, Reply.refuse .notFound) := by
  simp only [serveSettleBegin, hf]

theorem serveReopen_notFound (hf : s.findFolio folio.toNat = none) :
    serveReopen folio s = (s, Reply.refuse .notFound) := by
  simp only [serveReopen, hf]

section Found

variable (hf : s.findFolio folio.toNat = some (slot, a))

include hf

theorem serveSettleBegin_notOpen (ho : a.state ≠ .opened) :
    serveSettleBegin folio s = (s, Reply.refuse .slotState) := by
  simp only [serveSettleBegin, hf, if_pos ho]

theorem serveSettleBegin_holdsOpen (ho : a.state = .opened) (hl : s.liveHolds a.serial ≠ 0) :
    serveSettleBegin folio s = (s, Reply.of .holdsOpen (u16 (s.liveHolds a.serial))) := by
  simp only [serveSettleBegin, hf, if_neg (not_not_intro ho), if_pos hl]

/-- The settlement begins at the first entry of the chain, or past its end. -/
theorem serveSettleBegin_begins (ho : a.state = .opened) (hl : s.liveHolds a.serial = 0) :
    serveSettleBegin folio s =
      (s.withAccount slot { a with state := .settling, cursor := a.first }, settleBegun a) := by
  simp only [serveSettleBegin, hf, if_neg (not_not_intro ho), if_neg (not_not_intro hl)]

/-! ## REOPEN (05 R103) -/

theorem serveReopen_open (ho : a.state = .opened) : serveReopen folio s = (s, Reply.refuse .slotState) := by
  simp only [serveReopen, hf, if_pos ho]

theorem serveReopen_reopens (ho : a.state ≠ .opened) : serveReopen folio s =
    ((s.withAccount slot { a with state := .opened, cursor := none }).noteOverLimit a,
      Reply.ok (i32 a.posted ++ i32 a.settled ++ i64 (a.limit + a.deposit - a.posted - a.held))) := by
  simp only [serveReopen, hf, if_neg ho]
  rfl

end Found

theorem settleBegun_some {q : Nat} (h : a.first = some q) :
    settleBegun a = Reply.ok (i32 a.posted ++ i32 a.settled ++ u32 a.count ++ (0x01#8 :: u32 q)) := by
  rw [settleBegun, h]
  rfl

theorem settleBegun_none (h : a.first = none) : settleBegun a =
    { Reply.ok (i32 a.posted ++ i32 a.settled ++ u32 a.count ++ [0x00#8]) with ended := true } := by
  rw [settleBegun, h]
  rfl

/-- Settles O41: both requests by the account found, its LIVE holds, its chain and its limit. -/
theorem settlementsBeginAndReopen : Obligations.SettlementsBeginAndReopen := by
  intro s p tag folio h
  rw [exec_settleBegin h, exec_reopen h]
  refine ⟨fun hf => ⟨?_, ?_⟩, fun slot a hf => ⟨fun ho => ?_, fun ho hl => ?_, fun ho hl => ⟨fun q hq => ?_, fun hq => ?_⟩,
    fun ho => ?_, fun ho hin => ?_, fun ho hover => ?_⟩⟩
  · rw [serveSettleBegin_notFound hf, Served.answers_mk]
  · rw [serveReopen_notFound hf, Served.answers_mk]
  · rw [serveSettleBegin_notOpen hf ho, Served.answers_mk]
  · rw [serveSettleBegin_holdsOpen hf ho hl, Served.answers_mk]
  · rw [serveSettleBegin_begins hf ho hl, settleBegun_some hq, hq, Served.answers_mk]
  · rw [serveSettleBegin_begins hf ho hl, settleBegun_none hq, hq, Served.answers_mk]
  · rw [serveReopen_open hf ho, Served.answers_mk]
  · rw [serveReopen_reopens hf ho, State.noteOverLimit_of_within _ hin, Served.answers_mk]
  · rw [serveReopen_reopens hf ho, State.noteOverLimit_of_over _ hover, Served.answers_mk]

end Sys2Proof.Machine
end

section
/-! PROOFS. SettlementWalks: SETTLE STEP in every state, what any walk keeps, and the walk of a run (05 R100 to R102). -/

namespace Sys2Proof.Machine

variable {s : State} {p : Port} {tag : Byte} {folio : BitVec 32} {slot : Nat} {a : Account}

theorem exec_settleStep (h : s.readyAs p .purser) (folio : BitVec 32) :
    exec (.settleStep p tag folio) s = (serveSettleStep folio s).answers p 0x57#8 tag :=
  submit_owned h rfl rfl nofun

/-! ## Where a walk ends (05 R100) -/

section Ends

variable (log : List Entry) (passed fuel : Nat)

/-- Past the chain's end a walk leaves everything as it stands. -/
theorem walk_of_cursor_none (h : a.cursor = none) :
    walk log a passed fuel = { log := log, account := a, passed := passed, stopped := false } := by
  have here : { a with cursor := none } = a := by rw [← h]
  cases fuel with
  | zero => rfl
  | succ n => simp only [walk, h, Option.bind_none, here]

/-- A walk stops at a POSTED entry whose settling would leave the range. -/
theorem walk_of_outOfRange {q : Nat} {e : Entry} (hc : a.cursor = some q) (he : log.find? (fun d => d.seq == q) = some e)
    (hp : e.state = .posted) (hr : ¬ (inRange (a.posted - e.signed) && inRange (a.settled + e.signed)) = true) :
    walk log a passed (fuel + 1) = { log := log, account := a, passed := passed, stopped := true } := by
  simp only [walk, hc, Option.bind_some, he, if_neg (not_not_intro hp), if_neg hr]

end Ends

/-! ## What every walk keeps (05 R100) -/

/-- An entry as a settlement may leave it: as it was, or from POSTED to SETTLED. -/
def Entry.SettlesTo (d e : Entry) : Prop := e = d ∨ (d.state = .posted ∧ e = { d with state := .settled })

theorem Entry.SettlesTo.trans {c d e : Entry} (h : c.SettlesTo d) (h' : d.SettlesTo e) : c.SettlesTo e := by
  rcases h with rfl | ⟨hc, rfl⟩
  · exact h'
  · rcases h' with rfl | ⟨hd, -⟩
    · exact .inr ⟨hc, rfl⟩
    · cases hd

theorem settlesTo_trans {k l m : List Entry} (h : List.Forall₂ Entry.SettlesTo k l)
    (h' : List.Forall₂ Entry.SettlesTo l m) : List.Forall₂ Entry.SettlesTo k m := by
  induction h generalizing m with
  | nil => exact h'
  | cons hcd _ ih =>
    cases h' with
    | cons hde rest => exact .cons (hcd.trans hde) (ih rest)

/-- Settling a POSTED entry of a log whose sequences differ changes that entry alone. -/
theorem settleIn_settlesTo {log : List Entry} {e : Entry} (hn : (log.map (·.seq)).Nodup) (he : e ∈ log)
    (hp : e.state = .posted) : List.Forall₂ Entry.SettlesTo log (settleIn log e.seq) := by
  refine List.forall₂_map_right_iff.mpr (List.forall₂_same.mpr (fun d hd => ?_))
  by_cases hq : d.seq = e.seq
  · obtain rfl := List.inj_on_of_nodup_map hn hd he hq
    exact .inr ⟨hp, if_pos rfl⟩
  · exact .inl (if_neg hq)

theorem walk_settlesTo (fuel : Nat) : ∀ (log : List Entry) (a : Account) (passed : Nat), (log.map (·.seq)).Nodup →
    List.Forall₂ Entry.SettlesTo log (walk log a passed fuel).log := by
  have same : ∀ log : List Entry, List.Forall₂ Entry.SettlesTo log log :=
    fun log => List.forall₂_same.mpr (fun _ _ => .inl rfl)
  induction fuel with
  | zero => exact fun log _ _ _ => same log
  | succ n ih =>
    intro log a passed hn
    rw [walk]
    split
    · exact same log
    rename_i e he
    obtain ⟨q, -, hfind⟩ := Option.bind_eq_some_iff.mp he
    have hmem := List.mem_of_find?_eq_some hfind
    split
    · exact ih log _ _ hn
    rename_i hp
    split
    · have first := settleIn_settlesTo hn hmem (not_not.mp hp)
      have rest := ih (settleIn log e.seq) { a.settling e with cursor := e.link } (passed + 1)
        (by rwa [settleIn_seqs])
      exact settlesTo_trans first rest
    · exact same log

/-- What leaves the posted total joins the settled total. -/
theorem walk_sum (fuel : Nat) : ∀ (log : List Entry) (a : Account) (passed : Nat),
    (walk log a passed fuel).account.posted + (walk log a passed fuel).account.settled = a.posted + a.settled := by
  induction fuel with
  | zero => exact fun _ _ _ => rfl
  | succ n ih =>
    intro log a passed
    rw [walk]
    split
    · rfl
    split
    · exact ih _ _ _
    split
    · rw [ih]
      simp only [Account.settling]
      omega
    · rfl

/-- A walk that stopped has its cursor at the entry it stopped at. -/
theorem walk_stopped_cursor (fuel : Nat) : ∀ (log : List Entry) (a : Account) (passed : Nat),
    (walk log a passed fuel).stopped = true → ∃ q, (walk log a passed fuel).account.cursor = some q := by
  induction fuel with
  | zero => exact nofun
  | succ n ih =>
    intro log a passed
    rw [walk]
    split
    · exact nofun
    rename_i e he
    obtain ⟨q, hq, -⟩ := Option.bind_eq_some_iff.mp he
    split
    · exact ih _ _ _
    split
    · exact ih _ _ _
    · exact fun _ => ⟨q, hq⟩

/-! ## SETTLE STEP (05 R101, R102) -/

theorem serveSettleStep_notFound (hf : s.findFolio folio.toNat = none) :
    serveSettleStep folio s = (s, Reply.refuse .notFound) := by
  simp only [serveSettleStep, hf]

section Found

variable (hf : s.findFolio folio.toNat = some (slot, a))

include hf

theorem serveSettleStep_opened (ho : a.state = .opened) : serveSettleStep folio s = (s, Reply.refuse .slotState) := by
  simp only [serveSettleStep, hf, ho]

theorem serveSettleStep_settled (ho : a.state = .settled) :
    serveSettleStep folio s = (s, Reply.ok (u8 0 ++ u8 3 ++ i32 a.posted ++ i32 a.settled)) := by
  simp only [serveSettleStep, hf, ho]
  rfl

section Settling

variable (ho : a.state = .settling) {log : List Entry} {b : Account} {n : Nat}

include ho

/-- The walk passed the end of the chain: the account is SETTLED. -/
theorem serveSettleStep_done
    (hw : walk s.log a 0 32 = { log := log, account := b, passed := n, stopped := false }) (hc : b.cursor = none) :
    serveSettleStep folio s = ({ s with log := log, accounts := s.accounts.store slot { b with state := .settled } },
      Reply.ok (u8 n ++ u8 3 ++ i32 b.posted ++ i32 b.settled)) := by
  simp only [serveSettleStep, hf, ho, Config.settleStride, hw, hc]
  rfl

/-- The walk passed 32 entries, and the cursor names the next. -/
theorem serveSettleStep_more {q : Nat}
    (hw : walk s.log a 0 32 = { log := log, account := b, passed := n, stopped := false }) (hc : b.cursor = some q) :
    serveSettleStep folio s = ({ s with log := log, accounts := s.accounts.store slot b },
      { Reply.ok (u8 n ++ u32 q ++ i32 b.posted ++ i32 b.settled) with more := true }) := by
  simp only [serveSettleStep, hf, ho, Config.settleStride, hw, hc]
  rfl

/-- The walk stopped at an entry whose settling would leave the range. -/
theorem serveSettleStep_stopped {q : Nat}
    (hw : walk s.log a 0 32 = { log := log, account := b, passed := n, stopped := true }) (hc : b.cursor = some q) :
    serveSettleStep folio s = ({ s with log := log, accounts := s.accounts.store slot b },
      { Reply.of .amountRange (u8 n ++ u32 q) with more := true }) := by
  simp only [serveSettleStep, hf, ho, Config.settleStride, hw, hc]
  rfl

/-- On a log whose sequences differ, a step writes what its walk left: the totals keep their sum, entries only go from
POSTED to SETTLED, and the account is SETTLED exactly when MORE is clear. -/
theorem serveSettleStep_walks (hlog : s.logOk = true) : ∃ (log : List Entry) (b : Account) (r : Reply),
    serveSettleStep folio s = ({ s with log := log, accounts := s.accounts.store slot b }, r) ∧
      b = { a with state := b.state, posted := b.posted, settled := b.settled, cursor := b.cursor } ∧
      b.posted + b.settled = a.posted + a.settled ∧ List.Forall₂ Entry.SettlesTo s.log log ∧
      (r.more = false → r.result = .ok ∧ b.state = .settled ∧ b.cursor = none) ∧
      (r.more = true → b.state = .settling ∧ b.cursor ≠ none ∧ (r.result = .ok ∨ r.result = .amountRange)) := by
  have entries := walk_settlesTo 32 s.log a 0 (State.seqs_nodup hlog)
  have sum := walk_sum 32 s.log a 0
  have cursor := walk_stopped_cursor 32 s.log a 0
  obtain ⟨x, y, c, account⟩ := walk_account s.log a 0 32
  rcases hw : walk s.log a 0 32 with ⟨log, b, n, stopped⟩
  rw [hw] at entries sum cursor account
  obtain rfl : b = { a with posted := x, settled := y, cursor := c } := account
  cases stopped with
  | true =>
    obtain ⟨q, hq⟩ := cursor rfl
    obtain rfl : c = some q := hq
    exact ⟨log, _, _, serveSettleStep_stopped hf ho hw rfl, rfl, sum, entries, nofun, fun _ => ⟨ho, nofun, .inr rfl⟩⟩
  | false =>
    cases c with
    | some q =>
      exact ⟨log, _, _, serveSettleStep_more hf ho hw rfl, rfl, sum, entries, nofun, fun _ => ⟨ho, nofun, .inl rfl⟩⟩
    | none => exact ⟨log, _, _, serveSettleStep_done hf ho hw rfl, rfl, sum, entries, fun _ => ⟨rfl, rfl, rfl⟩, nofun⟩

end Settling

end Found

/-! ## The walk of a run (05 R100) -/

theorem inRange_iff {x : Int} : inRange x = true ↔ -2000000000 ≤ x ∧ x ≤ 2000000000 := by
  simp only [inRange, Bool.and_eq_true, decide_eq_true_eq]

/-- Settling a run leaves the look-up of any sequence outside it. -/
theorem find_settleAll {log run : List Entry} {q : Nat} {e : Entry} (hq : q ∉ run.map (·.seq))
    (he : log.find? (fun d => d.seq == q) = some e) : (settleAll log run).find? (fun d => d.seq == q) = some e := by
  have seq : e.seq = q := by simpa using List.find?_some he
  have outside : e.seq ∉ (run.filter (fun d => d.state == .posted)).map (·.seq) := fun h =>
    hq (seq ▸ List.map_subset _ (List.filter_subset_self _) h)
  have keeps : ((fun d : Entry => d.seq == q) ∘ fun d : Entry =>
      if d.seq ∈ (run.filter (fun e => e.state == .posted)).map (·.seq) then { d with state := .settled } else d) =
        fun d => d.seq == q := by
    funext d
    simp only [Function.comp]
    split <;> rfl
  rw [settleAll, List.find?_map, keeps, he, Option.map_some, if_neg outside]

/-- The account that a run of settled entries leaves, with its cursor past the run. -/
def Account.past (a : Account) (run : List Entry) (next : Option Nat) : Account :=
  { a with posted := a.posted - signedSum run, settled := a.settled + signedSum run, cursor := next }

/-- Both totals stay in the range of R93 when an amount moves. -/
def Account.fits (a : Account) (x : Int) : Prop :=
  -2000000000 ≤ a.posted - x ∧ a.posted - x ≤ 2000000000 ∧ -2000000000 ≤ a.settled + x ∧ a.settled + x ≤ 2000000000

theorem account_fits_iff {x : Int} :
    a.fits x ↔ inRange (a.posted - x) = true ∧ inRange (a.settled + x) = true := by
  rw [inRange_iff, inRange_iff, Account.fits, and_assoc]

section Run

variable {run : List Entry} {next : Option Nat} (hlen : run.length ≤ 32) (hn : (run.map (·.seq)).Nodup)
  (hfind : ∀ e ∈ run, s.findEntry e.seq = some e)
  (hlinks : a.cursor :: run.map (·.link) = run.map (fun e => some e.seq) ++ [next])
  (hfits : ∀ n e, run[n]? = some e → e.state = .posted → a.fits (signedSum (run.take (n + 1))))

include hlen hn hfind hlinks hfits

theorem walk_past : walk s.log a 0 32 =
    walk (settleAll s.log run) (a.past run next) run.length (32 - run.length) := by
  rw [walk_run run s.log a 0 32 next hlen hn hfind hlinks (fun n e he hp => account_fits_iff.mp (hfits n e he hp)),
    Nat.zero_add]
  rfl

theorem walk_run_ended (h : next = none) : walk s.log a 0 32 =
    { log := settleAll s.log run, account := a.past run next, passed := run.length, stopped := false } := by
  rw [walk_past hlen hn hfind hlinks hfits, walk_of_cursor_none _ _ _ h]

theorem walk_run_full (h : run.length = 32) : walk s.log a 0 32 =
    { log := settleAll s.log run, account := a.past run next, passed := 32, stopped := false } := by
  rw [walk_past hlen hn hfind hlinks hfits, h]
  rfl

theorem walk_run_stopped {q : Nat} {e : Entry} (h : next = some q) (hshort : run.length < 32)
    (hq : q ∉ run.map (·.seq)) (he : s.findEntry q = some e) (hp : e.state = .posted)
    (hr : ¬ a.fits (signedSum run + e.signed)) : walk s.log a 0 32 =
      { log := settleAll s.log run, account := a.past run next, passed := run.length, stopped := true } := by
  obtain ⟨fuel, hfuel⟩ : ∃ n, 32 - run.length = n + 1 := ⟨31 - run.length, by omega⟩
  have leaves : ¬ (inRange ((a.past run next).posted - e.signed) &&
      inRange ((a.past run next).settled + e.signed)) = true := by
    rw [account_fits_iff, ← Int.sub_sub, ← Int.add_assoc] at hr
    rwa [Bool.and_eq_true]
  rw [walk_past hlen hn hfind hlinks hfits, hfuel, walk_of_outOfRange _ _ _ h (find_settleAll hq he) hp leaves]

end Run

/-- Settles O42: each state of the account, what any walk keeps, and the three ends of a walk over a run. -/
theorem settlementWalks : Obligations.SettlementWalks := by
  intro s p tag folio h
  rw [exec_settleStep h]
  refine ⟨fun hf => ?_, fun slot a hf => ⟨fun ho => ?_, fun ho => ?_, fun ho hc => ?_, fun ho hlog => ?_,
    fun run next ho hlen hn hfind hlinks hfits => ⟨fun hnext => ?_, fun q hnext hfull => ?_,
      fun q e hnext hshort hq he hp hr => ?_⟩⟩⟩
  · rw [serveSettleStep_notFound hf, Served.answers_mk]
  · rw [serveSettleStep_opened hf ho, Served.answers_mk]
  · rw [serveSettleStep_settled hf ho, Served.answers_mk]
  · rw [serveSettleStep_done hf ho (walk_of_cursor_none _ _ _ hc) hc, Served.answers_mk]
  · obtain ⟨log, b, r, served, kept⟩ := serveSettleStep_walks hf ho hlog
    exact ⟨log, b, r, by rw [served, Served.answers_mk], kept⟩
  · rw [serveSettleStep_done hf ho (walk_run_ended hlen hn hfind hlinks hfits hnext) hnext, Served.answers_mk]
    rfl
  · rw [serveSettleStep_more hf ho (walk_run_full hlen hn hfind hlinks hfits hfull) hnext, Served.answers_mk]
    rfl
  · rw [serveSettleStep_stopped hf ho (walk_run_stopped hlen hn hfind hlinks hfits hnext hshort hq he hp hr) hnext,
      Served.answers_mk]
    rfl

end Sys2Proof.Machine
end

section
/-! PROOFS. WindowsReadItems: what WINDOW READ answers, and the items that remain in a window on each collection (05
R111; 09 R175, R176). -/

namespace Sys2Proof.Machine

variable {s : State} {p : Port} {tag : Byte}

/-! ## From a command to its rule -/

/-- A request that every profile may issue and that keeps the window meets its rule. -/
theorem submit_shared_keeps {req : Request} (h : s.ready p) (ho : ownerOf req.code.toNat = none)
    (hk : keepsWindow req = true) (hb : req ≠ .badFrame) (hu : ∀ c, req ≠ .unknown c) :
    Host.Outcome.next (s.submit p tag req) = (serve p req s).keeps p req.code tag := by
  have hm : mayIssue (s.ports.get p).profile req = true := by rw [mayIssue, ho]
  rw [Served.keeps, State.submit_ready s p tag req h, State.execute, State.effect, if_pos hk,
    State.answer_serve s p req hm hb hu]

theorem exec_windowRead (h : s.ready p) : exec (.windowRead p tag) s = (serveWindowRead p s).keeps p 0x0F#8 tag :=
  submit_shared_keeps h rfl rfl nofun nofun

/-! ## WINDOW READ (05 R111; 09 R175) -/

theorem serveWindowRead_noWindow (hw : (s.ports.get p).window = none) :
    serveWindowRead p s = (s, Reply.refuse .slotState) := by
  simp only [serveWindowRead, hw]

theorem serveWindowRead_reading {w : Window} (hw : (s.ports.get p).window = some w)
    (hread : ∀ folio serial start ending cursor, w ≠ .chain true folio serial start ending cursor) :
    serveWindowRead p s = s.readItems p w := by
  cases w with
  | chain review folio serial start ending cursor =>
    cases review with
    | true => exact absurd rfl (hread folio serial start ending cursor)
    | false => simp only [serveWindowRead, hw]
  | missing => simp only [serveWindowRead, hw]
  | history => simp only [serveWindowRead, hw]
  | closures => simp only [serveWindowRead, hw]

theorem State.readItems_ended {w : Window} (h : s.remaining w = []) : s.readItems p w = (s, Reply.noItems) := by
  rw [State.readItems, h]
  rfl

theorem State.readItems_some {w : Window} {last : List Byte × Window}
    (h : ((s.remaining w).take 8).getLast? = some last) : s.readItems p w =
      (s.setWindow p last.2,
        { Reply.ok (listOf (fun x : List Byte × Window => x.1) ((s.remaining w).take 8)) with
          more := decide (8 < (s.remaining w).length) }) := by
  simp only [State.readItems, Config.windowStride, h]

section Review

variable {folio serial : Nat} {start ending cursor : Option Nat}

theorem serveWindowRead_review (hw : (s.ports.get p).window = some (.chain true folio serial start ending cursor)) :
    serveWindowRead p s = (s, s.reviewRead serial start cursor) := by
  simp only [serveWindowRead, hw]

theorem State.reviewRead_ended (h : s.findSerial serial = none ∨ cursor = none) :
    s.reviewRead serial start cursor = Reply.noItems := by
  rcases h with h | rfl
  · simp only [State.reviewRead, h]
  · rw [State.reviewRead]
    cases s.findSerial serial <;> rfl

theorem State.reviewRead_at {x : Nat × Account} {q : Nat} {e : Entry} (hx : s.findSerial serial = some x)
    (he : s.findEntry q = some e) : s.reviewRead serial start (some q) =
      Reply.ok (u8 1 ++ s.entryItem e ++ u32 (s.chainItems start (some q)).length) := by
  simp only [State.reviewRead, hx, Option.bind_some, he]

end Review

/-! ## Items of a chain (09 R176) -/

theorem State.entryItem_eq (s : State) (e : Entry) : s.entryItem e =
    e.bytes ((s.findSerial e.serial).map (fun y => y.2.folio)) (e.origin.bind (fun o => s.cardNumber o.holder)) := by
  rw [State.entryItem]
  cases e.origin <;> rfl

theorem chainFrom_none (log : List Entry) (z fuel : Nat) : chainFrom log z fuel none = [] := by
  cases fuel <;> rfl

theorem State.chainItems_past (s : State) (ending : Option Nat) : s.chainItems none ending = [] := by
  cases ending with
  | none => rfl
  | some z => exact chainFrom_none _ _ _

section Chain

variable {review : Bool} {folio serial : Nat} {start ending cursor : Option Nat}

theorem State.remaining_chain {x : Nat × Account} (hx : s.findSerial serial = some x) :
    s.remaining (.chain review folio serial start ending cursor) = (s.chainItems cursor ending).map (fun e =>
      (s.entryItem e, .chain review folio serial start ending (cursorPast ending e))) := by
  simp only [State.remaining, hx, Option.isNone_some, Bool.false_eq_true, if_false]

/-- No items remain with the account gone, on a chain without an end, or past the end. -/
theorem State.remaining_chain_ended (h : s.findSerial serial = none ∨ ending = none ∨ cursor = none) :
    s.remaining (.chain review folio serial start ending cursor) = [] := by
  cases hx : s.findSerial serial with
  | none => simp only [State.remaining, hx, Option.isNone_none, if_true]
  | some x =>
    have none_left : s.chainItems cursor ending = [] := by
      rcases h with h | rfl | rfl
      · rw [hx] at h
        cases h
      · rfl
      · exact s.chainItems_past ending
    rw [State.remaining_chain hx, none_left, List.map_nil]

end Chain

/-- The cursor past an entry of a chain with an end. -/
theorem cursorPast_some (z : Nat) (e : Entry) : cursorPast (some z) e = if e.seq = z then none else e.link := by
  simp only [cursorPast, Option.some.injEq]

/-! ## Items counted in positions (09 R176) -/

/-- The n-th item of a list read by position, each item with what is made of it and its position. -/
theorem positioned_map_get {α β : Type} (items : List α) (gone cursor z n : Nat) (f : Nat × α → β) :
    ((positioned items gone cursor (some z)).map f)[n]? =
      if max cursor (gone + 1) + n ≤ z then
        (items[max cursor (gone + 1) + n - 1 - gone]?).map (fun x => f (max cursor (gone + 1) + n, x))
      else none := by
  rw [List.getElem?_map, positioned_get]
  split
  · rw [Option.map_map]
    rfl
  · rfl

theorem State.historyOf_some {slot : Nat} {k : Cabin} (hk : s.cabins.fetch slot = some k) :
    s.historyOf slot = k.history := by
  simp only [State.historyOf, hk]

theorem State.missingItem_some {x : Nat} {c : Cardholder} (hc : s.roster.fetch x = some c) : s.missingItem x =
    u16 x ++ u32 c.card ++ u8 c.kind.code ++ u8 c.state.code ++ optional Transit.bytes c.lastTransit := by
  simp only [State.missingItem, hc]

/-- Settles O14: WINDOW READ by the window of its port, then the items of each collection. -/
theorem windowsReadItems : Obligations.WindowsReadItems := by
  refine ⟨fun s p tag h => ?_, fun s review folio serial start => ⟨fun ending cursor hend => ?_,
    fun x run z q hx hlen hq hz hfind hlinks => ?_⟩, fun s start cursor => ⟨rfl, fun z => rfl, fun x c hc => ?_⟩,
    fun s number slot start cursor added => ⟨fun ending => rfl, rfl, fun k z hk n => ?_⟩,
    fun s start cursor taken => ⟨rfl, fun z n => ?_⟩⟩
  · rw [exec_windowRead h]
    refine ⟨fun hw => ?_, fun w hw hread => ⟨fun hend => ?_, fun last hlast => ?_⟩,
      fun folio serial start ending cursor hw => ⟨fun hend => ?_, fun x q e hx hc he => ?_⟩⟩
    · rw [serveWindowRead_noWindow hw, Served.keeps_mk]
    · rw [serveWindowRead_reading hw hread, State.readItems_ended hend]
      rfl
    · rw [serveWindowRead_reading hw hread, State.readItems_some hlast, Served.keeps_mk]
    · rw [serveWindowRead_review hw, State.reviewRead_ended hend]
      rfl
    · rw [serveWindowRead_review hw, hc, State.reviewRead_at hx he, Served.keeps_mk]
  · exact State.remaining_chain_ended hend
  · have items : s.chainItems (some q) (some z) = run := chainFrom_run run s.log.length q hlen hq hz hfind hlinks
    rw [State.remaining_chain hx, items]
    simp only [State.entryItem_eq, cursorPast_some, and_self]
  · exact State.missingItem_some hc
  · have history := State.historyOf_some hk
    rw [← history]
    exact positioned_map_get _ _ _ _ _ _
  · exact positioned_map_get _ _ _ _ _ _

end Sys2Proof.Machine
end

section
/-! PROOFS. WindowsOpen: WINDOW OPEN on each collection in each mode, and its refusals (05 R110; 09 R174, R177). -/

namespace Sys2Proof.Machine

variable {s : State} {p : Port} {tag collection mode : Byte} {key start : BitVec 32}

/-! ## From the two commands to the rule -/

theorem exec_windowOpen (h : s.ready p) : exec (.windowOpen p tag collection mode key start) s =
    (serveWindowOpen p collection mode key start s).keeps p 0x0E#8 tag :=
  submit_shared_keeps h rfl rfl nofun nofun

theorem exec_windowOpenReview (h : s.ready p) : exec (.windowOpenReview p tag collection key start) s =
    (serveWindowOpen p collection 1#8 key start s).keeps p 0x0E#8 tag :=
  submit_shared_keeps h rfl rfl nofun nofun

/-- A refused WINDOW OPEN closes the window. -/
theorem windowOpen_refused {r : Result} (hw : s.openWindow p collection mode key.toNat start.toNat = .error r) :
    (serveWindowOpen p collection mode key start s).keeps p 0x0E#8 tag =
      .next ((s.closeWindow p).respond p 0x0E#8 tag (Reply.refuse r)) := by
  simp only [serveWindowOpen, hw, Served.keeps_mk]

/-- A WINDOW OPEN that passes opens its window, and answers its bounds and the items that remain. -/
theorem windowOpen_opens {w : Window} {n : Nat} (hw : s.openWindow p collection mode key.toNat start.toNat = .ok w)
    (hn : (s.remaining w).length = n) : (serveWindowOpen p collection mode key start s).keeps p 0x0E#8 tag =
      .next ((s.setWindow p w).respond p 0x0E#8 tag
        (Reply.ok (u32 w.bounds.1 ++ optional u32 w.bounds.2 ++ u32 n))) := by
  simp only [serveWindowOpen, hw, hn, Served.keeps_mk]

/-! ## Mode and collection (09 R174, check 1) -/

theorem Collection.ofCode_none (h : collection.toNat = 0 ∨ 4 < collection.toNat) :
    Collection.ofCode collection = none := by
  unfold Collection.ofCode
  split
  · omega
  · omega
  · omega
  · omega
  · rfl

theorem State.openWindow_badField {key start : Nat}
    (h : 1 < mode.toNat ∨ (mode = 0x00#8 ∧ (collection.toNat = 0 ∨ 4 < collection.toNat))) :
    s.openWindow p collection mode key start = .error .badField := by
  rcases h with h | ⟨rfl, h⟩
  · have notReview : mode ≠ 1#8 := by rintro rfl; exact absurd h (by decide)
    have notRead : mode ≠ 0#8 := by rintro rfl; exact absurd h (by decide)
    rw [State.openWindow, if_neg notReview, if_pos notRead]
  · rw [State.openWindow, if_neg (by decide), if_neg (by decide), Collection.ofCode_none h]

/-! ## Chains (05 R110; 09 R174) -/

/-- A window on the chain of an account found, or the refusal of its start sequence. -/
def State.openChain (s : State) (review : Bool) (a : Account) (start : Nat) : Except Result Window :=
  if s.chainStartOk a start then .ok (chainWindow review a start) else .error .badField

section Chain

variable {review : Bool} {a : Account} {key start : Nat}

theorem State.openRead_noFolio (hf : s.findFolio key = none) : s.openRead .chain key start = .error .notFound := by
  simp only [State.openRead, hf]

theorem State.openRead_chain {slot : Nat} (hf : s.findFolio key = some (slot, a)) :
    s.openRead .chain key start = s.openChain false a start := by
  simp only [State.openRead, hf, State.openChain]

theorem State.openChain_first (h : start = 0) :
    s.openChain review a start = .ok (.chain review a.folio a.serial a.first a.last a.first) := by
  subst h
  rfl

theorem State.chainStartOk_of_found {e : Entry} (h : start ≠ 0) (he : s.findEntry start = some e) :
    s.chainStartOk a start = (e.serial == a.serial) := by
  simp only [State.chainStartOk, h, he, decide_false, Bool.false_or]

theorem State.openChain_at {e : Entry} (h : start ≠ 0) (he : s.findEntry start = some e)
    (hserial : e.serial = a.serial) :
    s.openChain review a start = .ok (.chain review a.folio a.serial (some start) a.last (some start)) := by
  rw [State.openChain, State.chainStartOk_of_found h he, hserial, if_pos (beq_self_eq_true _), chainWindow, if_neg h]

theorem State.openChain_foreign {e : Entry} (h : start ≠ 0) (he : s.findEntry start = some e)
    (hserial : e.serial ≠ a.serial) : s.openChain review a start = .error .badField := by
  rw [State.openChain, State.chainStartOk_of_found h he, if_neg (by simpa using hserial)]

theorem State.openChain_noEntry (h : start ≠ 0) (he : s.findEntry start = none) :
    s.openChain review a start = .error .badField := by
  simp only [State.openChain, State.chainStartOk, h, he, decide_false, Bool.or_self, Bool.false_eq_true, if_false]

/-! ## Review (05 R110) -/

theorem State.openReview_notPermitted (hp : (s.ports.get p).profile ≠ .purser) :
    s.openReview p collection key start = .error .notPermitted :=
  if_pos hp

section Purser

variable (hp : (s.ports.get p).profile = .purser)

include hp

theorem State.openReview_badCollection (hc : collection ≠ 0x01#8) :
    s.openReview p collection key start = .error .badField := by
  rw [State.openReview, if_neg (not_not_intro hp), if_pos hc]

theorem State.openReview_noFolio (hf : s.findFolio key = none) :
    s.openReview p 0x01#8 key start = .error .notFound := by
  simp only [State.openReview, if_neg (not_not_intro hp), ne_eq, not_true_eq_false, if_false, hf]

theorem State.openReview_notOpen {slot : Nat} (hf : s.findFolio key = some (slot, a)) (ho : a.state ≠ .opened) :
    s.openReview p 0x01#8 key start = .error .slotState := by
  simp only [State.openReview, if_neg (not_not_intro hp), ne_eq, not_true_eq_false, if_false, hf, if_pos ho]

theorem State.openReview_open {slot : Nat} (hf : s.findFolio key = some (slot, a)) (ho : a.state = .opened) :
    s.openReview p 0x01#8 key start = s.openChain true a start := by
  simp only [State.openReview, if_neg (not_not_intro hp), ne_eq, not_true_eq_false, if_false, hf, ho, State.openChain]

end Purser

end Chain

/-! ## Positions (09 R174, R176) -/

theorem lastPosition_of_pos {n : Nat} (h : n ≠ 0) : lastPosition n = some n := if_neg h

/-- The items from an opening position to the end, with none gone. -/
theorem positioned_length {α : Type} (items : List α) (start : Nat) :
    (positioned items 0 (max 1 start) (some items.length)).length = items.length + 1 - max 1 start := by
  simp only [positioned, List.zip, List.length_zipWith, List.length_range', List.length_drop]
  omega

section Positions

variable {key start slot : Nat} {k : Cabin}

theorem State.openRead_missing (key : Nat) (h : start < 8192) :
    s.openRead .missing key start = .ok (.missing start s.missing.getLast? start) :=
  if_neg (Nat.not_le.mpr h)

theorem State.openRead_missing_badField (key : Nat) (h : 8192 ≤ start) : s.openRead .missing key start = .error .badField :=
  if_pos h

theorem State.openRead_noCabin (hf : s.findCabin key = none) : s.openRead .history key start = .error .notFound := by
  simp only [State.openRead, hf]

theorem State.openRead_history_badField (hf : s.findCabin key = some (slot, k)) (h : k.history.length < start) :
    s.openRead .history key start = .error .badField := by
  simp only [State.openRead, hf, if_pos h]

theorem State.openRead_history (hf : s.findCabin key = some (slot, k)) (h : start ≤ k.history.length) :
    s.openRead .history key start =
      .ok (.history k.number slot (max 1 start) (lastPosition k.history.length) (max 1 start) 0 false) := by
  simp only [State.openRead, hf, if_neg (Nat.not_lt.mpr h)]

theorem State.openRead_closures_badField (key : Nat) (h : s.closures.length < start) :
    s.openRead .closures key start = .error .badField :=
  if_pos h

theorem State.openRead_closures (key : Nat) (h : start ≤ s.closures.length) : s.openRead .closures key start =
    .ok (.closures (max 1 start) (lastPosition s.closures.length) (max 1 start) 0) :=
  if_neg (Nat.not_lt.mpr h)

theorem State.remaining_missing_length (s : State) (start cursor : Nat) (ending : Option Nat) :
    (s.remaining (.missing start ending cursor)).length = (s.missingItems cursor ending).length :=
  List.length_map _

theorem State.remaining_history_length (hk : s.cabins.fetch slot = some k) (number : Nat) :
    (s.remaining (.history number slot (max 1 start) (some k.history.length) (max 1 start) 0 false)).length =
      k.history.length + 1 - max 1 start := by
  have gone : historyGone 0 (some k.history.length) = 0 := Nat.zero_sub _
  simp only [State.remaining, Bool.false_eq_true, if_false, List.length_map, State.historyOf_some hk, gone,
    positioned_length]

theorem State.remaining_closures_length (s : State) (start : Nat) :
    (s.remaining (.closures (max 1 start) (some s.closures.length) (max 1 start) 0)).length =
      s.closures.length + 1 - max 1 start := by
  rw [State.remaining, List.length_map, positioned_length]

end Positions

/-- Settles O13: the mode, then each collection by what is found and where the window starts. -/
theorem windowsOpen : Obligations.WindowsOpen := by
  intro s p tag key start h
  simp only [exec_windowOpen h, exec_windowOpenReview h]
  refine ⟨fun slot a hf h0 => ⟨?_, fun hp ho => ?_, fun hp ho => ?_⟩,
    fun slot a e hf h0 he => ⟨fun hs => ?_, fun hs => ?_, fun hp ho => ⟨fun hs => ?_, fun hs => ?_⟩, fun hp ho => ?_⟩,
    fun slot a hf h0 he => ⟨?_, fun hp => ⟨fun ho => ?_, fun ho => ?_⟩⟩,
    fun hf => ⟨?_, fun hp => ?_⟩, fun collection => ⟨fun hp hc => ?_, fun hp => ?_⟩,
    fun collection mode hbad => windowOpen_refused (State.openWindow_badField hbad),
    fun hf => windowOpen_refused (State.openRead_noCabin hf),
    fun slot k hf hlen => windowOpen_refused (State.openRead_history_badField hf hlen),
    fun slot k hf h0 hempty => ?_, fun h0 hempty => ?_,
    fun hin => windowOpen_opens (State.openRead_missing key.toNat hin) (s.remaining_missing_length _ _ _),
    fun hout => windowOpen_refused (State.openRead_missing_badField key.toNat hout),
    fun slot k hf hk hlen hne => ?_, fun hlen hne => ?_,
    fun hlen => windowOpen_refused (State.openRead_closures_badField key.toNat hlen),
    fun hp => windowOpen_refused (State.openReview_notPermitted hp)⟩
  · exact windowOpen_opens ((State.openRead_chain hf).trans (State.openChain_first h0)) rfl
  · exact windowOpen_opens ((State.openReview_open hp hf ho).trans (State.openChain_first h0)) rfl
  · exact windowOpen_refused (State.openReview_notOpen hp hf ho)
  · exact windowOpen_opens ((State.openRead_chain hf).trans (State.openChain_at h0 he hs)) rfl
  · exact windowOpen_refused ((State.openRead_chain hf).trans (State.openChain_foreign h0 he hs))
  · exact windowOpen_opens ((State.openReview_open hp hf ho).trans (State.openChain_at h0 he hs)) rfl
  · exact windowOpen_refused ((State.openReview_open hp hf ho).trans (State.openChain_foreign h0 he hs))
  · exact windowOpen_refused (State.openReview_notOpen hp hf ho)
  · exact windowOpen_refused ((State.openRead_chain hf).trans (State.openChain_noEntry h0 he))
  · exact windowOpen_refused ((State.openReview_open hp hf ho).trans (State.openChain_noEntry h0 he))
  · exact windowOpen_refused (State.openReview_notOpen hp hf ho)
  · exact windowOpen_refused (State.openRead_noFolio hf)
  · exact windowOpen_refused (State.openReview_noFolio hp hf)
  · exact windowOpen_refused (State.openReview_badCollection hp hc)
  · exact windowOpen_refused (State.openReview_notPermitted hp)
  · have one : max 1 start.toNat = 1 := by omega
    have opened := State.openRead_history hf (start := start.toNat) (by omega)
    rw [one, hempty] at opened
    exact windowOpen_opens opened rfl
  · have one : max 1 start.toNat = 1 := by omega
    have opened := State.openRead_closures (s := s) (start := start.toNat) key.toNat (by omega)
    rw [one, hempty] at opened
    exact windowOpen_opens opened rfl
  · have opened := State.openRead_history hf hlen
    rw [lastPosition_of_pos (mt List.length_eq_zero_iff.mp hne)] at opened
    exact windowOpen_opens opened (State.remaining_history_length hk _)
  · have opened := State.openRead_closures key.toNat hlen
    rw [lastPosition_of_pos (mt List.length_eq_zero_iff.mp hne)] at opened
    exact windowOpen_opens opened (s.remaining_closures_length _)

end Sys2Proof.Machine
end

section
/-! PROOFS. The lane controllers: faults, reads taken, complete messages and the bytes of one (06 R117 to R124, R128).
ReadMessagesAreAnswered. -/

namespace Sys2Proof.Machine

variable {s : State} {l : Lane} {x : LaneState} {r : LaneRead}

/-- Two changes of one lane are one. -/
@[simp] theorem State.modLane_modLane (s : State) (l : Lane) (f g : LaneState → LaneState) :
    (s.modLane l f).modLane l g = s.modLane l (fun x => g (f x)) := by
  simp [State.modLane]

/-! ## Faults (06 R119) -/

/-- With a place in the verdict buffer a fault is answered RESEND. -/
theorem LaneState.fault_room (h : x.verdicts.length < 2) (c : Cause) : x.fault c =
    { x with
      receiver := .idle
      faults := min 255 (x.faults + 1)
      lastFault := some c
      verdicts := x.verdicts ++ [{ seq := 0, verdict := .resend, cause := c }] } :=
  if_pos h

/-- At a full verdict buffer a fault is counted alone. -/
theorem LaneState.fault_full (h : 2 ≤ x.verdicts.length) (c : Cause) : x.fault c =
    { x with receiver := .idle, faults := min 255 (x.faults + 1), lastFault := some c } :=
  if_neg (Nat.not_lt.mpr h)

/-! ## Taking a read (06 R123, R124) -/

theorem LaneState.repeats_some {m : RepeatRecord} {timer : Nat} (hm : x.lastRead = some m) (hseq : r.seq ≠ 0)
    (hread : m.read = r) (htime : timer < m.decidedAt + 5000) : x.repeats r timer = some m := by
  rw [LaneState.repeats, hm]
  exact if_pos ⟨hseq, hread, htime⟩

theorem LaneState.repeats_none {timer : Nat}
    (h : ∀ m, x.lastRead = some m → r.seq = 0 ∨ m.read ≠ r ∨ m.decidedAt + 5000 ≤ timer) :
    x.repeats r timer = none := by
  unfold LaneState.repeats
  split
  · rfl
  · next m hm =>
    refine if_neg fun ⟨hseq, hread, htime⟩ => ?_
    rcases h m hm with h | h | h
    · exact hseq h
    · exact h hread
    · exact Nat.not_lt.mpr h htime

theorem State.takeRead_halted (h : (s.lanes.get l).mode = .halt) (r : LaneRead) : s.takeRead l r =
    s.modLane l (fun x => x.join { seq := r.seq, verdict := .stop, cause := .halted }) :=
  if_pos h

theorem State.takeRead_repeated {m : RepeatRecord} (hn : (s.lanes.get l).mode = .normal)
    (h : (s.lanes.get l).repeats r s.timer = some m) : s.takeRead l r =
    s.modLane l (fun x => x.join { seq := r.seq, verdict := m.verdict, cause := m.cause }) := by
  rw [State.takeRead, if_neg (by rw [hn]; nofun), h]

theorem State.takeRead_judged (hn : (s.lanes.get l).mode = .normal) (h : (s.lanes.get l).repeats r s.timer = none) :
    s.takeRead l r =
      (s.applyRead l (s.judge l r).effect).modLane l (fun x => x.judged r (s.judge l r) s.timer) := by
  rw [State.takeRead, if_neg (by rw [hn]; nofun), h]

theorem State.judge_refused (h : (s.lanes.get l).dirSetting.refuses r.dir = true) :
    s.judge l r = .plain .stop .wrongLane :=
  if_pos h

theorem State.judge_decided (h : (s.lanes.get l).dirSetting.refuses r.dir = false) :
    s.judge l r = s.decideRead r.card r.gen r.dir :=
  if_neg (by rw [h]; nofun)

/-! ## A complete message (06 R118, R121, R128) -/

theorem State.validRead_taken (h : (s.lanes.get l).verdicts.length < 2) : s.validRead l r = s.takeRead l r := if_pos h

theorem State.validRead_held (h : 2 ≤ (s.lanes.get l).verdicts.length) (hh : (s.lanes.get l).holding = none) :
    s.validRead l r = s.modLane l (fun x => { x with holding := some r }) := by
  rw [State.validRead, if_neg (Nat.not_lt.mpr h), hh]

theorem State.validRead_overrun (h : 2 ≤ (s.lanes.get l).verdicts.length) (hh : (s.lanes.get l).holding ≠ none) :
    s.validRead l r = s.modLane l (fun x => x.countFault .overrun) := by
  obtain ⟨held, hheld⟩ := Option.ne_none_iff_exists'.mp hh
  rw [State.validRead, if_neg (Nat.not_lt.mpr h), hheld]

theorem Direction.ofCode_none {b : Byte} (h : b.toNat = 0 ∨ 2 < b.toNat) : Direction.ofCode b = none := by
  unfold Direction.ofCode
  split
  · omega
  · omega
  · rfl

section Message

variable {kind : Byte} {card : BitVec 32} {gen direction seq : Byte} {crc : BitVec 16}

theorem State.completeMessage_crc (h : crc ≠ crc16 (readContent kind card gen direction seq)) :
    s.completeMessage l kind card gen direction seq crc = s.modLane l (fun x => x.fault .crc) :=
  if_pos h

theorem State.completeMessage_format (hc : crc = crc16 (readContent kind card gen direction seq))
    (h : kind ≠ 0x01#8 ∨ direction.toNat = 0 ∨ 2 < direction.toNat) :
    s.completeMessage l kind card gen direction seq crc = s.modLane l (fun x => x.fault .format) := by
  rw [State.completeMessage, if_neg (not_not_intro hc)]
  rcases h with hk | hd
  · split
    · rfl
    · exact if_pos hk
  · rw [Direction.ofCode_none hd]

theorem State.completeMessage_valid (hc : crc = crc16 (readContent kind card gen direction seq)) (hk : kind = 0x01#8)
    {dir : Direction} (hd : Direction.ofCode direction = some dir) :
    s.completeMessage l kind card gen direction seq crc =
      (s.modLane l (fun x => { x with receiver := .idle })).validRead l
        { card := card.toNat, gen := gen.toNat, dir := dir, seq := seq.toNat } := by
  rw [State.completeMessage, if_neg (not_not_intro hc), hd]
  exact if_neg (not_not_intro hk)

theorem exec_readMessage_loop (h : (s.lanes.get l).mode = .loop) :
    exec (.readMessage l kind card gen direction seq crc) s = .next s :=
  congrArg Host.Outcome.next (if_pos h)

theorem exec_readMessage (h : (s.lanes.get l).mode ≠ .loop) : exec (.readMessage l kind card gen direction seq crc) s =
    .next (s.completeMessage l kind card gen direction seq crc) :=
  congrArg Host.Outcome.next (if_neg h)

end Message

/-- Settles O44: the CRC, the format, the places of the verdict buffer, the mode, the repeat record and the direction
setting, in the order of R118, R121 and R123. -/
theorem readMessagesAreAnswered : Obligations.ReadMessagesAreAnswered := by
  intro s l kind card gen direction seq crc
  refine ⟨exec_readMessage_loop, fun hl => ?_⟩
  simp only [exec_readMessage hl]
  refine ⟨fun hc => by rw [State.completeMessage_crc hc],
    fun hc => ⟨fun hf => by rw [State.completeMessage_format hc hf], fun dir hk hd => ?_⟩⟩
  simp only [State.completeMessage_valid hc hk hd]
  refine ⟨fun hfull hh => ?_, fun hfull hh => ?_, fun hroom => ?_⟩
  · rw [State.validRead_held (by simpa using hfull) (by simpa using hh), State.modLane_modLane]
  · rw [State.validRead_overrun (by simpa using hfull) (by simpa using hh), State.modLane_modLane]
    rfl
  rw [State.validRead_taken (by simpa using hroom)]
  refine ⟨fun hm => ?_, fun hm => ⟨fun m hrec hseq hread htime => ?_, fun hnew => ?_⟩⟩
  · rw [State.takeRead_halted (by simpa using hm), State.modLane_modLane]
    rfl
  · rw [State.takeRead_repeated (by simpa using hm)
      (LaneState.repeats_some (by simpa using hrec) hseq hread (by simpa using htime)), State.modLane_modLane]
    rfl
  rw [State.takeRead_judged (by simpa using hm) (LaneState.repeats_none (by simpa using hnew))]
  refine ⟨fun hdir => ?_, fun hdir => ?_⟩
  · rw [State.judge_refused (by simpa using hdir)]
    simp only [Decision.plain, State.applyRead, State.modLane_modLane]
    rfl
  · rw [State.judge_decided (by simpa using hdir)]
    rfl

/-! ## Bytes on the line (06 R117; 11 R188) -/

theorem leValue_leBytes (n x : Nat) : leValue (leBytes n x) = x % 256 ^ n := by
  induction n generalizing x with
  | zero => simp [leBytes, leValue, Nat.mod_one]
  | succ n ih =>
    rw [leBytes, leValue, ih, BitVec.toNat_ofNat, pow_succ' 256 n]
    exact Nat.mod_mul.symm

/-- The eleven bytes of R188 are read as the fields they carry. -/
theorem State.completeBytes_layout (s : State) (l : Lane) (kind : Byte) (card : BitVec 32) (gen direction seq : Byte)
    (crc : BitVec 16) :
    s.completeBytes l ([0xA6#8, kind] ++ leBytes 4 card.toNat ++ [gen, direction, seq] ++ leBytes 2 crc.toNat) =
      s.completeMessage l kind card gen direction seq crc := by
  have byte (b : Byte) : BitVec.ofNat 8 (leValue [b]) = b := by simp [leValue]
  have number : BitVec.ofNat 32 (leValue (leBytes 4 card.toNat)) = card := by
    have fits : card.toNat < 256 ^ 4 := card.isLt
    rw [leValue_leBytes, Nat.mod_eq_of_lt fits, BitVec.ofNat_toNat, BitVec.setWidth_eq]
  have check : BitVec.ofNat 16 (leValue (leBytes 2 crc.toNat)) = crc := by
    have fits : crc.toNat < 256 ^ 2 := crc.isLt
    rw [leValue_leBytes, Nat.mod_eq_of_lt fits, BitVec.ofNat_toNat, BitVec.setWidth_eq]
  calc
    _ = s.completeMessage l (BitVec.ofNat 8 (leValue [kind])) (BitVec.ofNat 32 (leValue (leBytes 4 card.toNat)))
          (BitVec.ofNat 8 (leValue [gen])) (BitVec.ofNat 8 (leValue [direction])) (BitVec.ofNat 8 (leValue [seq]))
          (BitVec.ofNat 16 (leValue (leBytes 2 crc.toNat))) := rfl
    _ = _ := by rw [byte, byte, byte, byte, number, check]

end Sys2Proof.Machine
end

section
/-! PROOFS. LaneLines: faults and bytes at the receiver, the end of a transmission, the lane line (06 R117 to R122,
R127). LaneModesAndDryRuns: LANE MODE and INJECT READ (06 R126 to R129). -/

namespace Sys2Proof.Machine

variable {s : State} {l : Lane} {p : Port} {tag : Byte}

/-! ## The receiver (06 R117) -/

section Receiver

variable {bytes : List Byte} {last : Nat}

theorem exec_laneByteReceived (h : (s.lanes.get l).mode ≠ .loop) (b : Byte) :
    exec (.laneByteReceived l b) s = .next (s.takeByte l b) :=
  congrArg Host.Outcome.next (if_neg h)

theorem State.takeByte_start (h : (s.lanes.get l).receiver = .idle) :
    s.takeByte l 0xA6#8 = s.modLane l (fun x => { x with receiver := .assembling [0xA6#8] s.timer }) := by
  rw [State.takeByte, h]
  exact if_pos rfl

theorem State.takeByte_idle (h : (s.lanes.get l).receiver = .idle) {b : Byte} (hb : b ≠ 0xA6#8) :
    s.takeByte l b = s := by
  rw [State.takeByte, h]
  exact if_neg hb

theorem State.takeByte_assembling (h : (s.lanes.get l).receiver = .assembling bytes last) (hlen : bytes.length < 10)
    (b : Byte) :
    s.takeByte l b = s.modLane l (fun x => { x with receiver := .assembling (bytes ++ [b]) s.timer }) := by
  rw [State.takeByte, h]
  exact if_pos hlen

/-- The eleventh byte of a message completes it (06 R117; 11 R188). -/
theorem State.takeByte_completes (h : (s.lanes.get l).receiver = .assembling bytes last) {b : Byte} {kind : Byte}
    {card : BitVec 32} {gen direction seq : Byte} {crc : BitVec 16}
    (hb : bytes ++ [b] =
      [0xA6#8, kind] ++ leBytes 4 card.toNat ++ [gen, direction, seq] ++ leBytes 2 crc.toNat) :
    s.takeByte l b = s.completeMessage l kind card gen direction seq crc := by
  have hlen : bytes.length + 1 = 11 := by simpa [leBytes] using congrArg List.length hb
  rw [State.takeByte, h]
  calc
    _ = s.completeBytes l (bytes ++ [b]) := if_neg (by omega)
    _ = _ := by rw [hb, State.completeBytes_layout]

/-- In LOOP the receiver takes nothing (06 R128). -/
theorem receiver_loop (h : (s.lanes.get l).mode = .loop) : (∀ b, exec (.laneByteReceived l b) s = .next s) ∧
    exec (.framingFault l) s = .next s ∧ exec (.gapFault l) s = .next s :=
  ⟨fun _ => congrArg Host.Outcome.next (if_pos h), congrArg Host.Outcome.next (if_pos h),
    congrArg Host.Outcome.next (if_pos h)⟩

theorem State.framingFault_idle (h : (s.lanes.get l).receiver = .idle) : s.framingFault l = s := by
  rw [State.framingFault, h, ite_self]

theorem State.framingFault_assembling (hl : (s.lanes.get l).mode ≠ .loop)
    (h : (s.lanes.get l).receiver = .assembling bytes last) :
    s.framingFault l = s.modLane l (fun x => x.fault .framing) := by
  rw [State.framingFault, if_neg hl, h]

theorem State.gapFault_idle (h : (s.lanes.get l).receiver = .idle) : s.gapFault l = s := by
  rw [State.gapFault, h, ite_self]

theorem State.gapFault_assembling (hl : (s.lanes.get l).mode ≠ .loop)
    (h : (s.lanes.get l).receiver = .assembling bytes last) :
    s.gapFault l = (s.reach (last + 20)).modLane l (fun x => x.fault .gap) := by
  rw [State.gapFault, if_neg hl, h]

end Receiver

/-! ## The verdict buffer and the repeat record (06 R120, R122, R124, R127) -/

section Buffer

variable {v : VerdictMsg} {rest : List VerdictMsg}

theorem State.endOfTransmission_empty (h : (s.lanes.get l).verdicts = []) : s.endOfTransmission l = s := by
  rw [State.endOfTransmission, h]

theorem State.endOfTransmission_sent (h : (s.lanes.get l).verdicts = v :: rest)
    (hh : (s.lanes.get l).holding = none) :
    s.endOfTransmission l = s.modLane l (fun x => { x with verdicts := rest }) := by
  simp only [State.endOfTransmission, h, hh]

theorem State.endOfTransmission_takes {r : LaneRead} (h : (s.lanes.get l).verdicts = v :: rest)
    (hh : (s.lanes.get l).holding = some r) : s.endOfTransmission l =
      (s.modLane l (fun x => { x with verdicts := rest, holding := none })).takeRead l r := by
  simp only [State.endOfTransmission, h, hh]

theorem LaneState.line_sending {x : LaneState} (h : x.verdicts = v :: rest) : x.line = .sending := by
  rw [LaneState.line, h]

theorem LaneState.line_breaking_iff {x : LaneState} (h : x.verdicts = []) : x.line = .breaking ↔ x.mode = .halt := by
  rw [LaneState.line, h]
  cases x.mode <;> simp

theorem State.repeatExpiry_none (h : (s.lanes.get l).lastRead = none) : s.repeatExpiry l = s := by
  rw [State.repeatExpiry, h]

theorem State.repeatExpiry_some {m : RepeatRecord} (h : (s.lanes.get l).lastRead = some m) :
    s.repeatExpiry l = s.reach (m.decidedAt + 5000) := by
  rw [State.repeatExpiry, h]

end Buffer

/-- Settles O45: each event of a lane by its mode, its receiver and its verdict buffer. -/
theorem laneLines : Obligations.LaneLines := by
  refine ⟨fun x c => ⟨fun h => LaneState.fault_room h c, fun h => LaneState.fault_full h c⟩, fun s l => ?_⟩
  refine ⟨receiver_loop, fun hl => ⟨fun hi => ?_, fun bytes last ha => ?_⟩, fun he => ?_, fun v rest hv => ?_,
    fun hm => congrArg Host.Outcome.next (State.repeatExpiry_none hm),
    fun m hm => congrArg Host.Outcome.next (State.repeatExpiry_some hm)⟩
  · simp only [exec_laneByteReceived hl]
    exact ⟨congrArg Host.Outcome.next (State.takeByte_start hi),
      fun b hb => congrArg Host.Outcome.next (State.takeByte_idle hi hb),
      congrArg Host.Outcome.next (State.framingFault_idle hi), congrArg Host.Outcome.next (State.gapFault_idle hi)⟩
  · simp only [exec_laneByteReceived hl, exec_readMessage hl]
    exact ⟨fun hlen b => congrArg Host.Outcome.next (State.takeByte_assembling ha hlen b),
      fun _ _ _ _ _ _ hb => congrArg Host.Outcome.next (State.takeByte_completes ha hb),
      congrArg Host.Outcome.next (State.framingFault_assembling hl ha),
      congrArg Host.Outcome.next (State.gapFault_assembling hl ha)⟩
  · exact ⟨congrArg Host.Outcome.next (State.endOfTransmission_empty he), LaneState.line_breaking_iff he⟩
  · exact ⟨LaneState.line_sending hv, fun hh => congrArg Host.Outcome.next (State.endOfTransmission_sent hv hh),
      fun r hh => congrArg Host.Outcome.next (State.endOfTransmission_takes hv hh)⟩

/-! ## LANE MODE and INJECT READ (06 R126 to R129) -/

theorem exec_laneMode (h : s.readyAs p .purser) (lane mode direction clear : Byte) :
    exec (.laneMode p tag lane mode direction clear) s =
      (serveLaneMode lane mode direction clear s).answers p 0x73#8 tag :=
  submit_owned h rfl rfl nofun

theorem exec_injectRead (h : s.readyAs p .purser) (lane : Byte) (card : BitVec 32) (gen direction seq : Byte) :
    exec (.injectRead p tag lane card gen direction seq) s =
      (serveInjectRead lane card gen direction seq s).answers p 0x74#8 tag :=
  submit_owned h rfl rfl nofun

theorem LaneMode.ofCode_none {b : Byte} (h : 2 < b.toNat) : LaneMode.ofCode b = none := by
  unfold LaneMode.ofCode
  split
  · omega
  · omega
  · omega
  · rfl

theorem DirSetting.ofCode_none {b : Byte} (h : 2 < b.toNat) : DirSetting.ofCode b = none := by
  unfold DirSetting.ofCode
  split
  · omega
  · omega
  · omega
  · rfl

/-- A mode entered anew drops the repeat record, LOOP the receiver's message and the held read too (06 R126 to
R128). -/
theorem LaneState.setMode_keepsFaults (x : LaneState) (m : LaneMode) (d : DirSetting) : x.setMode m d false =
    if x.mode = m then { x with dirSetting := d }
    else if m = .loop then
      { x with dirSetting := d, mode := m, lastRead := none, receiver := .idle, holding := none }
    else { x with dirSetting := d, mode := m, lastRead := none } := by
  cases m <;> rfl

theorem LaneState.setMode_clearsFaults (x : LaneState) (m : LaneMode) (d : DirSetting) :
    x.setMode m d true = { x.setMode m d false with faults := 0, lastFault := none } :=
  rfl

theorem serveLaneMode_badField {lane mode direction clear : Byte}
    (h : 3 < lane.toNat ∨ 2 < mode.toNat ∨ 2 < direction.toNat ∨ 1 < clear.toNat) :
    serveLaneMode lane mode direction clear s = (s, Reply.refuse .badField) := by
  unfold serveLaneMode
  split
  · next hlane hmode hdir hclear =>
    rcases h with h | h | h | h
    · rw [laneOf_none h] at hlane; cases hlane
    · rw [LaneMode.ofCode_none h] at hmode; cases hmode
    · rw [DirSetting.ofCode_none h] at hdir; cases hdir
    · rw [flagOf_of_gt h] at hclear; cases hclear
  · rfl

theorem serveLaneMode_sets {lane mode direction clear : Byte} {m : LaneMode} {d : DirSetting} {c : Bool}
    (hl : laneOf lane = some l) (hm : LaneMode.ofCode mode = some m) (hd : DirSetting.ofCode direction = some d)
    (hc : flagOf clear = some c) : serveLaneMode lane mode direction clear s =
      (s.modLane l (fun x => x.setMode m d c), Reply.ok ((s.lanes.get l).setMode m d c).bytes) := by
  simp only [serveLaneMode, hl, hm, hd, hc]

section Inject

variable {lane : Byte} {card : BitVec 32} {gen direction seq : Byte} {dir : Direction}

theorem serveInjectRead_badField (h : 3 < lane.toNat ∨ direction.toNat = 0 ∨ 2 < direction.toNat) :
    serveInjectRead lane card gen direction seq s = (s, Reply.refuse .badField) := by
  unfold serveInjectRead
  split
  · next hlane hdir =>
    rcases h with h | h
    · rw [laneOf_none h] at hlane; cases hlane
    · rw [Direction.ofCode_none h] at hdir; cases hdir
  · rfl

theorem serveInjectRead_notLoop (hl : laneOf lane = some l) (hd : Direction.ofCode direction = some dir)
    (hm : (s.lanes.get l).mode ≠ .loop) :
    serveInjectRead lane card gen direction seq s = (s, Reply.refuse .slotState) := by
  simp only [serveInjectRead, hl, hd]
  exact if_pos hm

/-- A dry run gives the verdict and cause that a read taken would be given afresh (06 R129). -/
theorem serveInjectRead_judges (hl : laneOf lane = some l) (hd : Direction.ofCode direction = some dir)
    (hm : (s.lanes.get l).mode = .loop) {d : Decision}
    (hj : s.judge l { card := card.toNat, gen := gen.toNat, dir := dir, seq := seq.toNat } = d) :
    serveInjectRead lane card gen direction seq s = (s, Reply.ok (u8 d.verdict.code ++ u8 d.cause.code)) := by
  simp only [serveInjectRead, hl, hd, hj]
  exact if_neg (not_not_intro hm)

end Inject

/-- Settles O46: the fields of each request in order, then what a LANE MODE leaves of the lane and what a dry run
judges. -/
theorem laneModesAndDryRuns : Obligations.LaneModesAndDryRuns := by
  intro s p tag lane h
  simp only [exec_laneMode h, exec_injectRead h]
  refine ⟨fun mode direction clear => ⟨fun hbad => by rw [serveLaneMode_badField hbad, Served.answers_mk],
      fun l m d hl hm hd => ⟨fun hc => ?_, fun hc => ?_⟩⟩,
    fun card gen direction seq => ⟨fun hbad => by rw [serveInjectRead_badField hbad, Served.answers_mk],
      fun l dir hl hd => ⟨fun hm => by rw [serveInjectRead_notLoop hl hd hm, Served.answers_mk],
        fun hm => ⟨fun hr => ?_, fun hr => ?_⟩⟩⟩⟩
  · rw [serveLaneMode_sets hl hm hd (c := false) (by rw [hc]; rfl), Served.answers_mk, ← LaneState.setMode_keepsFaults]
    rfl
  · rw [serveLaneMode_sets hl hm hd (c := true) (by rw [hc]; rfl), Served.answers_mk, ← LaneState.setMode_keepsFaults]
    rfl
  · rw [serveInjectRead_judges hl hd hm (State.judge_refused hr), Served.answers_mk]
    rfl
  · rw [serveInjectRead_judges hl hd hm (State.judge_decided hr), Served.answers_mk]

end Sys2Proof.Machine
end

section
/-! PROOFS. PortsAndLanesStayBounded, the lanes: every operation of a lane keeps its bounds, and the rest of the machine
leaves the lanes (06 R116, R117, R120, R121, R128). -/

namespace Sys2Proof.Machine

variable {s t : State} {l : Lane} {x : LaneState}

/-! ## The bounds of a lane -/

theorem LaneState.bounded_iff : x.bounded = true ↔
    x.verdicts.length ≤ 2 ∧ x.faults ≤ 255 ∧ x.receiver.ok = true ∧ (x.holding = none ∨ x.verdicts.length = 2) ∧
      (x.mode = .loop → x.receiver = .idle ∧ x.holding = none) := by
  simp only [LaneState.bounded, Bool.and_eq_true, Bool.or_eq_true, decide_eq_true_eq, beq_iff_eq, bne_iff_ne,
    Option.isNone_iff_eq_none, ← imp_iff_not_or, ne_eq, and_assoc]

theorem State.lanesBounded_iff : s.lanesBounded = true ↔ ∀ l, (s.lanes.get l).bounded = true := by
  simp only [State.lanesBounded, Bool.and_eq_true]
  exact ⟨fun ⟨⟨⟨h0, h1⟩, h2⟩, h3⟩ l => by cases l <;> assumption,
    fun h => ⟨⟨⟨h .n0, h .n1⟩, h .n2⟩, h .n3⟩⟩

/-- The lanes are within their bounds wherever their fields are as they were. -/
theorem lanesBounded_of_lanes (h : t.lanes = s.lanes) (hs : s.lanesBounded = true) : t.lanesBounded = true := by
  rw [State.lanesBounded, h]
  exact hs

theorem lanesBounded_modLane {f : LaneState → LaneState} (h : s.lanesBounded = true)
    (hf : (s.lanes.get l).bounded = true → (f (s.lanes.get l)).bounded = true) :
    (s.modLane l f).lanesBounded = true := by
  rw [State.lanesBounded_iff] at h ⊢
  intro m
  by_cases hm : m = l
  · rw [hm, State.modLane_get]
    exact hf (h l)
  · rw [State.modLane_get_ne s f hm]
    exact h m

/-! ## One lane's operations -/

/-- A held read stands behind a full verdict buffer, so with a place there none is held (06 R121). -/
theorem holding_none_of_room (h : x.bounded = true) (hroom : x.verdicts.length < 2) : x.holding = none := by
  obtain ⟨-, -, -, hheld, -⟩ := LaneState.bounded_iff.mp h
  exact hheld.resolve_right (by omega)

theorem join_bounded (h : x.bounded = true) (hroom : x.verdicts.length < 2) (v : VerdictMsg) :
    (x.join v).bounded = true := by
  have hnone := holding_none_of_room h hroom
  obtain ⟨-, hfaults, hrec, -, hloop⟩ := LaneState.bounded_iff.mp h
  refine LaneState.bounded_iff.mpr ⟨?_, hfaults, hrec, .inl hnone, hloop⟩
  simp only [LaneState.join, List.length_append, List.length_singleton]
  omega

theorem judged_bounded (h : x.bounded = true) (hroom : x.verdicts.length < 2) (r : LaneRead) (d : Decision)
    (timer : Nat) : (x.judged r d timer).bounded = true :=
  join_bounded (x := x) h hroom { seq := r.seq, verdict := d.verdict, cause := d.cause }

theorem countFault_bounded (h : x.bounded = true) (c : Cause) : (x.countFault c).bounded = true := by
  obtain ⟨hlen, -, rest⟩ := LaneState.bounded_iff.mp h
  exact LaneState.bounded_iff.mpr ⟨hlen, Nat.min_le_left _ _, rest⟩

theorem idle_bounded (h : x.bounded = true) : ({ x with receiver := .idle } : LaneState).bounded = true := by
  obtain ⟨hlen, hfaults, -, hheld, hloop⟩ := LaneState.bounded_iff.mp h
  exact LaneState.bounded_iff.mpr ⟨hlen, hfaults, rfl, hheld, fun hm => ⟨rfl, (hloop hm).2⟩⟩

theorem fault_bounded (h : x.bounded = true) (c : Cause) : (x.fault c).bounded = true := by
  have counted := idle_bounded (countFault_bounded h c)
  unfold LaneState.fault
  split
  · next hroom => exact join_bounded counted hroom _
  · exact counted

/-- Outside LOOP a receiver may take a byte into a message that is not complete (06 R117). -/
theorem assembling_bounded (h : x.bounded = true) (hl : x.mode ≠ .loop) {bytes : List Byte} {time : Nat}
    (hr : (Receiver.assembling bytes time).ok = true) :
    ({ x with receiver := .assembling bytes time } : LaneState).bounded = true := by
  obtain ⟨hlen, hfaults, -, hheld, -⟩ := LaneState.bounded_iff.mp h
  exact LaneState.bounded_iff.mpr ⟨hlen, hfaults, hr, hheld, fun hm => absurd hm hl⟩

theorem held_bounded (h : x.bounded = true) (hl : x.mode ≠ .loop) (hfull : ¬ x.verdicts.length < 2) (r : LaneRead) :
    ({ x with holding := some r } : LaneState).bounded = true := by
  obtain ⟨hlen, hfaults, hrec, -, -⟩ := LaneState.bounded_iff.mp h
  have full : x.verdicts.length = 2 := by omega
  exact LaneState.bounded_iff.mpr ⟨hlen, hfaults, hrec, .inr full, fun hm => absurd hm hl⟩

/-- The oldest verdict leaves, and with it a held read (06 R120, R122). -/
theorem sent_bounded (h : x.bounded = true) {v : VerdictMsg} {rest : List VerdictMsg} (hv : x.verdicts = v :: rest) :
    ({ x with verdicts := rest, holding := none } : LaneState).bounded = true ∧ rest.length < 2 := by
  obtain ⟨hlen, hfaults, hrec, -, hloop⟩ := LaneState.bounded_iff.mp h
  rw [hv, List.length_cons] at hlen
  have fits : rest.length ≤ 2 := by omega
  exact ⟨LaneState.bounded_iff.mpr ⟨fits, hfaults, hrec, .inl rfl, fun hm => ⟨(hloop hm).1, rfl⟩⟩, by omega⟩

theorem setMode_bounded (h : x.bounded = true) (m : LaneMode) (d : DirSetting) (c : Bool) :
    (x.setMode m d c).bounded = true := by
  obtain ⟨hlen, hfaults, hrec, hheld, hloop⟩ := LaneState.bounded_iff.mp h
  have moved : (x.setMode m d false).bounded = true := by
    rw [LaneState.setMode_keepsFaults]
    split
    · exact LaneState.bounded_iff.mpr ⟨hlen, hfaults, hrec, hheld, hloop⟩
    split
    · exact LaneState.bounded_iff.mpr ⟨hlen, hfaults, rfl, .inl rfl, fun _ => ⟨rfl, rfl⟩⟩
    · next hm => exact LaneState.bounded_iff.mpr ⟨hlen, hfaults, hrec, hheld, fun hm' => absurd hm' hm⟩
  cases c with
  | false => exact moved
  | true =>
    obtain ⟨hlen, -, rest⟩ := LaneState.bounded_iff.mp moved
    exact LaneState.bounded_iff.mpr ⟨hlen, Nat.zero_le _, rest⟩

/-! ## Reads and messages -/

theorem State.applyRead_lanes (s : State) (l : Lane) (e : ReadEffect) : (s.applyRead l e).lanes = s.lanes := by
  obtain ⟨_, _, _, _, _, h⟩ := s.applyRead_frame l e
  rw [h]

/-- A read is taken with a place in the verdict buffer (06 R121, R122). -/
theorem takeRead_lanesBounded (h : s.lanesBounded = true) (hroom : (s.lanes.get l).verdicts.length < 2) (r : LaneRead) :
    (s.takeRead l r).lanesBounded = true := by
  unfold State.takeRead
  repeat' split
  · exact lanesBounded_modLane h fun hx => join_bounded hx hroom _
  · exact lanesBounded_modLane h fun hx => join_bounded hx hroom _
  · refine lanesBounded_modLane (lanesBounded_of_lanes (s.applyRead_lanes l _) h) fun hx => ?_
    rw [State.applyRead_lanes] at hx ⊢
    exact judged_bounded hx hroom _ _ _

theorem validRead_lanesBounded (h : s.lanesBounded = true) (hl : (s.lanes.get l).mode ≠ .loop) (r : LaneRead) :
    (s.validRead l r).lanesBounded = true := by
  unfold State.validRead
  split
  · next hroom => exact takeRead_lanesBounded h hroom r
  · next hfull =>
    split
    · exact lanesBounded_modLane h fun hx => held_bounded hx hl hfull r
    · exact lanesBounded_modLane h fun hx => countFault_bounded hx _

theorem completeMessage_lanesBounded (h : s.lanesBounded = true) (hl : (s.lanes.get l).mode ≠ .loop) (kind : Byte)
    (card : BitVec 32) (gen direction seq : Byte) (crc : BitVec 16) :
    (s.completeMessage l kind card gen direction seq crc).lanesBounded = true := by
  unfold State.completeMessage
  repeat' split
  · exact lanesBounded_modLane h fun hx => fault_bounded hx _
  · exact lanesBounded_modLane h fun hx => fault_bounded hx _
  · exact lanesBounded_modLane h fun hx => fault_bounded hx _
  · exact validRead_lanesBounded (lanesBounded_modLane h idle_bounded) (by simpa using hl) _

theorem readMessage_lanesBounded (h : s.lanesBounded = true) (l : Lane) (kind : Byte) (card : BitVec 32)
    (gen direction seq : Byte) (crc : BitVec 16) :
    (s.readMessage l kind card gen direction seq crc).lanesBounded = true := by
  unfold State.readMessage
  split
  · exact h
  · next hl => exact completeMessage_lanesBounded h hl _ _ _ _ _ _

theorem Receiver.assembling_ok_iff {bytes : List Byte} {time : Nat} : (Receiver.assembling bytes time).ok = true ↔
    bytes.head? = some 0xA6#8 ∧ bytes.length ≤ 10 := by
  simp only [Receiver.ok, Bool.and_eq_true, beq_iff_eq, decide_eq_true_eq]

theorem laneByte_lanesBounded (h : s.lanesBounded = true) (l : Lane) (b : Byte) :
    (s.laneByte l b).lanesBounded = true := by
  unfold State.laneByte State.takeByte
  split
  · exact h
  next hl =>
  split
  · split
    · next hb =>
      exact lanesBounded_modLane h fun hx => assembling_bounded hx hl (Receiver.assembling_ok_iff.mpr (by simp [hb]))
    · exact h
  · next bytes last hr =>
    split
    · next hlen =>
      refine lanesBounded_modLane h fun hx => assembling_bounded hx hl (Receiver.assembling_ok_iff.mpr ?_)
      obtain ⟨-, -, hok, -, -⟩ := LaneState.bounded_iff.mp hx
      rw [hr] at hok
      obtain ⟨hhead, -⟩ := Receiver.assembling_ok_iff.mp hok
      refine ⟨by rw [List.head?_append, hhead, Option.some_or], ?_⟩
      rw [List.length_append, List.length_singleton]
      exact hlen
    · exact completeMessage_lanesBounded h hl _ _ _ _ _ _

theorem framingFault_lanesBounded (h : s.lanesBounded = true) (l : Lane) : (s.framingFault l).lanesBounded = true := by
  unfold State.framingFault
  repeat' split
  · exact h
  · exact h
  · exact lanesBounded_modLane h fun hx => fault_bounded hx _

theorem gapFault_lanesBounded (h : s.lanesBounded = true) (l : Lane) : (s.gapFault l).lanesBounded = true := by
  unfold State.gapFault
  repeat' split
  · exact h
  · exact h
  · exact lanesBounded_modLane (s := s.reach _) h fun hx => fault_bounded hx _

theorem endOfTransmission_lanesBounded (h : s.lanesBounded = true) (l : Lane) :
    (s.endOfTransmission l).lanesBounded = true := by
  unfold State.endOfTransmission
  split
  · exact h
  next v rest hv =>
  obtain ⟨-, hroom⟩ := sent_bounded (State.lanesBounded_iff.mp h l) hv
  split
  · next hnone =>
    refine lanesBounded_modLane h fun hx => ?_
    obtain ⟨sent, -⟩ := sent_bounded hx hv
    rw [← hnone] at sent
    exact sent
  · exact takeRead_lanesBounded (lanesBounded_modLane h fun hx => (sent_bounded hx hv).1) (by simpa using hroom) _

/-! ## The requests -/

theorem serveLaneMode_lanesBounded (h : s.lanesBounded = true) (lane mode direction clear : Byte) :
    (serveLaneMode lane mode direction clear s).1.lanesBounded = true := by
  rcases serveLaneMode_cases lane mode direction clear s with e | ⟨_, m, d, c, -, -, -, -, e⟩ <;> rw [e]
  · exact h
  · exact lanesBounded_modLane h fun hx => setMode_bounded hx m d c

/-- VOYAGE CLEAR drops the repeat records alone, which no bound names (10 R185). -/
theorem serveVoyageClear_lanesBounded (h : s.lanesBounded = true) : (serveVoyageClear s).1.lanesBounded = true := by
  rcases serveVoyageClear_cases s with e | ⟨-, e⟩ <;> rw [e]
  · exact h
  · exact h

/-- A state that a frame equates with one whose lanes are as they were. -/
theorem lanes_of_frame {u : State} (e : t = u) (h : u.lanes = s.lanes) : t.lanes = s.lanes :=
  (congrArg State.lanes e).trans h

/-- LANE MODE and VOYAGE CLEAR apart, no request's rule enters the lanes. -/
theorem serve_lanes (p : Port) (req : Request) (s : State) (hm : ∀ l m d c, req ≠ .laneMode l m d c)
    (hv : req ≠ .voyageClear) : (serve p req s).1.lanes = s.lanes := by
  cases req with
  | laneMode lane mode direction clear => exact absurd rfl (hm lane mode direction clear)
  | voyageClear => exact absurd rfl hv
  | badFrame | unknown | badLength | noOp | readPortStatus | readCounts | readCall | readTime | readSettings
  | setOptions => rfl
  | setNoticeMask mask => obtain ⟨_, e⟩ := serveSetNoticeMask_frame p mask s; exact lanes_of_frame e rfl
  | readCardholder card => exact congrArg State.lanes (serveReadCardholder_frame card s)
  | readAccount folio => exact congrArg State.lanes (serveReadAccount_frame folio s)
  | readCabin cabin => exact congrArg State.lanes (serveReadCabin_frame cabin s)
  | readHold slot reuse => exact congrArg State.lanes (serveReadHold_frame slot reuse s)
  | readEntry seq => exact congrArg State.lanes (serveReadEntry_frame seq s)
  | readLane lane => exact congrArg State.lanes (serveReadLane_frame lane s)
  | injectRead lane card gen direction seq =>
    exact congrArg State.lanes (serveInjectRead_frame lane card gen direction seq s)
  | price cls unit qty k card package => exact congrArg State.lanes (servePrice_frame cls unit qty k card package s)
  | windowOpen collection mode key start =>
    obtain ⟨_, e⟩ := serveWindowOpen_frame p collection mode key start s; exact lanes_of_frame e rfl
  | windowRead => obtain ⟨_, e⟩ := serveWindowRead_frame p s; exact lanes_of_frame e rfl
  | windowAct action => obtain ⟨_, _, _, _, e⟩ := serveWindowAct_frame p action s; exact lanes_of_frame e rfl
  | charge outlet cls unit qty cards =>
    obtain ⟨_, _, _, _, _, e⟩ := serveCharge_frame p outlet cls unit qty cards s; exact lanes_of_frame e rfl
  | holdOpen card gen outlet cls gross lifetime =>
    obtain ⟨_, _, _, _, e⟩ := serveHoldOpen_frame p card gen outlet cls gross lifetime s; exact lanes_of_frame e rfl
  | holdComplete slot reuse gross =>
    obtain ⟨_, _, _, _, _, _, e⟩ := serveHoldComplete_frame p slot reuse gross s; exact lanes_of_frame e rfl
  | holdRelease slot reuse =>
    obtain ⟨_, _, _, e⟩ := serveHoldRelease_frame p slot reuse s; exact lanes_of_frame e rfl
  | void seq outlet => obtain ⟨_, _, _, e⟩ := serveVoid_frame p seq outlet s; exact lanes_of_frame e rfl
  | accessQuery card gen cabin =>
    obtain ⟨_, _, _, _, _, e⟩ := serveAccessQuery_frame p card gen cabin s; exact lanes_of_frame e rfl
  | lockReport cabin token outcome =>
    obtain ⟨_, _, _, e⟩ := serveLockReport_frame cabin token outcome s; exact lanes_of_frame e rfl
  | privacySet cabin => obtain ⟨_, e⟩ := servePrivacySet_frame cabin s; exact lanes_of_frame e rfl
  | privacyClear cabin => obtain ⟨_, e⟩ := servePrivacyClear_frame cabin s; exact lanes_of_frame e rfl
  | enrol card kind folio classMask deckMask =>
    obtain ⟨_, _, _, e⟩ := serveEnrol_frame card kind folio classMask deckMask s; exact lanes_of_frame e rfl
  | reissue card => obtain ⟨_, e⟩ := serveReissue_frame card s; exact lanes_of_frame e rfl
  | suspend card => obtain ⟨_, e⟩ := serveSuspend_frame card s; exact lanes_of_frame e rfl
  | resume card => obtain ⟨_, e⟩ := serveResume_frame card s; exact lanes_of_frame e rfl
  | purge card => obtain ⟨_, _, e⟩ := servePurge_frame card s; exact lanes_of_frame e rfl
  | setClassMask card mask => obtain ⟨_, e⟩ := serveSetClassMask_frame card mask s; exact lanes_of_frame e rfl
  | setDeckMask card mask => obtain ⟨_, e⟩ := serveSetDeckMask_frame card mask s; exact lanes_of_frame e rfl
  | capUp card => obtain ⟨_, e⟩ := serveCapUp_frame card s; exact lanes_of_frame e rfl
  | capDown card => obtain ⟨_, e⟩ := serveCapDown_frame card s; exact lanes_of_frame e rfl
  | setCapOffset card offset => obtain ⟨_, e⟩ := serveSetCapOffset_frame card offset s; exact lanes_of_frame e rfl
  | openAccount folio limit deposit =>
    obtain ⟨_, _, e⟩ := serveOpenAccount_frame folio limit deposit s; exact lanes_of_frame e rfl
  | setLimit folio amount => obtain ⟨_, _, e⟩ := serveSetLimit_frame folio amount s; exact lanes_of_frame e rfl
  | setDeposit folio amount => obtain ⟨_, _, e⟩ := serveSetDeposit_frame folio amount s; exact lanes_of_frame e rfl
  | setPackage folio package => obtain ⟨_, e⟩ := serveSetPackage_frame folio package s; exact lanes_of_frame e rfl
  | setMinorRelease folio value =>
    obtain ⟨_, e⟩ := serveSetMinorRelease_frame folio value s; exact lanes_of_frame e rfl
  | adjust folio kind amount =>
    obtain ⟨_, _, _, _, e⟩ := serveAdjust_frame folio kind amount s; exact lanes_of_frame e rfl
  | settleBegin folio => obtain ⟨_, e⟩ := serveSettleBegin_frame folio s; exact lanes_of_frame e rfl
  | settleStep folio => obtain ⟨_, _, e⟩ := serveSettleStep_frame folio s; exact lanes_of_frame e rfl
  | reopen folio => obtain ⟨_, _, e⟩ := serveReopen_frame folio s; exact lanes_of_frame e rfl
  | close folio => obtain ⟨_, _, _, _, e⟩ := serveClose_frame folio s; exact lanes_of_frame e rfl
  | takeClosure => obtain ⟨_, _, e⟩ := serveTakeClosure_frame s; exact lanes_of_frame e rfl
  | defineCabin cabin deck => obtain ⟨_, e⟩ := serveDefineCabin_frame cabin deck s; exact lanes_of_frame e rfl
  | undefineCabin cabin => obtain ⟨_, _, e⟩ := serveUndefineCabin_frame cabin s; exact lanes_of_frame e rfl
  | grantCabin card cabin => obtain ⟨_, _, e⟩ := serveGrantCabin_frame card cabin s; exact lanes_of_frame e rfl
  | revokeCabin card cabin => obtain ⟨_, _, e⟩ := serveRevokeCabin_frame card cabin s; exact lanes_of_frame e rfl
  | rekeyCabin cabin => obtain ⟨_, _, e⟩ := serveRekeyCabin_frame cabin s; exact lanes_of_frame e rfl
  | blockCabin cabin => obtain ⟨_, e⟩ := serveBlockCabin_frame cabin s; exact lanes_of_frame e rfl
  | unblockCabin cabin => obtain ⟨_, e⟩ := serveUnblockCabin_frame cabin s; exact lanes_of_frame e rfl
  | setPresence card presence =>
    obtain ⟨_, _, _, _, _, e⟩ := serveSetPresence_frame card presence s; exact lanes_of_frame e rfl
  | openCall kind allAboard mode closeTime =>
    obtain ⟨_, e⟩ := serveOpenCall_frame kind allAboard mode closeTime s; exact lanes_of_frame e rfl
  | closeCall force => obtain ⟨_, _, _, e⟩ := serveCloseCall_frame force s; exact lanes_of_frame e rfl
  | setTime time => obtain ⟨_, _, _, _, _, _, e⟩ := serveSetTime_frame time s; exact lanes_of_frame e rfl
  | setTariff1 part => obtain ⟨_, e⟩ := serveSetTariff1_frame part s; exact lanes_of_frame e rfl
  | setTariff2 rows => obtain ⟨_, e⟩ := serveSetTariff2_frame rows s; exact lanes_of_frame e rfl
  | loadSettings => obtain ⟨_, _, _, _, _, e⟩ := serveLoadSettings_frame s; exact lanes_of_frame e rfl
  | saveSettings => obtain ⟨_, _, e⟩ := serveSaveSettings_frame p s; exact lanes_of_frame e rfl

theorem serve_lanesBounded (p : Port) (req : Request) (h : s.lanesBounded = true) :
    (serve p req s).1.lanesBounded = true := by
  by_cases hm : ∃ lane mode direction clear, req = .laneMode lane mode direction clear
  · obtain ⟨lane, mode, direction, clear, rfl⟩ := hm
    exact serveLaneMode_lanesBounded h lane mode direction clear
  by_cases hv : req = .voyageClear
  · rw [hv]
    exact serveVoyageClear_lanesBounded h
  · exact lanesBounded_of_lanes (serve_lanes p req s (fun l m d c e => hm ⟨l, m, d, c, e⟩) hv) h

/-! ## Every step -/

theorem startUp_lanesBounded (s : State) (straps : Quad (BitVec 2)) (lost : Bool) :
    (s.startUp straps lost).lanesBounded = true := by
  unfold State.startUp
  split
  · rfl
  · rfl

/-- Each rule and each event keeps the bounds of the lanes. -/
theorem lanesBounded_kept : Kept (fun s => s.lanesBounded = true) where
  queue := fun _ _ h => h
  timer := fun _ h => h
  port := fun _ _ _ h => h
  serve := fun p req _ h => serve_lanesBounded p req h
  startUp := fun x straps lost _ => startUp_lanesBounded x straps lost
  readMessage := fun _ l kind card gen direction seq crc h =>
    readMessage_lanesBounded h l kind card gen direction seq crc
  laneByte := fun _ l b h => laneByte_lanesBounded h l b
  framingFault := fun _ l h => framingFault_lanesBounded h l
  gapFault := fun _ l h => gapFault_lanesBounded h l
  endOfTransmission := fun _ l h => endOfTransmission_lanesBounded h l
  completeSave := fun x h => by
    obtain ⟨_, _, _, _, e⟩ := x.completeSave_frame; exact lanesBounded_of_lanes (lanes_of_frame e rfl) h
  failSave := fun x h => by
    obtain ⟨_, _, e⟩ := x.failSave_frame; exact lanesBounded_of_lanes (lanes_of_frame e rfl) h
  repeatExpiry := fun x l h => by
    obtain ⟨_, e⟩ := x.repeatExpiry_frame l; exact lanesBounded_of_lanes (lanes_of_frame e rfl) h
  takeTick := fun x h => by
    obtain ⟨_, _, _, _, _, _, _, _, _, e⟩ := x.takeTick_frame; exact lanesBounded_of_lanes (lanes_of_frame e rfl) h
  loseTick := fun x h => by
    obtain ⟨_, _, _, _, _, _, _, _, e⟩ := x.loseTick_frame; exact lanesBounded_of_lanes (lanes_of_frame e rfl) h
  takeSecond := fun x h => by
    obtain ⟨_, _, _, _, _, _, _, _, e⟩ := x.takeSecond_frame; exact lanesBounded_of_lanes (lanes_of_frame e rfl) h
  expireHold := fun x slot h => by
    obtain ⟨_, _, _, _, e⟩ := x.expireHold_frame slot.toNat; exact lanesBounded_of_lanes (lanes_of_frame e rfl) h
  expireUnlock := fun x cabin h => by
    obtain ⟨_, _, _, _, e⟩ := x.expireUnlock_frame cabin; exact lanesBounded_of_lanes (lanes_of_frame e rfl) h
  takeAllAboard := fun x h => by
    obtain ⟨_, _, _, e⟩ := x.takeAllAboard_frame; exact lanesBounded_of_lanes (lanes_of_frame e rfl) h
  takeClose := fun x h => by
    obtain ⟨_, _, _, e⟩ := x.takeClose_frame; exact lanesBounded_of_lanes (lanes_of_frame e rfl) h

end Sys2Proof.Machine
end

section
/-! PROOFS. PortsAndLanesStayBounded, the ports: notices and windows keep a port's bounds, and a port that executes an
entry or reads keeps its own (09 R164 to R168, R171). -/

namespace Sys2Proof.Machine

variable {s t : State} {p : Port} {q q' : PortState}

/-! ## The bounds of a port -/

/-- What is in delivery stays held while the slot keeps its response and the queue its oldest notice (09 R168). -/
theorem deliveryHeld_mono (hreading : q'.reading = q.reading) (hslot : ∀ r, q.slot = some r → q'.slot = some r)
    (hqueue : ∀ n, q.queue.head? = some n → q'.queue.head? = some n) (h : q.deliveryHeld = true) :
    q'.deliveryHeld = true := by
  revert h
  unfold PortState.deliveryHeld
  rw [hreading]
  split
  · exact id
  split
  · next r _ => simpa only [beq_iff_eq] using hslot r
  · next n _ _ => simpa only [beq_iff_eq] using hqueue n
  · exact id

/-- A port's bounds, but that an entry may wait at an empty slot: so a port is just before it executes one. -/
structure PortState.InPlaces (q : PortState) : Prop where
  buffer : q.buffer.length ≤ 2
  queue : q.queue.length ≤ 16
  held : q.deliveryHeld = true

theorem PortState.bounded_iff : q.bounded = true ↔ q.InPlaces ∧ (q.slot = none → q.buffer = []) := by
  have waits : (q.slot.isSome || q.buffer.isEmpty) = true ↔ (q.slot = none → q.buffer = []) := by
    cases q.slot <;> simp
  simp only [PortState.bounded, Bool.and_eq_true, decide_eq_true_eq, waits]
  exact ⟨fun ⟨⟨⟨hb, hq⟩, hw⟩, hh⟩ => ⟨⟨hb, hq, hh⟩, hw⟩, fun ⟨⟨hb, hq, hh⟩, hw⟩ => ⟨⟨⟨hb, hq⟩, hw⟩, hh⟩⟩

/-- Notices join the end of the queue, so the one in delivery stays at its head (09 R168, R171). -/
theorem PortState.InPlaces.follows (h : q.InPlaces) (f : q.follows q') : q'.InPlaces := by
  obtain ⟨-, hbuffer, hslot, hreading, -, ⟨new, hqueue⟩, hplaces⟩ := f
  refine ⟨hbuffer ▸ h.buffer, hplaces h.queue,
    deliveryHeld_mono hreading (fun r hr => hslot.trans hr) (fun n hn => ?_) h.held⟩
  rw [hqueue, List.head?_append, hn, Option.some_or]

theorem PortState.bounded_follows (h : q.bounded = true) (f : q.follows q') : q'.bounded = true := by
  obtain ⟨hin, hwaits⟩ := PortState.bounded_iff.mp h
  obtain ⟨-, hbuffer, hslot, -⟩ := id f
  exact PortState.bounded_iff.mpr ⟨hin.follows f, by rw [hbuffer, hslot]; exact hwaits⟩

theorem State.portsBounded_iff : s.portsBounded = true ↔ ∀ p, (s.ports.get p).bounded = true := by
  simp only [State.portsBounded, Bool.and_eq_true]
  exact ⟨fun ⟨⟨⟨h0, h1⟩, h2⟩, h3⟩ p => by cases p <;> assumption,
    fun h => ⟨⟨⟨h .n0, h .n1⟩, h .n2⟩, h .n3⟩⟩

theorem State.portsFollow.bounded (f : s.portsFollow t) (h : s.portsBounded = true) : t.portsBounded = true :=
  State.portsBounded_iff.mpr fun p => PortState.bounded_follows (State.portsBounded_iff.mp h p) (f p)

/-! ## A port about to execute an entry (09 R167) -/

/-- Every port is within its bounds, but that on port `p` an entry may wait at an empty slot. -/
structure State.BoundedBut (s : State) (p : Port) : Prop where
  here : (s.ports.get p).InPlaces
  elsewhere : ∀ o, o ≠ p → (s.ports.get o).bounded = true

theorem State.BoundedBut.bounded (h : s.BoundedBut p) (hw : (s.ports.get p).slot = none → (s.ports.get p).buffer = []) :
    s.portsBounded = true := by
  refine State.portsBounded_iff.mpr fun o => ?_
  by_cases ho : o = p
  · rw [ho]
    exact PortState.bounded_iff.mpr ⟨h.here, hw⟩
  · exact h.elsewhere o ho

theorem State.BoundedBut.follow (h : s.BoundedBut p) (f : s.portsFollow t) : t.BoundedBut p :=
  ⟨h.here.follows (f p), fun o ho => PortState.bounded_follows (h.elsewhere o ho) (f o)⟩

theorem State.BoundedBut.modPort (h : s.BoundedBut p) {f : PortState → PortState}
    (hf : (f (s.ports.get p)).InPlaces) : (s.modPort p f).BoundedBut p where
  here := by rw [State.modPort_get]; exact hf
  elsewhere o ho := by rw [State.modPort_get_ne s f ho]; exact h.elsewhere o ho

theorem boundedBut_of_bounded (h : s.portsBounded = true) (p : Port) : s.BoundedBut p :=
  ⟨(PortState.bounded_iff.mp (State.portsBounded_iff.mp h p)).1, fun o _ => State.portsBounded_iff.mp h o⟩

theorem portsBounded_modPort (h : s.portsBounded = true) {f : PortState → PortState}
    (hf : (s.ports.get p).bounded = true → (f (s.ports.get p)).bounded = true) :
    (s.modPort p f).portsBounded = true := by
  obtain ⟨hin, hw⟩ := PortState.bounded_iff.mp (hf (State.portsBounded_iff.mp h p))
  exact ((boundedBut_of_bounded h p).modPort hin).bounded (by rw [State.modPort_get]; exact hw)

theorem State.answer_follows (s : State) (p : Port) (req : Request) : s.portsFollow (s.answer p req).1 := by
  unfold State.answer
  split
  · exact s.portsFollow_refl
  · exact s.portsFollow_refl
  split
  · exact serve_follows p req s
  · exact s.portsFollow_refl

theorem State.effect_follows (s : State) (p : Port) (req : Request) : s.portsFollow (s.effect p req) := by
  unfold State.effect
  split
  · exact s.answer_follows p req
  · exact State.portsFollow_trans (s.answer_follows p req) (State.closeWindow_follows _ _)

/-- No response was in delivery from an empty slot, so one may fill it (09 R167, R168). -/
theorem PortState.InPlaces.fill (h : q.InPlaces) (hs : q.slot = none) (r : Response) :
    ({ q with slot := some r, overrun := false } : PortState).InPlaces :=
  ⟨h.buffer, h.queue, deliveryHeld_mono (q := q) rfl (fun x hx => by rw [hs] at hx; cases hx) (fun _ => id) h.held⟩

theorem State.BoundedBut.respond (h : s.BoundedBut p) (hs : (s.ports.get p).slot = none) (code tag : Byte) (r : Reply) :
    (s.respond p code tag r).portsBounded = true :=
  State.BoundedBut.bounded (h.modPort (h.here.fill hs _)) (by rw [State.respond, State.modPort_get]; nofun)

theorem State.BoundedBut.execute (h : s.BoundedBut p) (hs : (s.ports.get p).slot = none) (e : BufEntry) :
    (s.execute p e).portsBounded = true := by
  have f := s.effect_follows p e.req
  obtain ⟨-, -, hslot, -⟩ := f p
  exact (h.follow f).respond (hslot.trans hs) _ _ _

/-- After its turn no entry waits at an empty slot (09 R167). -/
theorem State.BoundedBut.pump (h : s.BoundedBut p) : (s.pump p).portsBounded = true := by
  unfold State.pump
  split
  · next e rest hs hb =>
    have fits : rest.length ≤ 2 := by
      have := h.here.buffer
      rw [hb, List.length_cons] at this
      omega
    exact State.BoundedBut.execute (h.modPort ⟨fits, h.here.queue, h.here.held⟩) (by simpa using hs) e
  · next hs hb => exact h.bounded fun _ => hb
  · next r hs => exact h.bounded (by rw [hs]; nofun)

/-! ## Transactions of a port (09 R165 to R168) -/

theorem submit_portsBounded (h : s.portsBounded = true) (p : Port) (tag : Byte) (req : Request) :
    (s.submit p tag req).portsBounded = true := by
  unfold State.submit
  split
  · next hroom =>
    have hp := boundedBut_of_bounded h p
    refine State.BoundedBut.pump (hp.modPort ⟨?_, hp.here.queue, hp.here.held⟩)
    rw [List.length_append, List.length_singleton]
    exact hroom
  · exact portsBounded_modPort h id

theorem abandon_bounded (h : q.bounded = true) : q.abandon.bounded = true := by
  obtain ⟨hin, hw⟩ := PortState.bounded_iff.mp h
  unfold PortState.abandon
  split
  · exact h
  · exact PortState.bounded_iff.mpr ⟨⟨hin.buffer, hin.queue, rfl⟩, hw⟩

/-- A READ chooses the response in the slot, or else the oldest notice (09 R168). -/
theorem startRead_bounded (h : q.bounded = true) : q.startRead.bounded = true := by
  obtain ⟨hin, hw⟩ := PortState.bounded_iff.mp h
  refine PortState.bounded_iff.mpr ⟨⟨hin.buffer, hin.queue, ?_⟩, hw⟩
  simp only [PortState.startRead, PortState.deliveryHeld, PortState.choose]
  cases hs : q.slot with
  | some r => simp
  | none =>
    cases hq : q.queue with
    | nil => simp
    | cons n rest => simp

theorem beginRead_portsBounded (h : s.portsBounded = true) (p : Port) : (s.beginRead p).portsBounded = true :=
  portsBounded_modPort h fun hq => startRead_bounded (abandon_bounded hq)

/-- The delivered response or notice leaves, and the delivery with it (09 R168). -/
theorem completeRead_portsBounded (h : s.portsBounded = true) (p : Port) : (s.completeRead p).portsBounded = true := by
  have hp := boundedBut_of_bounded h p
  unfold State.completeRead
  split
  · exact h
  split
  · exact State.BoundedBut.pump (hp.modPort ⟨hp.here.buffer, hp.here.queue, rfl⟩)
  · refine portsBounded_modPort h fun hq => ?_
    obtain ⟨hin, hw⟩ := PortState.bounded_iff.mp hq
    refine PortState.bounded_iff.mpr ⟨⟨hin.buffer, ?_, rfl⟩, hw⟩
    rw [List.length_drop]
    exact Nat.le_trans (Nat.sub_le _ _) hin.queue
  · refine portsBounded_modPort h fun hq => ?_
    obtain ⟨hin, hw⟩ := PortState.bounded_iff.mp hq
    exact PortState.bounded_iff.mpr ⟨⟨hin.buffer, hin.queue, rfl⟩, hw⟩

/-! ## Events apart from the ports: notices join queues alone -/

theorem State.takeRead_follows (s : State) (l : Lane) (r : LaneRead) : s.portsFollow (s.takeRead l r) := by
  unfold State.takeRead
  repeat' split
  · exact State.portsFollow_of_eq rfl
  · exact State.portsFollow_of_eq rfl
  · exact State.portsFollow_trans (s.applyRead_follows l _) (State.portsFollow_of_eq rfl)

theorem State.completeMessage_follows (s : State) (l : Lane) (kind : Byte) (card : BitVec 32)
    (gen direction seq : Byte) (crc : BitVec 16) :
    s.portsFollow (s.completeMessage l kind card gen direction seq crc) := by
  unfold State.completeMessage State.validRead
  repeat' split
  · exact State.portsFollow_of_eq rfl
  · exact State.portsFollow_of_eq rfl
  · exact State.portsFollow_of_eq rfl
  · exact (s.modLane l _).takeRead_follows l _
  · exact State.portsFollow_of_eq rfl
  · exact State.portsFollow_of_eq rfl

theorem State.readMessage_follows (s : State) (l : Lane) (kind : Byte) (card : BitVec 32) (gen direction seq : Byte)
    (crc : BitVec 16) : s.portsFollow (s.readMessage l kind card gen direction seq crc) := by
  unfold State.readMessage
  split
  · exact s.portsFollow_refl
  · exact s.completeMessage_follows l _ _ _ _ _ _

theorem State.laneByte_follows (s : State) (l : Lane) (b : Byte) : s.portsFollow (s.laneByte l b) := by
  unfold State.laneByte State.takeByte
  repeat' split
  · exact s.portsFollow_refl
  · exact State.portsFollow_of_eq rfl
  · exact s.portsFollow_refl
  · exact State.portsFollow_of_eq rfl
  · exact s.completeMessage_follows l _ _ _ _ _ _

theorem State.endOfTransmission_follows (s : State) (l : Lane) : s.portsFollow (s.endOfTransmission l) := by
  unfold State.endOfTransmission
  repeat' split
  · exact s.portsFollow_refl
  · exact State.portsFollow_of_eq rfl
  · exact (s.modLane l _).takeRead_follows l _

theorem State.advance_follows (s : State) : s.portsFollow s.advance := by
  unfold State.advance
  split
  · exact s.advanceTo_follows _
  · exact s.portsFollow_refl

theorem State.takeTick_follows (s : State) : s.portsFollow s.takeTick := by
  unfold State.takeTick
  split
  · exact State.portsFollow_trans s.advance_follows (State.portsFollow_of_eq rfl)
  · exact State.portsFollow_trans (State.portsFollow_trans s.advance_follows (State.portsFollow_of_eq rfl))
      (State.raise_follows _ _ _ _ _)

theorem State.loseTick_follows (s : State) : s.portsFollow s.loseTick := by
  unfold State.loseTick
  split
  · exact s.portsFollow_refl
  · exact State.portsFollow_trans
      (State.portsFollow_trans (s.reach _).advance_follows (State.portsFollow_of_eq rfl))
      (State.raise_follows _ _ _ _ _)

theorem State.takeSecond_follows (s : State) : s.portsFollow s.takeSecond := by
  unfold State.takeSecond
  split
  · exact s.portsFollow_refl
  · exact State.portsFollow_trans (s.reach _).advance_follows (State.portsFollow_of_eq rfl)

theorem State.completeSave_follows (s : State) : s.portsFollow s.completeSave := by
  unfold State.completeSave
  split
  · exact s.portsFollow_refl
  · exact State.portsFollow_trans (State.portsFollow_of_eq rfl) (State.raiseTo_follows _ _ _ _ _)

theorem State.failSave_follows (s : State) : s.portsFollow s.failSave := by
  unfold State.failSave
  split
  · exact s.portsFollow_refl
  · exact State.portsFollow_trans (State.portsFollow_of_eq rfl) (State.raiseTo_follows _ _ _ _ _)

theorem State.expireHold_follows (s : State) (slot : Nat) : s.portsFollow (s.expireHold slot) := by
  unfold State.expireHold
  repeat' split
  · exact s.portsFollow_refl
  · exact State.portsFollow_trans (State.portsFollow_of_eq (t := s.endHold slot _) rfl)
      (State.raiseTo_follows _ _ _ _ _)
  · exact s.portsFollow_refl

theorem State.expireUnlock_follows (s : State) (cabin : Nat) : s.portsFollow (s.expireUnlock cabin) := by
  unfold State.expireUnlock
  split
  · exact s.portsFollow_refl
  · next u _ =>
    exact State.portsFollow_trans (((s.reach u.deadline).dropUnlock cabin).addEvent_follows cabin _ _)
      (State.raiseTo_follows _ _ _ _ _)

theorem State.takeAllAboard_follows (s : State) : s.portsFollow s.takeAllAboard := by
  unfold State.takeAllAboard
  split
  · exact State.portsFollow_trans (State.portsFollow_of_eq rfl) (State.raise_follows _ _ _ _ _)
  · exact s.portsFollow_refl

theorem State.takeClose_follows (s : State) : s.portsFollow s.takeClose := by
  unfold State.takeClose
  repeat' split
  · exact s.closeCall_follows 0
  · exact State.portsFollow_trans (State.portsFollow_of_eq rfl) (State.raise_follows _ _ _ _ _)
  · exact s.portsFollow_refl

/-! ## Every step -/

theorem startUp_portsBounded (s : State) (straps : Quad (BitVec 2)) (lost : Bool) :
    (s.startUp straps lost).portsBounded = true := by
  unfold State.startUp
  split
  · rfl
  · rfl

/-- Every command keeps the bounds of the ports: a request by the rules of its buffer, a READ by those of delivery. -/
theorem exec_portsBounded (c : Instr) (h : s.portsBounded = true) (hc : exec c s = .next t) :
    t.portsBounded = true := by
  cases c <;> simp only [exec] at hc <;> cases hc
  case startUp straps lost => exact startUp_portsBounded s straps lost
  case ignoredTransaction => exact h
  case read p => rw [State.transaction_read]; exact beginRead_portsBounded h p
  case deliveryComplete p => exact completeRead_portsBounded h p
  case readAbandoned p => exact portsBounded_modPort h abandon_bounded
  case saveCompletion => exact s.completeSave_follows.bounded h
  case saveFailure => exact s.failSave_follows.bounded h
  case readMessage l kind card gen direction seq crc =>
    exact (s.readMessage_follows l kind card gen direction seq crc).bounded h
  case framingFault l => obtain ⟨_, e⟩ := s.framingFault_frame l; rw [e]; exact h
  case gapFault l => obtain ⟨_, _, e⟩ := s.gapFault_frame l; rw [e]; exact h
  case endOfTransmission l => exact (s.endOfTransmission_follows l).bounded h
  case repeatRecordExpiry l => obtain ⟨_, e⟩ := s.repeatExpiry_frame l; rw [e]; exact h
  case tick => exact s.takeTick_follows.bounded h
  case tickLoss => exact s.loseTick_follows.bounded h
  case freewheelSecond => exact s.takeSecond_follows.bounded h
  case holdExpiry slot => exact (s.expireHold_follows slot.toNat).bounded h
  case unlockDeadline slot => exact (s.expireUnlock_follows slot.toNat).bounded h
  case allAboardDeadline => exact s.takeAllAboard_follows.bounded h
  case closeDeadline => exact s.takeClose_follows.bounded h
  case laneByteReceived l b => exact (s.laneByte_follows l b).bounded h
  all_goals exact submit_portsBounded h _ _ _

theorem step_portsBounded (h : s.portsBounded = true) (hs : step s = .next t) : t.portsBounded = true := by
  unfold step at hs
  split at hs
  · cases hs
    exact h
  · next c rest _ => exact exec_portsBounded (s := { s with pending := rest }) c h hs

/-- Settles O54: every command keeps the bounds of the ports, and each rule and each event those of the lanes. -/
theorem portsAndLanesStayBounded : Obligations.PortsAndLanesStayBounded :=
  fun _ _ hs => ⟨fun h => step_portsBounded h hs, fun h => lanesBounded_kept.step h hs⟩

end Sys2Proof.Machine
end

section
/-! PROOFS. PresenceStaysCounted, the figures: what the counters, the call and the missing list read of the roster, and
what a step keeps of their laws (07 R133, R142, R144). -/

namespace Sys2Proof.Machine

section Tables

variable {α β : Type} {t : Table α} {n k : Nat} {a x : α}

/-- One field of each listed record, slot by slot. -/
def Table.column (t : Table α) (g : α → β) : List (Nat × β) := t.map (fun e => (e.1, g e.2))

/-- In a canonical table a listed record changed in place is that record written. -/
theorem Table.modify_eq_store (hr : t.rising n = true) (ha : t.fetch k = some a) (f : α → α) :
    t.modify k f = t.store k (f a) := by
  induction t generalizing n with
  | nil => cases ha
  | cons e rest ih =>
    obtain ⟨i, b⟩ := e
    simp only [Table.rising, Bool.and_eq_true, decide_eq_true_eq] at hr
    simp only [Table.fetch] at ha
    simp only [Table.modify, Table.store]
    split at ha
    · next hi =>
      cases ha
      rw [if_pos hi, if_neg (by omega), if_pos hi.symm, hi]
    · next hi =>
      have below : ¬ k < i + 1 := fun h => by rw [Table.fetch_below hr.2 h] at ha; cases ha
      rw [if_neg hi, if_neg (by omega), if_neg (by omega), ih hr.2 ha]

theorem Table.column_modify (t : Table α) (k : Nat) {f : α → α} {g : α → β} (hf : ∀ a, g (f a) = g a) :
    (t.modify k f).column g = t.column g := by
  induction t with
  | nil => rfl
  | cons e rest ih =>
    simp only [Table.modify]
    split
    · simp only [Table.column, List.map_cons, hf]
    · simp only [Table.column, List.map_cons] at ih ⊢
      rw [ih]

theorem Table.column_store (hr : t.rising n = true) (ha : t.fetch k = some a) {g : α → β} (hx : g x = g a) :
    (t.store k x).column g = t.column g := by
  induction t generalizing n with
  | nil => cases ha
  | cons e rest ih =>
    obtain ⟨i, b⟩ := e
    simp only [Table.rising, Bool.and_eq_true, decide_eq_true_eq] at hr
    simp only [Table.fetch] at ha
    simp only [Table.store, Table.column] at ih ⊢
    split at ha
    · next hi =>
      cases ha
      rw [if_neg (by omega), if_pos hi.symm, List.map_cons, List.map_cons, hx, hi]
    · next hi =>
      have below : ¬ k < i + 1 := fun h => by rw [Table.fetch_below hr.2 h] at ha; cases ha
      rw [if_neg (by omega), if_neg (by omega), List.map_cons, List.map_cons, ih hr.2 ha]

/-- The listed slots of a canonical table rise strictly. -/
theorem Table.slots_pairwise (hr : t.rising n = true) : (t.map (·.1)).Pairwise (· < ·) ∧ ∀ i ∈ t.map (·.1), n ≤ i := by
  induction t generalizing n with
  | nil => exact ⟨.nil, nofun⟩
  | cons e rest ih =>
    simp only [Table.rising, Bool.and_eq_true, decide_eq_true_eq] at hr
    obtain ⟨hn, hrest⟩ := hr
    obtain ⟨hp, hge⟩ := ih hrest
    refine ⟨List.pairwise_cons.mpr ⟨hge, hp⟩, List.forall_mem_cons.mpr ⟨hn, fun i hi => ?_⟩⟩
    have := hge i hi
    omega

theorem Table.total_modify (hr : t.rising n = true) (ha : t.fetch k = some a) (f : α → α) (g : α → Nat) :
    (t.modify k f).total g + g a = t.total g + g (f a) := by
  have := Table.total_store (f a) g hr (k := k)
  rwa [ha, ← Table.modify_eq_store hr ha] at this

theorem Table.le_total (ha : t.fetch k = some a) (g : α → Nat) : g a ≤ t.total g := by
  have := Table.total_remove t k g
  rw [ha, Option.map_some, Option.getD_some] at this
  omega

end Tables

variable {s t : State} {slot : Nat} {c d : Cardholder}

/-! ## The gangway records -/

/-- What the counters, the call record and the missing list are held to: the presence of each slot, and they. -/
structure Gangway where
  whereabouts : List (Nat × Option Presence)
  counters : Counters
  call : CallRecord
  missing : List Nat

def State.gangway (s : State) : Gangway :=
  { whereabouts := s.roster.column (·.presence), counters := s.counters, call := s.call, missing := s.missing }

/-- What a step keeps of the laws of the gangway records. -/
structure KeepsPresence (s t : State) : Prop where
  counters : s.countersExact = true → t.countersExact = true
  call : s.callOk = true → t.callOk = true
  missing : s.callOk = true → s.missingExact = true → t.missingExact = true

theorem KeepsPresence.refl (s : State) : KeepsPresence s s := ⟨id, id, fun _ h => h⟩

theorem KeepsPresence.trans {u : State} (h : KeepsPresence s t) (k : KeepsPresence t u) : KeepsPresence s u :=
  ⟨fun hs => k.counters (h.counters hs), fun hs => k.call (h.call hs),
    fun hc hs => k.missing (h.call hc) (h.missing hc hs)⟩

theorem State.countOf_column (s : State) (p : Presence) :
    s.countOf p = (s.roster.column (·.presence)).countP (fun e => e.2 == some p) := by
  rw [State.countOf, Table.column, List.countP_map]
  rfl

theorem State.ashoreSlots_column (s : State) :
    s.ashoreSlots = ((s.roster.column (·.presence)).filter (fun e => e.2 == some .ashore)).map (·.1) := by
  rw [State.ashoreSlots, Table.column, List.filter_map, List.map_map]
  rfl

/-- A step that leaves the gangway records keeps their laws. -/
theorem KeepsPresence.of_same (h : t.gangway = s.gangway) : KeepsPresence s t := by
  simp only [State.gangway, Gangway.mk.injEq] at h
  obtain ⟨hwhere, hcounters, hcall, hmissing⟩ := h
  refine ⟨fun hs => ?_, fun hs => ?_, fun _ hs => ?_⟩
  · simpa only [State.countersExact, State.countOf_column, hwhere, hcounters] using hs
  · simpa only [State.callOk, hcall, hmissing] using hs
  · simpa only [State.missingExact, State.ashoreSlots_column, hwhere, hcall, hmissing] using hs

theorem KeepsPresence.of_frame {u : State} (e : t = u) (h : u.gangway = s.gangway) : KeepsPresence s t := by
  rw [e]
  exact .of_same h

theorem KeepsPresence.of_eq (h : t = s) : KeepsPresence s t := .of_frame h rfl

/-! ## The laws of the gangway records, read -/

theorem State.roster_rising (hw : s.tablesWf = true) : s.roster.rising 0 = true :=
  Table.rising_of_wf (State.roster_wf hw)

/-- What a cardholder adds to the number of a presence. -/
def Cardholder.countedAs (p : Presence) (c : Cardholder) : Nat := if c.presence = some p then 1 else 0

theorem State.countOf_total (s : State) (p : Presence) : s.countOf p = s.roster.total (Cardholder.countedAs p) := by
  rw [State.countOf, Table.total]
  induction s.roster with
  | nil => rfl
  | cons e rest ih =>
    rw [List.countP_cons, List.map_cons, List.sum_cons, ih, Nat.add_comm]
    simp only [Cardholder.countedAs, beq_iff_eq]

theorem State.countersExact_iff : s.countersExact = true ↔ ∀ p, s.counters.of p = s.countOf p := by
  simp only [State.countersExact, Bool.and_eq_true, beq_iff_eq]
  exact ⟨fun ⟨⟨⟨h1, h2⟩, h3⟩, h4⟩ p => by cases p <;> assumption,
    fun h => ⟨⟨⟨h .notBoarded, h .aboard⟩, h .ashore⟩, h .disembarked⟩⟩

theorem State.callOk_iff : s.callOk = true ↔ s.call.ok = true ∧ (s.call.state ≠ .allAboard → s.missing = []) := by
  simp only [State.callOk, Bool.and_eq_true, Bool.or_eq_true, beq_iff_eq, List.isEmpty_iff, ne_eq, or_iff_not_imp_left]

theorem State.missingExact_iff : s.missingExact = true ↔ (s.call.state = .allAboard → s.missing = s.ashoreSlots) := by
  simp only [State.missingExact, Bool.or_eq_true, bne_iff_ne, beq_iff_eq, ne_eq, imp_iff_not_or]

theorem State.mem_ashoreSlots (hr : s.roster.rising 0 = true) {i : Nat} :
    i ∈ s.ashoreSlots ↔ ∃ c, s.roster.fetch i = some c ∧ c.presence = some .ashore := by
  simp only [State.ashoreSlots, List.mem_map, List.mem_filter, beq_iff_eq, Prod.exists, exists_and_right, exists_eq_right]
  exact exists_congr fun c => and_congr_left fun _ => ⟨Table.fetch_of_mem hr, Table.mem_of_fetch⟩

theorem State.ashoreSlots_pairwise (hr : s.roster.rising 0 = true) : s.ashoreSlots.Pairwise (· < ·) :=
  (Table.slots_pairwise hr).1.sublist (List.filter_sublist.map _)

/-- A rising list of slots that holds exactly the guests ASHORE is the list of them (07 R144). -/
theorem State.eq_ashoreSlots {l : List Nat} (hr : s.roster.rising 0 = true) (hl : l.Pairwise (· < ·))
    (h : ∀ i, i ∈ l ↔ ∃ c, s.roster.fetch i = some c ∧ c.presence = some .ashore) : l = s.ashoreSlots :=
  hl.eq_of_mem_iff (State.ashoreSlots_pairwise hr) (fun i => (h i).trans (State.mem_ashoreSlots hr).symm)

/-! ## Counters -/

theorem Counters.of_up (x : Counters) (p q : Presence) : (x.up p).of q = x.of q + if p = q then 1 else 0 := by
  cases p <;> cases q <;> rfl

theorem Counters.of_down (x : Counters) (p q : Presence) : (x.down p).of q = x.of q - if p = q then 1 else 0 := by
  cases p <;> cases q <;> rfl

end Sys2Proof.Machine
end

section
/-! PROOFS. PresenceStaysCounted, the steps that leave the gangway records: no cardholder changes its presence but by a
decided read or SET PRESENCE, and none comes or goes but by ENROL and PURGE CARDHOLDER (07 R133). -/

namespace Sys2Proof.Machine

variable {s t : State} {slot : Nat} {c d : Cardholder}

/-! ## Cardholders rewritten in place -/

theorem gangway_modify (s : State) (slot : Nat) {f : Cardholder → Cardholder} (hf : ∀ c, (f c).presence = c.presence) :
    ({ s with roster := s.roster.modify slot f } : State).gangway = s.gangway := by
  simp only [State.gangway, Table.column_modify _ _ hf]

theorem gangway_withCard (hw : s.tablesWf = true) (hc : s.roster.fetch slot = some c) (hd : d.presence = c.presence) :
    (s.withCard slot d).gangway = s.gangway := by
  simp only [State.gangway, Table.column_store (g := Cardholder.presence) (State.roster_rising hw) hc hd]

/-- A record found by its card number and rewritten with its presence. -/
theorem gangway_found {card : Nat} (hw : s.tablesWf = true) (hc : s.findCard card = some (slot, c))
    (hd : d.presence = c.presence) : (s.withCard slot d).gangway = s.gangway :=
  gangway_withCard hw (State.fetch_of_findCard hw hc).1 hd

/-- Steps one after the other that each leave the gangway records. -/
theorem gangway_foldl {α : Type} {f : State → α → State} (hf : ∀ s x, (f s x).gangway = s.gangway) (l : List α)
    (s : State) : (l.foldl f s).gangway = s.gangway :=
  foldl_keeps (I := fun t : State => t.gangway = s.gangway) (fun t x h => (hf t x).trans h) l rfl

/-! ## Conflict reports, grants and closed cardholders (01 R11, R21 to R25) -/

theorem reportConflict_gangway (hw : s.tablesWf = true) (slot : Nat) : (s.reportConflict slot).gangway = s.gangway := by
  unfold State.reportConflict
  split
  · rfl
  next c hc =>
  dsimp only
  split
  · exact gangway_withCard hw hc rfl
  · exact gangway_withCard hw hc rfl

theorem declineEffect_gangway (hw : s.tablesWf = true) (card : Nat) (r : Result) :
    (s.declineEffect card r).gangway = s.gangway := by
  unfold State.declineEffect
  repeat' split
  · rfl
  · rfl
  · exact reportConflict_gangway hw _
  · rfl

theorem sideReport_gangway (hw : s.tablesWf = true) (slot : Nat) (c : Cardholder) (v : AccessVerdict) :
    (s.sideReport slot c v).gangway = s.gangway := by
  unfold State.sideReport
  split
  · rfl
  · exact reportConflict_gangway hw slot
  · rfl

theorem unpair_gangway (s : State) (holder kslot : Nat) : (s.unpair holder kslot).gangway = s.gangway :=
  gangway_modify s holder fun _ => rfl

theorem closeHolder_gangway (s : State) (holder : Nat) : (s.closeHolder holder).gangway = s.gangway := by
  unfold State.closeHolder
  split
  · rfl
  next c _ =>
  exact (gangway_modify (c.cabins.foldl (fun t kslot => t.unpair holder kslot) s) holder
    (f := fun x => { x with state := .closed }) fun _ => rfl).trans
      (gangway_foldl (fun t k => unpair_gangway t holder k) c.cabins s)

/-! ## Money (chapters 4 and 5) -/

theorem moveHeld_gangway (s : State) (h : Hold) (f : Nat → Nat) : (s.moveHeld h f).gangway = s.gangway :=
  gangway_modify s h.holder fun _ => rfl

theorem endHold_gangway (s : State) (slot : Nat) (h : Hold) : (s.endHold slot h).gangway = s.gangway :=
  moveHeld_gangway _ h _

theorem post_gangway (s : State) (slot : Nat) (e : Entry) : (s.post slot e).gangway = s.gangway := by
  obtain ⟨_, _, _, h⟩ := s.post_frame slot e
  rw [h]
  rfl

theorem spendAt_gangway (s : State) (holder amount : Nat) : (s.spendAt holder amount).gangway = s.gangway :=
  gangway_modify s holder fun _ => rfl

theorem postShares_gangway (p : Port) (outlet cls : Nat) (pr : Priced) (first : Nat) (shares : List Share) (i : Nat)
    (s : State) : (s.postShares p outlet cls pr first shares i).1.gangway = s.gangway := by
  induction shares generalizing s i with
  | nil => rfl
  | cons y rest ih => exact (ih _ _).trans ((spendAt_gangway _ _ _).trans (post_gangway _ _ _))

theorem voidEntry_gangway (s : State) (e : Entry) : (s.voidEntry e).gangway = s.gangway := by
  unfold State.voidEntry
  repeat' split
  all_goals first | rfl | exact gangway_modify s _ fun _ => rfl

theorem voidAll_gangway (s : State) (g : List Entry) : (s.voidAll g).gangway = s.gangway :=
  gangway_foldl voidEntry_gangway g s

theorem expireHold_gangway (s : State) (slot : Nat) : (s.expireHold slot).gangway = s.gangway := by
  unfold State.expireHold
  repeat' split
  · rfl
  · exact endHold_gangway _ _ _
  · rfl

/-! ## Requests that rewrite cardholders in place -/

theorem serveReissue_gangway (hw : s.tablesWf = true) (card : BitVec 32) :
    (serveReissue card s).1.gangway = s.gangway := by
  rcases serveReissue_cases card s with e | ⟨_, _, hf, -, -, e⟩ <;> rw [e]
  exact gangway_found hw hf rfl

theorem serveSuspend_gangway (hw : s.tablesWf = true) (card : BitVec 32) :
    (serveSuspend card s).1.gangway = s.gangway := by
  rcases serveSuspend_cases card s with e | ⟨_, _, hf, -, e⟩ <;> rw [e]
  exact gangway_found hw hf rfl

theorem serveResume_gangway (hw : s.tablesWf = true) (card : BitVec 32) :
    (serveResume card s).1.gangway = s.gangway := by
  rcases serveResume_cases card s with e | ⟨_, _, hf, -, e⟩ <;> rw [e]
  exact gangway_found hw hf rfl

theorem serveSetClassMask_gangway (hw : s.tablesWf = true) (card : BitVec 32) (mask : Byte) :
    (serveSetClassMask card mask s).1.gangway = s.gangway := by
  rcases serveSetClassMask_cases card mask s with e | ⟨_, _, hf, -, e⟩ <;> rw [e]
  exact gangway_found hw hf rfl

theorem serveSetDeckMask_gangway (hw : s.tablesWf = true) (card mask : BitVec 32) :
    (serveSetDeckMask card mask s).1.gangway = s.gangway := by
  rcases serveSetDeckMask_cases card mask s with e | ⟨_, _, hf, -, -, e⟩ <;> rw [e]
  exact gangway_found hw hf rfl

theorem serveCapUp_gangway (hw : s.tablesWf = true) (card : BitVec 32) : (serveCapUp card s).1.gangway = s.gangway := by
  rcases serveCapUp_cases card s with e | ⟨_, _, hf, -, -, e⟩ <;> rw [e]
  exact gangway_found hw hf rfl

theorem serveCapDown_gangway (hw : s.tablesWf = true) (card : BitVec 32) :
    (serveCapDown card s).1.gangway = s.gangway := by
  rcases serveCapDown_cases card s with e | ⟨_, _, hf, -, -, e⟩ <;> rw [e]
  exact gangway_found hw hf rfl

theorem serveSetCapOffset_gangway (hw : s.tablesWf = true) (card : BitVec 32) (offset : Byte) :
    (serveSetCapOffset card offset s).1.gangway = s.gangway := by
  rcases serveSetCapOffset_cases card offset s with e | ⟨_, _, hf, -, e⟩ <;> rw [e]
  exact gangway_found hw hf rfl

theorem serveGrantCabin_gangway (hw : s.tablesWf = true) (card : BitVec 32) (cabin : BitVec 16) :
    (serveGrantCabin card cabin s).1.gangway = s.gangway := by
  rcases serveGrantCabin_cases card cabin s with e | ⟨_, _, _, _, hf, -, -, -, -, e⟩ <;> rw [e]
  exact gangway_found hw hf rfl

theorem serveRevokeCabin_gangway (card : BitVec 32) (cabin : BitVec 16) (s : State) :
    (serveRevokeCabin card cabin s).1.gangway = s.gangway := by
  rcases serveRevokeCabin_cases card cabin s with e | ⟨_, _, _, _, -, -, -, e⟩ <;> rw [e]
  exact unpair_gangway s _ _

theorem serveRekeyCabin_gangway (cabin : BitVec 16) (s : State) : (serveRekeyCabin cabin s).1.gangway = s.gangway := by
  rcases serveRekeyCabin_cases cabin s with e | ⟨kslot, _, -, e⟩ <;> rw [e]
  exact gangway_foldl (fun t holder => unpair_gangway t holder kslot) _ s

theorem serveAccessQuery_gangway (hw : s.tablesWf = true) (p : Port) (card : BitVec 32) (gen : Byte) (cabin : BitVec 16) :
    (serveAccessQuery p card gen cabin s).1.gangway = s.gangway := by
  rcases serveAccessQuery_cases p card gen cabin s with
    e | ⟨slot, c, -, ⟨_, _, -, -, ⟨-, e⟩ | ⟨-, e⟩⟩ | e⟩ <;> rw [e]
  · rfl
  · rfl
  · have told := Calm.denialEvent s card.toNat cabin.toNat (s.accessVerdict slot c gen.toNat cabin.toNat)
    rw [sideReport_gangway (told.steady.tablesWf hw)]
    obtain ⟨_, _, h⟩ := s.denialEvent_frame card.toNat cabin.toNat (s.accessVerdict slot c gen.toNat cabin.toNat)
    rw [h]
    rfl

/-! ## Requests of chapters 4 and 5 -/

theorem serveCharge_gangway (hw : s.tablesWf = true) (p : Port) (outlet : BitVec 16) (cls : Byte) (unit : BitVec 32)
    (qty : Byte) (cards : List Presentation) : (serveCharge p outlet cls unit qty cards s).1.gangway = s.gangway := by
  rcases serveCharge_cases p outlet cls unit qty cards s with e | ⟨_, _, e⟩ | ⟨_, -, e⟩ | ⟨_, _, -, -, e⟩ <;> rw [e]
  · exact declineEffect_gangway hw _ _
  · rfl
  · exact postShares_gangway p _ _ _ _ _ _ s

theorem serveHoldOpen_gangway (hw : s.tablesWf = true) (p : Port) (card : BitVec 32) (gen : Byte) (outlet : BitVec 16)
    (cls : Byte) (gross lifetime : BitVec 32) :
    (serveHoldOpen p card gen outlet cls gross lifetime s).1.gangway = s.gangway := by
  rcases serveHoldOpen_cases p card gen outlet cls gross lifetime s with e | ⟨_, e⟩ | ⟨_, -, e⟩ <;> rw [e]
  · exact declineEffect_gangway hw _ _
  · rcases placeHold_cases s p _ _ _ _ _ with e1 | ⟨_, -, e1⟩ <;> rw [e1]
    exact moveHeld_gangway _ _ _

theorem serveHoldComplete_gangway (p : Port) (slot reuse : Byte) (gross : BitVec 32) (s : State) :
    (serveHoldComplete p slot reuse gross s).1.gangway = s.gangway := by
  rcases serveHoldComplete_cases p slot reuse gross s with e | ⟨_, -, e⟩ | ⟨_, -, -, e⟩ <;> rw [e]
  · rfl
  · rw [spendAt_gangway, post_gangway, endHold_gangway]

theorem serveHoldRelease_gangway (p : Port) (slot reuse : Byte) (s : State) :
    (serveHoldRelease p slot reuse s).1.gangway = s.gangway := by
  rcases serveHoldRelease_cases p slot reuse s with e | ⟨_, -, -, e⟩ <;> rw [e]
  exact endHold_gangway s _ _

theorem serveVoid_gangway (p : Port) (seq : BitVec 32) (outlet : BitVec 16) (s : State) :
    (serveVoid p seq outlet s).1.gangway = s.gangway := by
  rcases serveVoid_cases p seq outlet s with e | ⟨_, _, -, -, e⟩ <;> rw [e]
  exact voidAll_gangway s _

theorem serveWindowAct_gangway (p : Port) (action : Byte) (s : State) :
    (serveWindowAct p action s).1.gangway = s.gangway := by
  rcases serveWindowAct_cases p action s with e | ⟨_, e⟩ | ⟨_, _, _, -, e⟩ <;> rw [e]
  · rfl
  · exact voidAll_gangway s _

theorem serveClose_gangway (folio : BitVec 32) (s : State) : (serveClose folio s).1.gangway = s.gangway := by
  rcases serveClose_cases folio s with e | ⟨_, a, -, -, -, e⟩ <;> rw [e]
  exact gangway_foldl closeHolder_gangway a.holders s

end Sys2Proof.Machine
end

section
/-! PROOFS. PresenceStaysCounted, the steps that move a guest or the call: each keeps the counters, the call record and
the missing list true (07 R133, R137, R139, R141 to R146). -/

namespace Sys2Proof.Machine

variable {s t : State} {slot : Nat} {c d : Cardholder} {p q : Presence}

/-! ## The missing list (07 R144) -/

theorem mem_insertSlot {x : Nat} {l : List Nat} : x ∈ insertSlot slot l ↔ x = slot ∨ x ∈ l := by
  induction l with
  | nil => simp only [insertSlot, List.mem_singleton, List.not_mem_nil, or_false]
  | cons y ys ih =>
    unfold insertSlot
    split
    · exact List.mem_cons
    split
    · next h =>
      subst h
      simp only [List.mem_cons, or_self_left]
    · simp only [List.mem_cons, ih, or_left_comm]

theorem insertSlot_pairwise {l : List Nat} (h : l.Pairwise (· < ·)) : (insertSlot slot l).Pairwise (· < ·) := by
  induction l with
  | nil => exact List.pairwise_singleton _ _
  | cons y ys ih =>
    obtain ⟨hy, hys⟩ := List.pairwise_cons.mp h
    unfold insertSlot
    split
    · next hlt => exact List.pairwise_cons.mpr ⟨List.forall_mem_cons.mpr ⟨hlt, fun z hz => hlt.trans (hy z hz)⟩, h⟩
    split
    · exact h
    · refine List.pairwise_cons.mpr ⟨fun z hz => ?_, ih hys⟩
      rcases mem_insertSlot.mp hz with rfl | hz
      · omega
      · exact hy z hz

theorem State.leaveMissing_absent (h : slot ∉ s.missing) : s.leaveMissing slot = s := if_neg h

theorem State.leaveMissing_left (h : slot ∈ s.missing) (hl : s.missing.filter (fun x => x != slot) ≠ []) :
    s.leaveMissing slot = { s with missing := s.missing.filter (fun x => x != slot) } := by
  rw [State.leaveMissing, if_pos h]
  exact if_neg hl

theorem State.leaveMissing_last (h : slot ∈ s.missing) (hl : s.missing.filter (fun x => x != slot) = []) :
    s.leaveMissing slot = ({ s with missing := [] } : State).allReturned := by
  rw [State.leaveMissing, if_pos h]
  simp only [hl, if_true]

/-- Where the list's last guest leaves it, a close that was held is taken, and the call goes on otherwise (R145). -/
theorem State.allReturned_cases (s : State) :
    (s.call.closeHeld = false ∧ s.allReturned = s.raise purserAndWatch .allReturned none (some 0)) ∨
      (s.call.closeHeld = true ∧
        s.allReturned = (s.raise purserAndWatch .allReturned none (some 0)).closeCall 0) := by
  unfold State.allReturned
  cases s.call.closeHeld <;> simp

theorem leaveMissing_callOk (h : s.callOk = true) : (s.leaveMissing slot).callOk = true := by
  by_cases hm : slot ∈ s.missing
  case neg => rwa [State.leaveMissing_absent hm]
  obtain ⟨hok, hlist⟩ := State.callOk_iff.mp h
  have aboard : s.call.state = .allAboard := by
    by_contra hs
    rw [hlist hs] at hm
    cases hm
  by_cases hl : s.missing.filter (fun x => x != slot) = []
  · rw [State.leaveMissing_last hm hl]
    rcases State.allReturned_cases { s with missing := [] } with ⟨-, e⟩ | ⟨-, e⟩ <;> rw [e]
    · exact State.callOk_iff.mpr ⟨hok, fun _ => rfl⟩
    · rfl
  · rw [State.leaveMissing_left hm hl]
    exact State.callOk_iff.mpr ⟨hok, fun hs => absurd aboard hs⟩

/-- A call that is in ALL_ABOARD after a guest left the list was so before, and the list lost that guest alone. -/
theorem leaveMissing_allAboard (h : (s.leaveMissing slot).call.state = .allAboard) :
    s.call.state = .allAboard ∧ (s.leaveMissing slot).missing = s.missing.filter (fun x => x != slot) := by
  by_cases hm : slot ∈ s.missing
  case neg =>
    rw [State.leaveMissing_absent hm] at h ⊢
    refine ⟨h, (List.filter_eq_self.mpr fun x hx => bne_iff_ne.mpr ?_).symm⟩
    rintro rfl
    exact hm hx
  by_cases hl : s.missing.filter (fun x => x != slot) = []
  · rw [State.leaveMissing_last hm hl] at h ⊢
    rcases State.allReturned_cases { s with missing := [] } with ⟨-, e⟩ | ⟨-, e⟩ <;> rw [e] at h ⊢
    · exact ⟨h, hl.symm⟩
    · cases h
  · rw [State.leaveMissing_left hm hl] at h ⊢
    exact ⟨h, rfl⟩

/-! ## A guest moved (07 R133) -/

theorem State.ashoreSlots_of_roster (h : t.roster = s.roster) : t.ashoreSlots = s.ashoreSlots := by
  rw [State.ashoreSlots, h, State.ashoreSlots]

theorem countersExact_of_same (hr : t.roster = s.roster) (hc : t.counters = s.counters) (h : s.countersExact = true) :
    t.countersExact = true := by
  simpa only [State.countersExact, State.countOf, hr, hc] using h

section Moved

variable {tr : Option Transit} (hw : s.tablesWf = true) (hc : s.roster.fetch slot = some c)

include hw

theorem movePresence_rising : (s.movePresence slot p q tr).roster.rising 0 = true :=
  Table.rising_modify _ _ (State.roster_rising hw)

include hc

theorem movePresence_countersExact (hp : c.presence = some p) (h : s.countersExact = true) :
    (s.movePresence slot p q tr).countersExact = true := by
  rw [State.countersExact_iff] at h ⊢
  intro r
  have moved := Table.total_modify (State.roster_rising hw) hc
    (fun c => { c with presence := some q, lastTransit := tr }) (Cardholder.countedAs r)
  have counted := Table.le_total hc (Cardholder.countedAs r)
  have before := h r
  rw [State.countOf_total] at before ⊢
  simp only [Cardholder.countedAs, hp, Option.some.injEq] at moved counted
  simp only [State.movePresence, Counters.of_up, Counters.of_down, before]
  omega

theorem mem_movePresence_ashoreSlots {i : Nat} : i ∈ (s.movePresence slot p q tr).ashoreSlots ↔
    (i = slot ∧ q = .ashore) ∨ (i ≠ slot ∧ i ∈ s.ashoreSlots) := by
  rw [State.mem_ashoreSlots (movePresence_rising hw), State.mem_ashoreSlots (State.roster_rising hw)]
  simp only [State.movePresence, Table.fetch_modify]
  by_cases hi : i = slot
  · simp [hi, hc]
  · simp [hi]

theorem movePresence_joins : insertSlot slot s.ashoreSlots = (s.movePresence slot p .ashore tr).ashoreSlots := by
  refine (insertSlot_pairwise (State.ashoreSlots_pairwise (State.roster_rising hw))).eq_of_mem_iff
    (State.ashoreSlots_pairwise (movePresence_rising hw)) fun i => ?_
  rw [mem_insertSlot, mem_movePresence_ashoreSlots hw hc]
  tauto

theorem movePresence_leaves (hq : q ≠ .ashore) :
    s.ashoreSlots.filter (fun x => x != slot) = (s.movePresence slot p q tr).ashoreSlots := by
  refine ((State.ashoreSlots_pairwise (State.roster_rising hw)).filter _).eq_of_mem_iff
    (State.ashoreSlots_pairwise (movePresence_rising hw)) fun i => ?_
  rw [List.mem_filter, bne_iff_ne, mem_movePresence_ashoreSlots hw hc]
  tauto

/-- Out of ALL_ABOARD no list follows the guest (07 R141, R144). -/
theorem movePresence_keepsPresence (hp : c.presence = some p) (hs : s.call.state ≠ .allAboard) :
    KeepsPresence s (s.movePresence slot p q tr) :=
  ⟨movePresence_countersExact hw hc hp, id, fun _ _ => State.missingExact_iff.mpr fun h => absurd h hs⟩

/-- In ALL_ABOARD a guest that goes ASHORE joins the list (07 R141, R144). -/
theorem joinMissing_keepsPresence (hp : c.presence = some p) (hs : s.call.state = .allAboard) :
    KeepsPresence s ((s.movePresence slot p .ashore tr).joinMissing slot) := by
  refine ⟨movePresence_countersExact hw hc hp, fun h => ?_, fun _ h => State.missingExact_iff.mpr fun _ => ?_⟩
  · exact State.callOk_iff.mpr ⟨(State.callOk_iff.mp h).1, fun hne => absurd hs hne⟩
  · exact (congrArg (insertSlot slot) (State.missingExact_iff.mp h hs)).trans (movePresence_joins (p := p) hw hc)

/-- A guest that is not ASHORE after its move leaves the list, in ALL_ABOARD or out of it (07 R139, R141, R144). -/
theorem leaveMissing_keepsPresence (hp : c.presence = some p) (hq : q ≠ .ashore) :
    KeepsPresence s ((s.movePresence slot p q tr).leaveMissing slot) := by
  obtain ⟨_, _, _, e⟩ := (s.movePresence slot p q tr).leaveMissing_frame slot
  refine ⟨fun h => ?_, fun h => leaveMissing_callOk h, fun _ h => State.missingExact_iff.mpr fun hs => ?_⟩
  · exact countersExact_of_same (s := s.movePresence slot p q tr) (by rw [e]) (by rw [e])
      (movePresence_countersExact hw hc hp h)
  · obtain ⟨aboard, list⟩ := leaveMissing_allAboard hs
    rw [list, State.ashoreSlots_of_roster (leaveMissing_roster _ slot), ← movePresence_leaves hw hc hq]
    exact congrArg (List.filter fun x => x != slot) (State.missingExact_iff.mp h aboard)

theorem setPresence_keepsPresence (hp : c.presence = some p) (q : Presence) :
    KeepsPresence s (s.setPresence slot p q) := by
  unfold State.setPresence State.followPresence
  split
  · exact .refl s
  split
  · next hs => exact movePresence_keepsPresence hw hc hp hs
  · next hs =>
    cases q with
    | ashore => exact joinMissing_keepsPresence hw hc hp (not_not.mp hs)
    | aboard | disembarked | notBoarded => exact leaveMissing_keepsPresence hw hc hp nofun

end Moved

theorem serveSetPresence_keepsPresence (hw : s.tablesWf = true) (card : BitVec 32) (presence : Byte) :
    KeepsPresence s (serveSetPresence card presence s).1 := by
  rcases serveSetPresence_cases card presence s with e | ⟨q, _, _, _, -, hf, hp, e⟩ <;> rw [e]
  · exact .refl s
  · exact setPresence_keepsPresence hw (State.fetch_of_findCard hw hf).1 hp q

/-! ## Reads decided on the lanes (07 R134 to R139) -/

/-- A decision moves a guest from the presence it has, and none goes out in ALL_ABOARD (07 R135, R138). -/
def ReadEffect.fits (s : State) : ReadEffect → Prop
  | .nothing => True
  | .conflict _ => True
  | .leaves slot _ =>
    s.call.state ≠ .allAboard ∧ ∃ c, s.roster.fetch slot = some c ∧ c.presence = some .aboard
  | .boards slot former => ∃ c, s.roster.fetch slot = some c ∧ c.presence = some former

theorem decideOut_fits (hc : s.roster.fetch slot = some c) : (s.decideOut slot c).effect.fits s := by
  unfold State.decideOut
  split
  · trivial
  next hp =>
  split
  · trivial
  next hs =>
  split
  · trivial
  split
  · trivial
  · exact ⟨hs, c, hc, not_not.mp hp⟩

theorem decideIn_fits (hc : s.roster.fetch slot = some c) : (s.decideIn slot c).effect.fits s := by
  unfold State.decideIn
  split
  · trivial
  split
  · trivial
  · split
    · trivial
    · exact ⟨c, hc, ‹_›⟩
  · split
    · trivial
    · exact ⟨c, hc, ‹_›⟩
  · trivial
  · trivial

theorem judge_fits (hw : s.tablesWf = true) (l : Lane) (r : LaneRead) : (s.judge l r).effect.fits s := by
  unfold State.judge State.decideRead
  split
  · trivial
  split
  · trivial
  split
  · trivial
  next hf =>
  have hc := (State.fetch_of_findCard hw hf).1
  repeat' split
  · trivial
  · trivial
  · trivial
  · exact decideOut_fits hc
  · exact decideIn_fits hc

theorem applyRead_keepsPresence (hw : s.tablesWf = true) (l : Lane) {e : ReadEffect} (he : e.fits s) :
    KeepsPresence s (s.applyRead l e) := by
  cases e with
  | nothing => exact .refl s
  | conflict slot => exact .of_same (reportConflict_gangway hw slot)
  | leaves slot goal =>
    obtain ⟨hs, c, hc, hp⟩ := he
    exact movePresence_keepsPresence hw hc hp hs
  | boards slot former =>
    obtain ⟨c, hc, hp⟩ := he
    exact leaveMissing_keepsPresence hw hc hp nofun

theorem KeepsPresence.modLane (s : State) (l : Lane) (f : LaneState → LaneState) : KeepsPresence s (s.modLane l f) :=
  .of_same rfl

theorem takeRead_keepsPresence (hw : s.tablesWf = true) (l : Lane) (r : LaneRead) :
    KeepsPresence s (s.takeRead l r) := by
  unfold State.takeRead
  repeat' split
  · exact .modLane s l _
  · exact .modLane s l _
  · exact (applyRead_keepsPresence hw l (judge_fits hw l r)).trans (.modLane _ l _)

theorem completeMessage_keepsPresence (hw : s.tablesWf = true) (l : Lane) (kind : Byte) (card : BitVec 32)
    (gen direction seq : Byte) (crc : BitVec 16) :
    KeepsPresence s (s.completeMessage l kind card gen direction seq crc) := by
  unfold State.completeMessage State.validRead
  repeat' split
  · exact .modLane s l _
  · exact .modLane s l _
  · exact .modLane s l _
  · exact (KeepsPresence.modLane s l _).trans (takeRead_keepsPresence (s := s.modLane l _) hw l _)
  · exact .of_same rfl
  · exact .of_same rfl

theorem readMessage_keepsPresence (hw : s.tablesWf = true) (l : Lane) (kind : Byte) (card : BitVec 32)
    (gen direction seq : Byte) (crc : BitVec 16) :
    KeepsPresence s (s.readMessage l kind card gen direction seq crc) := by
  unfold State.readMessage
  split
  · exact .refl s
  · exact completeMessage_keepsPresence hw l _ _ _ _ _ _

theorem laneByte_keepsPresence (hw : s.tablesWf = true) (l : Lane) (b : Byte) : KeepsPresence s (s.laneByte l b) := by
  unfold State.laneByte State.takeByte
  repeat' split
  · exact .refl s
  · exact .modLane s l _
  · exact .refl s
  · exact .modLane s l _
  · exact completeMessage_keepsPresence hw l _ _ _ _ _ _

theorem endOfTransmission_keepsPresence (hw : s.tablesWf = true) (l : Lane) :
    KeepsPresence s (s.endOfTransmission l) := by
  unfold State.endOfTransmission
  repeat' split
  · exact .refl s
  · exact .modLane s l _
  · exact (KeepsPresence.modLane s l _).trans (takeRead_keepsPresence (s := s.modLane l _) hw l _)

/-! ## Cardholders that come and go (01 R6, R10) -/

/-- A cardholder put in a FREE slot, not ASHORE and counted as it is. -/
theorem enrolled_keepsPresence (hw : s.tablesWf = true) (hfree : s.roster.fetch slot = none)
    (hd : d.presence ≠ some .ashore) (hr : t.roster = s.roster.store slot d) (hcall : t.call = s.call)
    (hmissing : t.missing = s.missing) (hcount : ∀ r, t.counters.of r = s.counters.of r + d.countedAs r) :
    KeepsPresence s t := by
  have rising : t.roster.rising 0 = true := by
    rw [hr]
    exact Table.rising_store d (State.roster_rising hw) (Nat.zero_le slot)
  have ashore : s.ashoreSlots = t.ashoreSlots := by
    refine State.eq_ashoreSlots rising (State.ashoreSlots_pairwise (State.roster_rising hw)) fun i => ?_
    rw [State.mem_ashoreSlots (State.roster_rising hw), hr]
    by_cases hi : i = slot
    · simp [hi, hfree, Table.fetch_store_same, hd]
    · rw [Table.fetch_store_ne _ _ hi]
  refine ⟨fun h => State.countersExact_iff.mpr fun r => ?_, fun h => ?_, fun _ h => ?_⟩
  · have total := Table.total_store d (Cardholder.countedAs r) (State.roster_rising hw) (k := slot)
    rw [hfree, Option.map_none, Option.getD_none, ← hr, ← State.countOf_total, ← State.countOf_total] at total
    rw [hcount, State.countersExact_iff.mp h r, ← total, Nat.add_zero]
  · rwa [State.callOk, hcall, hmissing]
  · rwa [State.missingExact, hcall, hmissing, ← ashore]

theorem serveEnrol_keepsPresence (hw : s.tablesWf = true) (card : BitVec 32) (kind : Byte) (folio : BitVec 32)
    (classMask : Byte) (deckMask : BitVec 32) :
    KeepsPresence s (serveEnrol card kind folio classMask deckMask s).1 := by
  rcases serveEnrol_cases card kind folio classMask deckMask s with
    e | ⟨slot, hslot, -, e | ⟨k, _, _, -, -, e⟩⟩ <;> rw [e]
  · exact .refl s
  · exact enrolled_keepsPresence hw (Table.freeSlot_spec (State.roster_wf hw) hslot).2 (by simp [newStaff]) rfl rfl rfl
      fun _ => rfl
  · refine enrolled_keepsPresence hw (Table.freeSlot_spec (State.roster_wf hw) hslot).2 (by simp [newGuest]) rfl rfl rfl
      fun r => ?_
    rw [Counters.of_up]
    simp only [Cardholder.countedAs, newGuest, Option.some.injEq]

theorem Counters.of_downIf (x : Counters) (c : Cardholder) (r : Presence) :
    (x.downIf c.presence).of r = x.of r - c.countedAs r := by
  unfold Counters.downIf Cardholder.countedAs
  cases c.presence with
  | none => simp
  | some p => simp only [Counters.of_down, Option.some.injEq]

/-- No cardholder that PURGE may free is ASHORE (01 R10, check 2). -/
theorem not_ashore_of_purgeable (hrange : c.inRange = true) (hp : c.purgeable = true) : c.presence ≠ some .ashore := by
  obtain ⟨-, -, -, -, hpresence, -⟩ := Cardholder.inRange_iff.mp hrange
  intro h
  rw [h] at hpresence
  unfold Cardholder.purgeable at hp
  split at hp
  · next hk =>
    rw [hk] at hpresence
    cases hpresence
  · simp [h] at hp
  · simp [h] at hp

theorem servePurge_keepsPresence (hw : s.tablesWf = true) (hrange : s.cardsInRange = true) (card : BitVec 32) :
    KeepsPresence s (servePurge card s).1 := by
  rcases servePurge_cases card s with e | ⟨slot, c, hf, hp, -, e⟩ <;> rw [e]
  · exact .refl s
  have hc := (State.fetch_of_findCard hw hf).1
  have notAshore := not_ashore_of_purgeable ((State.cardsInRange_iff hw).mp hrange _ _ hc) (eq_true_of_ne_false hp)
  have rising : (s.roster.remove slot).rising 0 = true := Table.rising_remove slot (State.roster_rising hw)
  refine ⟨fun h => State.countersExact_iff.mpr fun r => ?_, id, fun _ h => State.missingExact_iff.mpr fun hs => ?_⟩
  · have total := Table.total_remove s.roster slot (Cardholder.countedAs r)
    rw [hc, Option.map_some, Option.getD_some, ← State.countOf_total] at total
    rw [Counters.of_downIf, State.countOf_total, State.countersExact_iff.mp h r, ← total, Nat.add_sub_cancel]
  · refine (State.missingExact_iff.mp h hs).trans
      (State.eq_ashoreSlots rising (State.ashoreSlots_pairwise (State.roster_rising hw)) fun i => ?_)
    rw [State.mem_ashoreSlots (State.roster_rising hw)]
    by_cases hi : i = slot
    · simp [hi, hc, Table.fetch_remove_same slot (State.roster_rising hw), notAshore]
    · rw [Table.fetch_remove_ne _ hi]

/-! ## The call (07 R142 to R146) -/

theorem openedCall_ok {kind mode : Byte} {allAboard closeTime now : Nat} {record : CallRecord}
    (h : openedCall kind allAboard mode closeTime now = some record) :
    record.ok = true ∧ record.state = .alongside := by
  unfold openedCall at h
  split at h
  · cases h
  · cases h
    exact ⟨rfl, rfl⟩
  · cases h
  next k m hfinal _ _ =>
  split at h
  · cases h
  · cases h
    refine ⟨?_, rfl⟩
    cases k with
    | final => exact absurd rfl (hfinal · )
    | embark | port => cases m <;> rfl

theorem serveOpenCall_keepsPresence (kind : Byte) (allAboard : BitVec 32) (mode : Byte) (closeTime : BitVec 32)
    (s : State) : KeepsPresence s (serveOpenCall kind allAboard mode closeTime s).1 := by
  rcases serveOpenCall_cases kind allAboard mode closeTime s with e | ⟨record, hs, hrecord, e⟩ <;> rw [e]
  · exact .refl s
  obtain ⟨ok, alongside⟩ := openedCall_ok hrecord
  refine ⟨id, fun h => State.callOk_iff.mpr ⟨ok, fun _ => ?_⟩, fun _ _ => State.missingExact_iff.mpr fun h => ?_⟩
  · exact (State.callOk_iff.mp h).2 (by rw [not_not.mp hs]; nofun)
  · exact absurd (alongside.symm.trans h) nofun

/-- A call closed leaves no list, and no guest moves (07 R146). -/
theorem closeCall_keepsPresence (s : State) (n : Nat) : KeepsPresence s (s.closeCall n) :=
  ⟨id, fun _ => rfl, fun _ _ => rfl⟩

theorem serveCloseCall_keepsPresence (force : Byte) (s : State) : KeepsPresence s (serveCloseCall force s).1 := by
  rcases serveCloseCall_cases force s with e | ⟨_, -, -, -, e⟩ <;> rw [e]
  · exact .refl s
  · exact closeCall_keepsPresence s _

theorem State.allAboardDue_iff : s.allAboardDue = true ↔
    s.call.state = .alongside ∧ ∃ t, s.call.allAboard = some t ∧ t ≤ s.shipTime := by
  unfold State.allAboardDue
  cases s.call.allAboard <;> simp

theorem State.closeDue_iff : s.closeDue = true ↔
    (s.call.state = .allAboard ∧ s.call.closeMode = .timed ∧ s.call.closeHeld = false) ∧
      ∃ t, s.call.closeTime = some t ∧ t ≤ s.shipTime := by
  unfold State.closeDue
  cases s.call.closeTime <;> simp [State.closeRegistered, and_assoc]

/-- A call with an all-aboard time is no FINAL one, so its record is one of ALL_ABOARD too (07 R142, R143). -/
theorem CallRecord.ok_allAboard {x : CallRecord} {time : Nat} (h : x.ok = true) (hs : x.state = .alongside)
    (ha : x.allAboard = some time) : ({ x with state := .allAboard } : CallRecord).ok = true := by
  have timed : x ≠ finalCall := by
    rintro rfl
    cases ha
  simp only [CallRecord.ok, hs, Bool.or_eq_true, beq_iff_eq, timed, false_or] at h ⊢
  simp_all

theorem takeAllAboard_keepsPresence (s : State) : KeepsPresence s s.takeAllAboard := by
  unfold State.takeAllAboard
  split
  · next hdue =>
    obtain ⟨hs, time, ha, -⟩ := State.allAboardDue_iff.mp hdue
    refine ⟨id, fun h => ?_, fun _ _ => State.missingExact_iff.mpr fun _ => rfl⟩
    exact State.callOk_iff.mpr ⟨CallRecord.ok_allAboard (State.callOk_iff.mp h).1 hs ha, fun hne => absurd rfl hne⟩
  · exact .refl s

theorem CallRecord.ok_closeHeld {x : CallRecord} (h : x.ok = true) (hs : x.state = .allAboard)
    (hm : x.closeMode = .timed) : ({ x with closeHeld := true } : CallRecord).ok = true := by
  simp_all [CallRecord.ok]

theorem takeClose_keepsPresence (s : State) : KeepsPresence s s.takeClose := by
  unfold State.takeClose
  split
  · next hdue =>
    obtain ⟨⟨hs, hm, -⟩, -⟩ := State.closeDue_iff.mp hdue
    split
    · exact closeCall_keepsPresence s 0
    · refine ⟨id, fun h => ?_, fun _ h => h⟩
      obtain ⟨ok, list⟩ := State.callOk_iff.mp h
      exact State.callOk_iff.mpr ⟨CallRecord.ok_closeHeld ok hs hm, list⟩
  · exact .refl s

/-! ## Record memory initialized (10 R184, R185) -/

theorem cleared_keepsPresence (hr : t.roster = []) (hc : t.counters = .zero) (hcall : t.call = .sea)
    (hm : t.missing = []) : KeepsPresence s t := by
  refine ⟨fun _ => ?_, fun _ => ?_, fun _ _ => ?_⟩
  · rw [State.countersExact, hc]
    simp only [State.countOf, hr]
    rfl
  · rw [State.callOk, hcall, hm]
    rfl
  · rw [State.missingExact, hcall]
    rfl

theorem serveVoyageClear_keepsPresence (s : State) : KeepsPresence s (serveVoyageClear s).1 := by
  rcases serveVoyageClear_cases s with e | ⟨-, e⟩ <;> rw [e]
  · exact .refl s
  · exact cleared_keepsPresence rfl rfl rfl rfl

theorem startUp_keepsPresence (s : State) (straps : Quad (BitVec 2)) (lost : Bool) :
    KeepsPresence s (s.startUp straps lost) := by
  unfold State.startUp
  split
  · exact .of_same rfl
  · exact cleared_keepsPresence rfl rfl rfl rfl

end Sys2Proof.Machine
end

section
/-! PROOFS. PresenceStaysCounted: every request, every event and every step keeps the laws of the gangway records (07
R133, R142, R144). -/

namespace Sys2Proof.Machine

variable {s t : State}

/-- Every request leaves the gangway records, or moves a guest or the call and keeps their laws (09 R167). -/
theorem serve_keepsPresence (hw : s.tablesWf = true) (hrange : s.cardsInRange = true) (p : Port) (req : Request) :
    KeepsPresence s (serve p req s).1 := by
  cases req with
  | badFrame | unknown | badLength | noOp | readPortStatus | readCounts | readCall | readTime | readSettings
  | setOptions => exact .of_same rfl
  | setNoticeMask mask => obtain ⟨_, e⟩ := serveSetNoticeMask_frame p mask s; exact .of_frame e rfl
  | readCardholder card => exact .of_eq (serveReadCardholder_frame card s)
  | readAccount folio => exact .of_eq (serveReadAccount_frame folio s)
  | readCabin cabin => exact .of_eq (serveReadCabin_frame cabin s)
  | readHold slot reuse => exact .of_eq (serveReadHold_frame slot reuse s)
  | readEntry seq => exact .of_eq (serveReadEntry_frame seq s)
  | readLane lane => exact .of_eq (serveReadLane_frame lane s)
  | injectRead lane card gen direction seq => exact .of_eq (serveInjectRead_frame lane card gen direction seq s)
  | price cls unit qty k card package => exact .of_eq (servePrice_frame cls unit qty k card package s)
  | windowOpen collection mode key start =>
    obtain ⟨_, e⟩ := serveWindowOpen_frame p collection mode key start s; exact .of_frame e rfl
  | windowRead => obtain ⟨_, e⟩ := serveWindowRead_frame p s; exact .of_frame e rfl
  | windowAct action => exact .of_same (serveWindowAct_gangway p action s)
  | charge outlet cls unit qty cards => exact .of_same (serveCharge_gangway hw p outlet cls unit qty cards)
  | holdOpen card gen outlet cls gross lifetime =>
    exact .of_same (serveHoldOpen_gangway hw p card gen outlet cls gross lifetime)
  | holdComplete slot reuse gross => exact .of_same (serveHoldComplete_gangway p slot reuse gross s)
  | holdRelease slot reuse => exact .of_same (serveHoldRelease_gangway p slot reuse s)
  | void seq outlet => exact .of_same (serveVoid_gangway p seq outlet s)
  | accessQuery card gen cabin => exact .of_same (serveAccessQuery_gangway hw p card gen cabin)
  | lockReport cabin token outcome =>
    obtain ⟨_, _, _, e⟩ := serveLockReport_frame cabin token outcome s; exact .of_frame e rfl
  | privacySet cabin => obtain ⟨_, e⟩ := servePrivacySet_frame cabin s; exact .of_frame e rfl
  | privacyClear cabin => obtain ⟨_, e⟩ := servePrivacyClear_frame cabin s; exact .of_frame e rfl
  | enrol card kind folio classMask deckMask =>
    exact serveEnrol_keepsPresence hw card kind folio classMask deckMask
  | reissue card => exact .of_same (serveReissue_gangway hw card)
  | suspend card => exact .of_same (serveSuspend_gangway hw card)
  | resume card => exact .of_same (serveResume_gangway hw card)
  | purge card => exact servePurge_keepsPresence hw hrange card
  | setClassMask card mask => exact .of_same (serveSetClassMask_gangway hw card mask)
  | setDeckMask card mask => exact .of_same (serveSetDeckMask_gangway hw card mask)
  | capUp card => exact .of_same (serveCapUp_gangway hw card)
  | capDown card => exact .of_same (serveCapDown_gangway hw card)
  | setCapOffset card offset => exact .of_same (serveSetCapOffset_gangway hw card offset)
  | openAccount folio limit deposit =>
    obtain ⟨_, _, e⟩ := serveOpenAccount_frame folio limit deposit s; exact .of_frame e rfl
  | setLimit folio amount => obtain ⟨_, _, e⟩ := serveSetLimit_frame folio amount s; exact .of_frame e rfl
  | setDeposit folio amount => obtain ⟨_, _, e⟩ := serveSetDeposit_frame folio amount s; exact .of_frame e rfl
  | setPackage folio package => obtain ⟨_, e⟩ := serveSetPackage_frame folio package s; exact .of_frame e rfl
  | setMinorRelease folio value =>
    obtain ⟨_, e⟩ := serveSetMinorRelease_frame folio value s; exact .of_frame e rfl
  | adjust folio kind amount => obtain ⟨_, _, _, _, e⟩ := serveAdjust_frame folio kind amount s; exact .of_frame e rfl
  | settleBegin folio => obtain ⟨_, e⟩ := serveSettleBegin_frame folio s; exact .of_frame e rfl
  | settleStep folio => obtain ⟨_, _, e⟩ := serveSettleStep_frame folio s; exact .of_frame e rfl
  | reopen folio => obtain ⟨_, _, e⟩ := serveReopen_frame folio s; exact .of_frame e rfl
  | close folio => exact .of_same (serveClose_gangway folio s)
  | takeClosure => obtain ⟨_, _, e⟩ := serveTakeClosure_frame s; exact .of_frame e rfl
  | defineCabin cabin deck => obtain ⟨_, e⟩ := serveDefineCabin_frame cabin deck s; exact .of_frame e rfl
  | undefineCabin cabin => obtain ⟨_, _, e⟩ := serveUndefineCabin_frame cabin s; exact .of_frame e rfl
  | grantCabin card cabin => exact .of_same (serveGrantCabin_gangway hw card cabin)
  | revokeCabin card cabin => exact .of_same (serveRevokeCabin_gangway card cabin s)
  | rekeyCabin cabin => exact .of_same (serveRekeyCabin_gangway cabin s)
  | blockCabin cabin => obtain ⟨_, e⟩ := serveBlockCabin_frame cabin s; exact .of_frame e rfl
  | unblockCabin cabin => obtain ⟨_, e⟩ := serveUnblockCabin_frame cabin s; exact .of_frame e rfl
  | setPresence card presence => exact serveSetPresence_keepsPresence hw card presence
  | openCall kind allAboard mode closeTime => exact serveOpenCall_keepsPresence kind allAboard mode closeTime s
  | closeCall force => exact serveCloseCall_keepsPresence force s
  | laneMode lane mode direction clear =>
    obtain ⟨_, e⟩ := serveLaneMode_frame lane mode direction clear s; exact .of_frame e rfl
  | setTime time => obtain ⟨_, _, _, _, _, _, e⟩ := serveSetTime_frame time s; exact .of_frame e rfl
  | setTariff1 part => obtain ⟨_, e⟩ := serveSetTariff1_frame part s; exact .of_frame e rfl
  | setTariff2 rows => obtain ⟨_, e⟩ := serveSetTariff2_frame rows s; exact .of_frame e rfl
  | loadSettings => obtain ⟨_, _, _, _, _, e⟩ := serveLoadSettings_frame s; exact .of_frame e rfl
  | saveSettings => obtain ⟨_, _, e⟩ := serveSaveSettings_frame p s; exact .of_frame e rfl
  | voyageClear => exact serveVoyageClear_keepsPresence s

/-- A state on the way through a step: its tables in form and its cardholders in range, and the laws of the gangway
records kept since the step began. -/
structure PresenceKept (s x : State) : Prop where
  tables : x.tablesWf = true
  cards : x.cardsInRange = true
  keeps : KeepsPresence s x

/-- Each rule and each event keeps the laws of the gangway records. -/
theorem keepsPresence_leads (s : State) : Leads (PresenceKept s) (KeepsPresence s) where
  here := fun _ h => h.keeps
  queue := fun _ _ h => ⟨h.tables, h.cards, h.keeps.trans (.of_same rfl)⟩
  portBefore := fun _ _ _ h => ⟨h.tables, h.cards, h.keeps.trans (.of_same rfl)⟩
  port := fun _ _ _ h => h.trans (.of_same rfl)
  timer := fun _ h => h.keeps.trans (.of_same rfl)
  serve := fun p req _ h => h.keeps.trans (serve_keepsPresence h.tables h.cards p req)
  startUp := fun x straps lost h => h.keeps.trans (startUp_keepsPresence x straps lost)
  readMessage := fun _ l kind card gen direction seq crc h =>
    h.keeps.trans (readMessage_keepsPresence h.tables l kind card gen direction seq crc)
  laneByte := fun _ l b h => h.keeps.trans (laneByte_keepsPresence h.tables l b)
  endOfTransmission := fun _ l h => h.keeps.trans (endOfTransmission_keepsPresence h.tables l)
  takeAllAboard := fun x h => h.keeps.trans (takeAllAboard_keepsPresence x)
  takeClose := fun x h => h.keeps.trans (takeClose_keepsPresence x)
  expireHold := fun x slot h => h.keeps.trans (.of_same (expireHold_gangway x slot.toNat))
  completeSave := fun x h => by
    obtain ⟨_, _, _, _, e⟩ := x.completeSave_frame; exact h.keeps.trans (.of_frame e rfl)
  failSave := fun x h => by obtain ⟨_, _, e⟩ := x.failSave_frame; exact h.keeps.trans (.of_frame e rfl)
  framingFault := fun x l h => by obtain ⟨_, e⟩ := x.framingFault_frame l; exact h.keeps.trans (.of_frame e rfl)
  gapFault := fun x l h => by obtain ⟨_, _, e⟩ := x.gapFault_frame l; exact h.keeps.trans (.of_frame e rfl)
  repeatExpiry := fun x l h => by obtain ⟨_, e⟩ := x.repeatExpiry_frame l; exact h.keeps.trans (.of_frame e rfl)
  takeTick := fun x h => by
    obtain ⟨_, _, _, _, _, _, _, _, _, e⟩ := x.takeTick_frame; exact h.keeps.trans (.of_frame e rfl)
  loseTick := fun x h => by
    obtain ⟨_, _, _, _, _, _, _, _, e⟩ := x.loseTick_frame; exact h.keeps.trans (.of_frame e rfl)
  takeSecond := fun x h => by
    obtain ⟨_, _, _, _, _, _, _, _, e⟩ := x.takeSecond_frame; exact h.keeps.trans (.of_frame e rfl)
  expireUnlock := fun x cabin h => by
    obtain ⟨_, _, _, _, e⟩ := x.expireUnlock_frame cabin; exact h.keeps.trans (.of_frame e rfl)

/-- Settles O59: a guest's presence changes with its counters and with the list alone, and the call's record and list
change together. -/
theorem presenceStaysCounted : Obligations.PresenceStaysCounted := by
  intro s t hs hw hrange
  obtain ⟨counters, call, missing⟩ := (keepsPresence_leads s).step ⟨hw, hrange, .refl s⟩ hs
  exact ⟨counters, call, missing⟩

end Sys2Proof.Machine
end

section
/-! PROOFS. GangwayReadsAreDecided: the gates, the OUT rules with the escort condition, the IN rules, and what a decision
applies (07 R134 to R139, R144, R145). -/

namespace Sys2Proof.Machine

variable {s : State} {card gen slot : Nat} {c : Cardholder} {dir : Direction}

/-! ## The gates (07 R134) -/

theorem State.decideRead_atSea (h : s.call.state = .atSea) : s.decideRead card gen dir = .plain .stop .gangwayClosed :=
  if_pos h

theorem State.decideRead_unknown (h : s.call.state ≠ .atSea) (hf : s.findCard card = none) :
    s.decideRead card gen dir = .plain .refer .unknown := by
  rw [State.decideRead, if_neg h, hf]

section Found

variable (h : s.call.state ≠ .atSea) (hf : s.findCard card = some (slot, c))

include h hf

theorem State.decideRead_otherGen (hg : c.gen ≠ gen) : s.decideRead card gen dir = .plain .refer .unknown := by
  rw [State.decideRead, if_neg h, hf]
  exact if_pos hg

variable (hg : c.gen = gen)

include hg

theorem State.decideRead_staff (hk : c.kind = .staff) : s.decideRead card gen dir = .plain .refer .crew := by
  rw [State.decideRead, if_neg h, hf]
  exact (if_neg (not_not_intro hg)).trans (if_pos hk)

variable (hk : c.kind ≠ .staff)

include hk

theorem State.decideRead_suspended (hs : c.state = .suspended) :
    s.decideRead card gen dir = .plain .refer .purser := by
  rw [State.decideRead, if_neg h, hf]
  exact (if_neg (not_not_intro hg)).trans ((if_neg hk).trans (if_pos hs))

variable (hs : c.state ≠ .suspended)

include hs

theorem State.decideRead_outward : s.decideRead card gen .outward = s.decideOut slot c := by
  rw [State.decideRead, if_neg h, hf]
  exact (if_neg (not_not_intro hg)).trans ((if_neg hk).trans (if_neg hs))

theorem State.decideRead_inward : s.decideRead card gen .inward = s.decideIn slot c := by
  rw [State.decideRead, if_neg h, hf]
  exact (if_neg (not_not_intro hg)).trans ((if_neg hk).trans (if_neg hs))

end Found

/-! ## The OUT rules (07 R135, R137) -/

theorem State.decideOut_notAboard (hp : c.presence ≠ some .aboard) :
    s.decideOut slot c = { verdict := .refer, cause := .notAboard, effect := .conflict slot } :=
  if_pos hp

section Aboard

variable (hp : c.presence = some .aboard)

include hp

theorem State.decideOut_allAboard (h : s.call.state = .allAboard) : s.decideOut slot c = .plain .stop .allAboard := by
  rw [State.decideOut, if_neg (not_not_intro hp), if_pos h]

variable (h : s.call.state = .alongside)

include h

theorem State.decideOut_alone (hk : c.kind = .minor) (he : s.escorted c = false) :
    s.decideOut slot c = .plain .refer .escort := by
  rw [State.decideOut, if_neg (not_not_intro hp), if_neg (by rw [h]; nofun), if_pos ⟨hk, he⟩]

variable (he : c.kind = .minor → s.escorted c = true)

include he

theorem State.decideOut_escorted : s.decideOut slot c =
    if s.call.kind = some .final ∧ s.unsettled c = true then .plain .refer .purser
    else
      { verdict := .pass, cause := passCause (s.outPresence c), effect := .leaves slot (s.outPresence c) } := by
  have alone : ¬ (c.kind = .minor ∧ s.escorted c = false) := fun ⟨hk, hn⟩ => by rw [he hk] at hn; cases hn
  rw [State.decideOut, if_neg (not_not_intro hp), if_neg (by rw [h]; nofun), if_neg alone]

theorem State.decideOut_unsettled (hk : s.call.kind = some .final) (hu : s.unsettled c = true) :
    s.decideOut slot c = .plain .refer .purser := by
  rw [State.decideOut_escorted hp h he, if_pos ⟨hk, hu⟩]

theorem State.decideOut_passes {goal : Presence} (hu : ¬ (s.call.kind = some .final ∧ s.unsettled c = true))
    (hg : s.outPresence c = goal) :
    s.decideOut slot c = { verdict := .pass, cause := passCause goal, effect := .leaves slot goal } := by
  rw [State.decideOut_escorted hp h he, if_neg hu, hg]

end Aboard

/-- An ACTIVE guest with an account is unsettled while that account is not SETTLED (07 R135, step 4). -/
theorem State.unsettled_iff {aslot : Nat} {a : Account} (hs : c.state = .active)
    (ha : s.accountOf c = some (aslot, a)) : s.unsettled c = true ↔ a.state ≠ .settled := by
  simp only [State.unsettled, hs, ha, beq_self_eq_true, Bool.true_and, bne_iff_ne]

theorem State.not_unsettled_of_closed (hs : c.state = .closed) : s.unsettled c ≠ true := by
  simp [State.unsettled, hs]

/-- The escort condition (07 R136): the account releases its minors, or an adult of the account went out within the
window. -/
theorem State.escorted_iff {ref : AccountRef} (hr : c.account = some ref) : s.escorted c = true ↔
    (∃ aslot a, s.accountOf c = some (aslot, a) ∧ a.minorRelease = true) ∨
      ∃ i d r t, (i, d) ∈ s.roster ∧ d.kind = .adult ∧ d.account = some r ∧ r.serial = ref.serial ∧
        d.lastTransit = some t ∧ t.dir = .outward ∧ s.shipTime - t.time ≤ s.options.escortWindow := by
  have escorts : ∀ d : Cardholder, s.escorts ref.serial d = true ↔ ∃ r t, d.kind = .adult ∧ d.account = some r ∧
      r.serial = ref.serial ∧ d.lastTransit = some t ∧ t.dir = .outward ∧
        s.shipTime - t.time ≤ s.options.escortWindow := by
    intro d
    cases ha : d.account <;> cases ht : d.lastTransit <;> simp [State.escorts, ha, ht, and_assoc]
  rw [State.escorted, Bool.or_eq_true, hr]
  refine or_congr ?_ ?_
  · cases s.accountOf c with
    | none => simp
    | some x =>
      obtain ⟨aslot, a⟩ := x
      simp
  · simp only [List.any_eq_true, escorts, Prod.exists, exists_and_left]

/-! ## The IN rules (07 R138, R139) -/

theorem State.decideIn_closed (hs : c.state = .closed) : s.decideIn slot c = .plain .refer .purser := if_pos hs

section Active

variable (hs : c.state = .active)

include hs

theorem State.decideIn_aboard (hp : c.presence = some .aboard) :
    s.decideIn slot c = { verdict := .refer, cause := .alreadyAboard, effect := .conflict slot } := by
  rw [State.decideIn, if_neg (by rw [hs]; nofun), hp]

theorem State.decideIn_disembarked (hp : c.presence = some .disembarked) :
    s.decideIn slot c = .plain .refer .purser := by
  rw [State.decideIn, if_neg (by rw [hs]; nofun), hp]

theorem State.decideIn_away {former : Presence} (hp : c.presence = some former)
    (hf : former = .ashore ∨ former = .notBoarded) : s.decideIn slot c =
      if s.call.kind = some .final then .plain .refer .purser
      else { verdict := .pass, cause := .aboard, effect := .boards slot former } := by
  rw [State.decideIn, if_neg (by rw [hs]; nofun), hp]
  rcases hf with rfl | rfl <;> rfl

end Active

/-! ## The last guest of the missing list (07 R144, R145) -/

theorem State.leaveMissing_returned (h : slot ∈ s.missing) (hl : s.missing.filter (fun x => x != slot) = [])
    (hc : s.call.closeHeld = false) : s.leaveMissing slot =
      ({ s with missing := [] } : State).raise purserAndWatch .allReturned none (some 0) := by
  rw [State.leaveMissing_last h hl]
  rcases State.allReturned_cases { s with missing := [] } with ⟨-, e⟩ | ⟨held, -⟩
  · exact e
  · exact absurd (hc.symm.trans held) nofun

theorem State.leaveMissing_released (h : slot ∈ s.missing) (hl : s.missing.filter (fun x => x != slot) = [])
    (hc : s.call.closeHeld = true) : s.leaveMissing slot =
      (({ s with missing := [] } : State).raise purserAndWatch .allReturned none (some 0)).closeCall 0 := by
  rw [State.leaveMissing_last h hl]
  rcases State.allReturned_cases { s with missing := [] } with ⟨clear, -⟩ | ⟨-, e⟩
  · exact absurd (hc.symm.trans clear) nofun
  · exact e

/-- Settles O47: the gates, then the OUT and the IN rules in order; each effect is its operation, and the missing list
ends with its last guest. -/
theorem gangwayReadsAreDecided : Obligations.GangwayReadsAreDecided := by
  refine ⟨fun s card gen dir h => State.decideRead_atSea h,
    fun s card gen dir h => ⟨State.decideRead_unknown h, fun slot c hf =>
      ⟨State.decideRead_otherGen h hf, State.decideRead_staff h hf, State.decideRead_suspended h hf,
        fun hg hk hs => ?_⟩⟩,
    fun s c ref hr => State.escorted_iff hr,
    fun s l slot => ⟨rfl, rfl, fun goal => rfl, fun former => rfl⟩,
    fun s slot => ⟨State.leaveMissing_absent, State.leaveMissing_left,
      fun h hl => ⟨State.leaveMissing_returned h hl, State.leaveMissing_released h hl⟩⟩⟩
  rw [State.decideRead_outward h hf hg hk hs, State.decideRead_inward h hf hg hk hs]
  refine ⟨State.decideOut_notAboard, fun hp => ⟨State.decideOut_allAboard hp, State.decideOut_alone hp,
      fun hcall he => ⟨fun aslot a hfinal hact ha hn => ?_, fun aslot a hfinal hact ha hset => ?_, fun hcl => ?_,
        fun hfinal hact => ?_⟩⟩,
    State.decideIn_closed, State.decideIn_aboard, State.decideIn_disembarked, fun former hact hp hformer => ?_⟩
  · exact State.decideOut_unsettled hp hcall he hfinal ((State.unsettled_iff hact ha).mpr hn)
  · exact State.decideOut_passes hp hcall he (fun ⟨_, hu⟩ => (State.unsettled_iff hact ha).mp hu hset)
      (if_pos (.inr hfinal))
  · exact State.decideOut_passes hp hcall he (fun ⟨_, hu⟩ => State.not_unsettled_of_closed hcl hu) (if_pos (.inl hcl))
  · refine State.decideOut_passes hp hcall he (fun ⟨hk, _⟩ => hfinal hk) (if_neg ?_)
    rintro (hcl | hk)
    · exact absurd (hact.symm.trans hcl) nofun
    · exact hfinal hk
  · rw [State.decideIn_away hact hp hformer]
    exact ⟨fun hfinal => if_pos hfinal, fun hfinal => if_neg hfinal⟩

end Sys2Proof.Machine
end

section
/-! PROOFS. PresenceIsSet and PortCalls: SET PRESENCE, OPEN CALL, CLOSE CALL and the deadlines of a call (07 R141 to
R146). -/

namespace Sys2Proof.Machine

variable {s : State} {p : Port} {tag : Byte}

/-! ## From a command of the Presence Unit to its rule -/

theorem exec_setPresence (h : s.readyAs p .purser) (card : BitVec 32) (presence : Byte) :
    exec (.setPresence p tag card presence) s = (serveSetPresence card presence s).answers p 0x70#8 tag :=
  submit_owned h rfl rfl nofun

theorem exec_openCall (h : s.readyAs p .purser) (kind : Byte) (allAboard : BitVec 32) (mode : Byte)
    (closeTime : BitVec 32) : exec (.openCall p tag kind allAboard mode closeTime) s =
      (serveOpenCall kind allAboard mode closeTime s).answers p 0x71#8 tag :=
  submit_owned h rfl rfl nofun

theorem exec_closeCall (h : s.readyAs p .purser) (force : Byte) :
    exec (.closeCall p tag force) s = (serveCloseCall force s).answers p 0x72#8 tag :=
  submit_owned h rfl rfl nofun

theorem exec_allAboardDeadline (s : State) : exec .allAboardDeadline s = .next s.takeAllAboard := rfl

theorem exec_closeDeadline (s : State) : exec .closeDeadline s = .next s.takeClose := rfl

/-! ## SET PRESENCE (07 R141) -/

theorem Presence.ofCode_none {b : Byte} (h : 3 < b.toNat) : Presence.ofCode b = none := by
  unfold Presence.ofCode
  split
  · omega
  · omega
  · omega
  · omega
  · rfl

theorem State.manualTransit_eq (s : State) (q : Presence) : s.manualTransit q =
    if q = .notBoarded then none
    else some { time := s.shipTime, lane := none, dir := if q = .aboard then .inward else .outward } := by
  cases q <;> rfl

section SetPresence

variable {card : BitVec 32} {value : Byte} {q former : Presence} {slot : Nat} {c : Cardholder}

theorem serveSetPresence_badField (h : 3 < value.toNat) :
    serveSetPresence card value s = (s, Reply.refuse .badField) := by
  rw [serveSetPresence, Presence.ofCode_none h]

variable (hq : Presence.ofCode value = some q)

include hq

theorem serveSetPresence_notFound (hf : s.findCard card.toNat = none) :
    serveSetPresence card value s = (s, Reply.refuse .notFound) := by
  rw [serveSetPresence, hq, hf]

variable (hf : s.findCard card.toNat = some (slot, c))

include hf

theorem serveSetPresence_staff (hn : c.presence = none) :
    serveSetPresence card value s = (s, Reply.refuse .slotState) := by
  simp only [serveSetPresence, hq, hf, hn]

theorem serveSetPresence_sets (hp : c.presence = some former) : serveSetPresence card value s =
    (s.setPresence slot former q,
      Reply.ok (u8 former.code ++ u8 q.code ++ u16 (s.setPresence slot former q).missing.length)) := by
  simp only [serveSetPresence, hq, hf, hp]

end SetPresence

section Moved

variable {former q : Presence}

theorem State.setPresence_same (s : State) (slot : Nat) (q : Presence) : s.setPresence slot q q = s := if_pos rfl

theorem State.setPresence_moves (h : former ≠ q) (slot : Nat) : s.setPresence slot former q =
    (s.movePresence slot former q (s.manualTransit q)).followPresence slot q :=
  if_neg h

theorem State.followPresence_off (h : s.call.state ≠ .allAboard) (slot : Nat) (q : Presence) :
    s.followPresence slot q = s :=
  if_pos h

theorem State.followPresence_ashore (h : s.call.state = .allAboard) (slot : Nat) :
    s.followPresence slot .ashore = s.joinMissing slot :=
  if_neg (not_not_intro h)

theorem State.followPresence_back (h : s.call.state = .allAboard) (slot : Nat) (hq : q ≠ .ashore) :
    s.followPresence slot q = s.leaveMissing slot := by
  cases q with
  | ashore => exact absurd rfl hq
  | aboard | disembarked | notBoarded => exact if_neg (not_not_intro h)

end Moved

/-- Settles O48: the presence byte, the card found and its kind, then the presence it has; out of ALL_ABOARD the guest
moves alone, in it the missing list follows. -/
theorem presenceIsSet : Obligations.PresenceIsSet := by
  refine ⟨fun slot l hl => ⟨insertSlot_pairwise hl, fun x => mem_insertSlot⟩, fun s p tag card value h => ?_⟩
  simp only [exec_setPresence h]
  refine ⟨fun hb => by rw [serveSetPresence_badField hb]; rfl,
    fun q hq => ⟨fun hf => by rw [serveSetPresence_notFound hq hf]; rfl,
      fun slot c hf => ⟨fun hn => by rw [serveSetPresence_staff hq hf hn]; rfl,
        fun hp => by rw [serveSetPresence_sets hq hf hp, State.setPresence_same]; rfl, fun former hp hne => ?_⟩⟩⟩
  rw [serveSetPresence_sets hq hf hp, State.setPresence_moves hne, State.manualTransit_eq]
  refine ⟨fun hc => ?_, fun hc hash => ?_, fun hc hash => ?_⟩
  · rw [State.followPresence_off (s := s.movePresence slot former q _) hc]
    rfl
  · subst hash
    rw [State.followPresence_ashore (s := s.movePresence slot former .ashore _) hc]
    rfl
  · rw [State.followPresence_back (s := s.movePresence slot former q _) hc slot hash]
    rfl

/-! ## OPEN CALL (07 R142) -/

theorem CallKind.ofCode_none {b : Byte} (h : b.toNat = 0 ∨ 3 < b.toNat) : CallKind.ofCode b = none := by
  unfold CallKind.ofCode
  split
  · omega
  · omega
  · omega
  · rfl

/-- The two kinds of call that have an all-aboard time (07 R142). -/
theorem CallKind.ofCode_timed {b : Byte} (h : b = 0x01#8 ∨ b = 0x02#8) :
    CallKind.ofCode b = some (if b = 0x01#8 then .embark else .port) := by
  rcases h with rfl | rfl <;> rfl

theorem CloseMode.ofCode_none {b : Byte} (h : 1 < b.toNat) : CloseMode.ofCode b = none := by
  unfold CloseMode.ofCode
  split
  · omega
  · omega
  · rfl

theorem CloseMode.ofCode_of_le {b : Byte} (h : b.toNat ≤ 1) :
    CloseMode.ofCode b = some (if b = 0x01#8 then .timed else .manual) := by
  revert b
  decide

section OpenCall

variable {kind mode : Byte} {allAboard closeTime : BitVec 32} {time close now : Nat}

theorem openedCall_badKind (h : CallKind.ofCode kind = none) : openedCall kind time mode close now = none := by
  rw [openedCall, h]

theorem openedCall_final (h : kind = 0x03#8) : openedCall kind time mode close now = some finalCall := by
  subst h
  rfl

variable (hk : kind = 0x01#8 ∨ kind = 0x02#8)

include hk

theorem openedCall_badMode (hm : 1 < mode.toNat) : openedCall kind time mode close now = none := by
  rw [openedCall, CloseMode.ofCode_none hm]
  rcases hk with rfl | rfl <;> rfl

theorem openedCall_timed (hm : mode.toNat ≤ 1) : openedCall kind time mode close now =
    if time ≤ now ∨ (mode = 0x01#8 ∧ close < time) then none
    else
      some { state := .alongside, kind := some (if kind = 0x01#8 then .embark else .port), allAboard := some time,
             closeMode := if mode = 0x01#8 then .timed else .manual,
             closeTime := if mode = 0x01#8 then some close else none, closeHeld := false } := by
  rw [openedCall, CallKind.ofCode_timed hk, CloseMode.ofCode_of_le hm]
  rcases hk with rfl | rfl <;> by_cases hmode : mode = 0x01#8 <;> simp [hmode, timedCall]

theorem openedCall_badField (h : 1 < mode.toNat ∨ time ≤ now ∨ (mode = 0x01#8 ∧ close < time)) :
    openedCall kind time mode close now = none := by
  by_cases hm : mode.toNat ≤ 1
  · rw [openedCall_timed hk hm, if_pos (h.resolve_left (Nat.not_lt.mpr hm))]
  · exact openedCall_badMode hk (Nat.lt_of_not_le hm)

theorem openedCall_opens (hm : mode.toNat ≤ 1) (ht : now < time) (hc : mode = 0x01#8 → time ≤ close) :
    openedCall kind time mode close now = some
      { state := .alongside, kind := some (if kind = 0x01#8 then .embark else .port), allAboard := some time,
        closeMode := if mode = 0x01#8 then .timed else .manual,
        closeTime := if mode = 0x01#8 then some close else none, closeHeld := false } := by
  rw [openedCall_timed hk hm, if_neg]
  rintro (hnow | ⟨hmode, hclose⟩)
  · exact Nat.not_le.mpr ht hnow
  · exact Nat.not_lt.mpr (hc hmode) hclose

end OpenCall

section ServeOpenCall

variable {kind mode : Byte} {allAboard closeTime : BitVec 32}

theorem serveOpenCall_callState (h : s.call.state ≠ .atSea) :
    serveOpenCall kind allAboard mode closeTime s = (s, Reply.refuse .callState) :=
  if_pos h

variable (h : s.call.state = .atSea)

include h

theorem serveOpenCall_badField (ho : openedCall kind allAboard.toNat mode closeTime.toNat s.shipTime = none) :
    serveOpenCall kind allAboard mode closeTime s = (s, Reply.refuse .badField) := by
  rw [serveOpenCall, if_neg (not_not_intro h), ho]

theorem serveOpenCall_opens {record : CallRecord}
    (ho : openedCall kind allAboard.toNat mode closeTime.toNat s.shipTime = some record) :
    serveOpenCall kind allAboard mode closeTime s = ({ s with call := record }, Reply.ok record.bytes) := by
  rw [serveOpenCall, if_neg (not_not_intro h), ho]

end ServeOpenCall

/-! ## CLOSE CALL (07 R146) -/

section CloseCall

variable {force : Byte}

theorem State.leftBehind_alongside (h : s.call.state = .alongside) : s.leftBehind = s.counters.ashore := by
  rw [State.leftBehind, h]

theorem State.leftBehind_allAboard (h : s.call.state = .allAboard) : s.leftBehind = s.missing.length := by
  rw [State.leftBehind, h]

theorem State.closeRefused_iff (s : State) (f : Bool) : s.closeRefused f = true ↔
    f = false ∧ s.leftBehind ≠ 0 ∧ ¬ (s.call.state = .alongside ∧ s.call.kind = some .final) := by
  cases f <;> simp [State.closeRefused, imp_iff_not_or]

theorem serveCloseCall_badField (hb : 1 < force.toNat) : serveCloseCall force s = (s, Reply.refuse .badField) := by
  rw [serveCloseCall, flagOf_of_gt hb]

variable (hb : force.toNat ≤ 1)

include hb

theorem serveCloseCall_callState (h : s.call.state = .atSea) :
    serveCloseCall force s = (s, Reply.refuse .callState) := by
  rw [serveCloseCall, flagOf_of_le hb]
  exact if_pos h

variable (h : s.call.state ≠ .atSea)

include h

theorem serveCloseCall_refused (hf : force = 0x00#8) (hn : s.leftBehind ≠ 0)
    (hk : ¬ (s.call.state = .alongside ∧ s.call.kind = some .final)) :
    serveCloseCall force s = (s, Reply.of .missing (u16 s.leftBehind)) := by
  have refused : s.closeRefused (decide (force = 0x01#8)) = true :=
    (s.closeRefused_iff _).mpr ⟨by rw [hf]; rfl, hn, hk⟩
  rw [serveCloseCall, flagOf_of_le hb]
  exact (if_neg h).trans (if_pos refused)

theorem serveCloseCall_closes
    (hc : force = 0x01#8 ∨ s.leftBehind = 0 ∨ (s.call.state = .alongside ∧ s.call.kind = some .final)) :
    serveCloseCall force s = (s.closeCall s.leftBehind, Reply.ok (u16 s.leftBehind)) := by
  have closes : ¬ s.closeRefused (decide (force = 0x01#8)) = true := by
    rw [State.closeRefused_iff, decide_eq_false_iff_not]
    tauto
  rw [serveCloseCall, flagOf_of_le hb]
  exact (if_neg h).trans (if_neg closes)

end CloseCall

/-! ## The deadlines (07 R143, R145) -/

theorem State.takeAllAboard_due (h : s.allAboardDue = true) : s.takeAllAboard =
    ({ s with call := { s.call with state := .allAboard }, missing := s.ashoreSlots } : State).raise purserAndWatch
      .allAboard none (some (s.ashoreSlots.length : Int)) :=
  if_pos h

theorem State.takeAllAboard_notDue (h : ¬ s.allAboardDue = true) : s.takeAllAboard = s := if_neg h

theorem State.not_allAboardDue (h : s.call.state ≠ .alongside ∨ s.call.allAboard = none ∨
    ∃ t, s.call.allAboard = some t ∧ s.shipTime < t) : ¬ s.allAboardDue = true := by
  intro hdue
  obtain ⟨hs, t, ha, ht⟩ := State.allAboardDue_iff.mp hdue
  simp only [hs, ha, Option.some.injEq, exists_eq_left', ne_eq, not_true, reduceCtorEq, false_or] at h
  exact Nat.not_lt.mpr ht h

theorem State.not_closeDue (h : s.call.state ≠ .allAboard ∨ s.call.closeMode ≠ .timed ∨ s.call.closeHeld = true ∨
    s.call.closeTime = none ∨ ∃ t, s.call.closeTime = some t ∧ s.shipTime < t) : ¬ s.closeDue = true := by
  intro hdue
  obtain ⟨⟨hs, hm, hh⟩, t, hc, ht⟩ := State.closeDue_iff.mp hdue
  simp only [hs, hm, hh, hc, Option.some.injEq, exists_eq_left', ne_eq, not_true, reduceCtorEq, false_or] at h
  exact Nat.not_lt.mpr ht h

theorem State.takeClose_closes (h : s.closeDue = true) (hm : s.missing = []) : s.takeClose = s.closeCall 0 := by
  rw [State.takeClose, if_pos h, if_pos hm]

theorem State.takeClose_holds (h : s.closeDue = true) (hm : s.missing ≠ []) : s.takeClose =
    ({ s with call := { s.call with closeHeld := true } } : State).raise purserAndWatch .closeHeld none
      (some (s.missing.length : Int)) := by
  rw [State.takeClose, if_pos h, if_neg hm]

theorem State.takeClose_notDue (h : ¬ s.closeDue = true) : s.takeClose = s := if_neg h

/-- Settles O49: the checks of OPEN CALL and of CLOSE CALL in order, and each deadline due and not. -/
theorem portCalls : Obligations.PortCalls := by
  refine ⟨fun s p tag kind allAboard mode closeTime h => ?_, fun s p tag force h => ?_, fun s => ?_, fun s => ?_⟩
  · simp only [exec_openCall h]
    refine ⟨fun hs => by rw [serveOpenCall_callState hs]; rfl, fun hs => ⟨fun hk => ?_, fun hk record hr => ?_,
      fun hk => ⟨fun hbad => ?_, fun hm ht hc record hr => ?_⟩⟩⟩
    · rw [serveOpenCall_badField hs (openedCall_badKind (CallKind.ofCode_none hk))]
      rfl
    · rw [serveOpenCall_opens hs (openedCall_final hk), hr]
      rfl
    · rw [serveOpenCall_badField hs (openedCall_badField hk hbad)]
      rfl
    · rw [serveOpenCall_opens hs (openedCall_opens hk hm ht hc), hr]
      rfl
  · simp only [exec_closeCall h]
    refine ⟨fun hb => by rw [serveCloseCall_badField hb]; rfl, fun hb =>
      ⟨fun hs => by rw [serveCloseCall_callState hb hs]; rfl, fun hs => ?_, fun hs => ?_⟩⟩
    · have calling : s.call.state ≠ .atSea := by rw [hs]; nofun
      have left := State.leftBehind_alongside hs
      rw [← left]
      refine ⟨fun hc => ?_, fun hk hn hf => ?_⟩
      · rw [serveCloseCall_closes hb calling (by tauto)]
        rfl
      · rw [serveCloseCall_refused hb calling hf hn fun ⟨_, hfinal⟩ => hk hfinal]
        rfl
    · have calling : s.call.state ≠ .atSea := by rw [hs]; nofun
      have left := State.leftBehind_allAboard hs
      rw [← List.length_eq_zero_iff, ne_eq, ← List.length_eq_zero_iff, ← left]
      refine ⟨fun hc => ?_, fun hn hf => ?_⟩
      · rw [serveCloseCall_closes hb calling (by tauto)]
        rfl
      · rw [serveCloseCall_refused hb calling hf hn fun ⟨halong, _⟩ => absurd (hs.symm.trans halong) nofun]
        rfl
  · rw [exec_allAboardDeadline]
    refine ⟨fun t hs ha ht list hl => ?_, fun hn => by rw [State.takeAllAboard_notDue (State.not_allAboardDue hn)]⟩
    rw [State.takeAllAboard_due (State.allAboardDue_iff.mpr ⟨hs, t, ha, ht⟩), hl]
    rfl
  · rw [exec_closeDeadline]
    refine ⟨fun t hs hm hh hc ht => ?_, fun hn => by rw [State.takeClose_notDue (State.not_closeDue hn)]⟩
    have due : s.closeDue = true := State.closeDue_iff.mpr ⟨⟨hs, hm, hh⟩, t, hc, ht⟩
    refine ⟨fun hmiss => ?_, fun hmiss => by rw [State.takeClose_holds due hmiss]⟩
    rw [State.takeClose_closes due hmiss, State.closeCall, ← hmiss]
    rfl

end Sys2Proof.Machine
end

section
/-! PROOFS. DeviceReads: what NO-OP, READ PORT STATUS, READ SETTINGS and READ TIME answer (08 R157; 09 R173; 10 R179). -/

namespace Sys2Proof.Machine

variable {s : State} {p : Port} {tag : Byte}

/-! ## From a command to its rule -/

theorem exec_noOp (h : s.ready p) :
    exec (.noOp p tag) s = Served.answers (s, Reply.ok []) p 0x01#8 tag :=
  submit_shared h rfl rfl nofun

theorem exec_readPortStatus (h : s.ready p) :
    exec (.readPortStatus p tag) s = (serveReadPortStatus p s).answers p 0x02#8 tag :=
  submit_shared h rfl rfl nofun

theorem exec_readTime (h : s.ready p) : exec (.readTime p tag) s = (serveReadTime s).answers p 0x0B#8 tag :=
  submit_shared h rfl rfl nofun

theorem exec_readSettings (h : s.ready p) :
    exec (.readSettings p tag) s = (serveReadSettings s).answers p 0x0D#8 tag :=
  submit_shared h rfl rfl nofun

/-! ## READ PORT STATUS (09 R173) -/

theorem flag_eq (b : Bool) : flag b = [if b then 0x01#8 else 0x00#8] := by
  cases b <;> rfl

/-- On a port where no request waits, the count of waiting requests reads 0. -/
theorem serveReadPortStatus_ready (h : s.ready p) : serveReadPortStatus p s =
    (s, Reply.ok (u8 p.index ++ u8 (s.ports.get p).profile.code ++ u8 s.ports.a0.profile.code ++
      u8 s.ports.a1.profile.code ++ u8 s.ports.a2.profile.code ++ u8 s.ports.a3.profile.code ++ [0x00#8] ++
      u8 (s.ports.get p).queue.length ++ u32 (s.ports.get p).mask.toNat ++ flag (s.ports.get p).lost ++
      optional Window.bytes (s.ports.get p).window)) := by
  obtain ⟨-, empty⟩ := h
  simp only [serveReadPortStatus, empty]
  rfl

/-- Settles O18: each request meets its rule; only READ TIME's rule leaves another state. -/
theorem deviceReads : Obligations.DeviceReads := by
  refine ⟨fun review folio serial number slot n cursor count gone start ending at' => ⟨?_, rfl, rfl, rfl⟩,
    fun s p tag h => ⟨exec_noOp h, ?_, exec_readSettings h, exec_readTime h⟩⟩
  · rw [Window.bytes, flag_eq]
    rfl
  · rw [exec_readPortStatus h, serveReadPortStatus_ready h, Served.answers_mk]

end Sys2Proof.Machine
end

section
/-! PROOFS. ShipTimeAdvances: the rollovers an advance reaches, ticks, the loss of the tick line, freewheel seconds and
SET TIME (08 R151 to R160). -/

namespace Sys2Proof.Machine

variable {s : State} {p : Port} {tag : Byte}

/-! ## Rollovers (08 R159, R160) -/

/-- The next rollover is the one instant of its day, after the present and at most a day off, or the first of all. -/
theorem nextRolloverAfter_spec (t : Nat) {hour : Nat} (h : hour ≤ 23) :
    t < nextRolloverAfter t hour ∧ nextRolloverAfter t hour ≤ max (t + 86400) (hour * 3600) ∧
      nextRolloverAfter t hour % 86400 = hour * 3600 := by
  simp only [nextRolloverAfter, Config.daySeconds]
  split
  · omega
  · omega

theorem State.advanceTo_of_lt {time : Nat} (h : time < s.nextRollover) :
    s.advanceTo time = { s with shipTime := time } :=
  if_pos (rolloversBy_eq_zero.mpr h)

/-- A time in the day that begins `n` days after the next rollover reaches `n + 1` rollovers. -/
theorem rolloversBy_days {time next n : Nat} (low : next + n * 86400 ≤ time) (high : time < next + (n + 1) * 86400) :
    rolloversBy time next = n + 1 := by
  simp only [rolloversBy, Config.daySeconds]
  rw [if_neg (by omega)]
  omega

/-- An advance that reaches a rollover moves ship time, then makes the rollovers. -/
theorem State.advanceTo_of_rollovers {time n : Nat} (h : rolloversBy time s.nextRollover = n + 1) :
    s.advanceTo time = ({ s with shipTime := time } : State).rollover (n + 1) := by
  rw [State.advanceTo, h]
  exact if_neg (Nat.succ_ne_zero n)

/-! ## An advance and the clock's own fields (08 R151) -/

theorem State.advanceTo_shipTime (s : State) (time : Nat) : (s.advanceTo time).shipTime = time := by
  unfold State.advanceTo
  split <;> rfl

theorem State.advance_clock (s : State) : s.advance.clock = s.clock := by
  obtain ⟨_, _, _, _, _, _, e⟩ := State.advance_frame s
  rw [e]

/-- Ship time advances by the same rollovers and notices whatever the timer reads. -/
theorem State.advanceTo_reach (s : State) (instant time : Nat) :
    (s.reach instant).advanceTo time = { s.advanceTo time with timer := max s.timer instant } := by
  unfold State.advanceTo
  rw [State.reach_nextRollover]
  split <;> rfl

theorem State.advance_reach (s : State) (instant : Nat) :
    (s.reach instant).advance = { s.advance with timer := max s.timer instant } := by
  unfold State.advance
  rw [State.reach_shipTime]
  split
  · exact s.advanceTo_reach instant _
  · rfl

/-! ## Ticks and freewheel (08 R153 to R156) -/

theorem exec_tick (s : State) : exec .tick s = .next s.takeTick := rfl

theorem exec_tickLoss (s : State) : exec .tickLoss s = .next s.loseTick := rfl

theorem exec_freewheelSecond (s : State) : exec .freewheelSecond s = .next s.takeSecond := rfl

theorem State.takeTick_ticked (h : s.clock = .ticked) :
    s.takeTick = { s.advance with tickSeen := true, lastTick := s.timer } := by
  have clock : s.advance.clock = .ticked := s.advance_clock.trans h
  simp only [State.takeTick, h]
  rw [← clock]

theorem State.takeTick_freewheel {next : Nat} (h : s.clock = .freewheel next) : s.takeTick =
    ({ s.advance with tickSeen := true, lastTick := s.timer, clock := .ticked } : State).raise purserAndWatch
      .clockRestored none none := by
  simp only [State.takeTick, h]

theorem State.loseTick_freewheel {next : Nat} (h : s.clock = .freewheel next) : s.loseTick = s := by
  simp only [State.loseTick, h]

theorem State.loseTick_ticked (h : s.clock = .ticked) : s.loseTick =
    ({ s.advance with
      timer := max s.timer (s.lastTick + 1500)
      clock := .freewheel (max s.timer (s.lastTick + 1500) + 1000) } : State).raise purserAndWatch .clockFreewheel
      none none := by
  simp only [State.loseTick, h, State.advance_reach]
  rfl

theorem State.takeSecond_ticked (h : s.clock = .ticked) : s.takeSecond = s := by
  simp only [State.takeSecond, h]

theorem State.takeSecond_freewheel {next : Nat} (h : s.clock = .freewheel next) :
    s.takeSecond = { s.advance with clock := .freewheel (next + 1000), timer := max s.timer next } := by
  simp only [State.takeSecond, h, State.advance_reach]

/-! ## SET TIME (08 R158) -/

theorem exec_setTime (h : s.readyAs p .purser) (time : BitVec 32) :
    exec (.setTime p tag time) s = (serveSetTime time s).answers p 0x80#8 tag :=
  submit_owned h rfl rfl nofun

section SetTime

variable {time : BitVec 32}

theorem serveSetTime_past (h : time.toNat < s.shipTime) : serveSetTime time s = (s, Reply.refuse .timeBackward) :=
  if_pos h

theorem serveSetTime_present (h : time.toNat = s.shipTime) :
    serveSetTime time s = (s, Reply.ok (u32 s.shipTime ++ u32 s.shipDay)) := by
  rw [serveSetTime, if_neg (Nat.not_lt.mpr h.ge), if_pos h]

theorem serveSetTime_future (h : s.shipTime < time.toNat) : serveSetTime time s =
    (s.advanceTo time.toNat, Reply.ok (u32 time.toNat ++ u32 (s.advanceTo time.toNat).shipDay)) := by
  rw [serveSetTime, if_neg h.not_gt, if_neg h.ne', State.advanceTo_shipTime]

end SetTime

/-- Settles O50: the instant of the next rollover, an advance with the rollovers it reaches, each event in each clock
state, and SET TIME before, at and after the present. -/
theorem shipTimeAdvances : Obligations.ShipTimeAdvances := by
  refine ⟨fun t hour h => nextRolloverAfter_spec t h, fun s time h => State.advanceTo_of_lt h,
    fun s time n low high => State.advanceTo_of_rollovers (rolloversBy_days low high), fun s => ?_,
    fun s p tag time h => ?_⟩
  · intro a
    rw [exec_tick, exec_tickLoss, exec_freewheelSecond]
    refine ⟨fun h => ?_, fun next h => ?_, fun h => ?_⟩
    · rw [State.takeTick_ticked h, State.takeSecond_ticked h]
      exact ⟨rfl, rfl⟩
    · rw [State.takeTick_freewheel h, State.takeSecond_freewheel h, State.loseTick_freewheel h]
      exact ⟨rfl, rfl, rfl⟩
    · rw [State.loseTick_ticked h]
      rfl
  · rw [exec_setTime h]
    refine ⟨fun past => ?_, fun present => ?_, fun future => ?_⟩
    · rw [serveSetTime_past past, Served.answers_mk]
    · rw [serveSetTime_present present, Served.answers_mk]
    · rw [serveSetTime_future future, Served.answers_mk]

end Sys2Proof.Machine
end

section
/-! PROOFS. SettingsAreWritten: SET OPTIONS and the two parts of SET TARIFF (08 R161; 10 R178, R179; 11 R192). -/

namespace Sys2Proof.Machine

variable {s : State} {p : Port} {tag : Byte}

/-! ## From a command to its rule -/

theorem exec_setOptions (h : s.readyAs p .purser) (f : OptionFields) :
    exec (.setOptions p tag f) s = (serveSetOptions f s).answers p 0x82#8 tag :=
  submit_owned h rfl rfl nofun

theorem exec_setTariffPart1 (h : s.readyAs p .purser) (part : TariffPart1) :
    exec (.setTariffPart1 p tag part) s = (serveSetTariff1 part s).answers p 0x81#8 tag :=
  submit_owned h rfl rfl nofun

theorem exec_setTariffPart2 (h : s.readyAs p .purser) (rows : List (BitVec 16)) :
    exec (.setTariffPart2 p tag rows) s = (serveSetTariff2 rows s).answers p 0x81#8 tag :=
  submit_owned h rfl rfl nofun

/-! ## SET OPTIONS (10 R178) -/

theorem bring_eq_max_min {low high : Nat} (h : low ≤ high) (x : Nat) : bring low high x = max low (min high x) := by
  unfold bring
  repeat' split
  all_goals omega

theorem bring_zero (high x : Nat) : bring 0 high x = min high x := by
  rw [bring_eq_max_min (Nat.zero_le high), Nat.zero_max]

theorem bring_eq_self_iff {low high : Nat} (h : low ≤ high) (x : Nat) :
    bring low high x = x ↔ low ≤ x ∧ x ≤ high := by
  rw [bring_eq_max_min h]
  omega

theorem optionsOf_eq (f : OptionFields) : optionsOf f =
    { unlockDeadline := max 2 (min 30 f.unlockDeadline.toNat)
      holdLifetime := max 60 (min 86400 f.holdLifetime.toNat)
      voidWindow := min 3600 f.voidWindow.toNat
      escortWindow := min 900 f.escortWindow.toNat
      threshold := min 15 f.threshold.toNat
      rolloverHour := min 23 f.rolloverHour.toNat } := by
  simp only [optionsOf, bring_zero, bring_eq_max_min (show 2 ≤ 30 by decide),
    bring_eq_max_min (show 60 ≤ 86400 by decide)]

/-- No value is changed just when the options sent are in range. -/
theorem optionsOf_eq_sent_iff (f : OptionFields) : optionsOf f = optionsSent f ↔ (optionsSent f).inRange = true := by
  simp only [Options.inRange_iff, optionsOf, optionsSent, Options.mk.injEq, bring_eq_self_iff (Nat.zero_le _),
    bring_eq_self_iff (show 2 ≤ 30 by decide), bring_eq_self_iff (show 60 ≤ 86400 by decide), Nat.zero_le, true_and,
    and_assoc]

theorem optionsOf_bne_sent (f : OptionFields) : (optionsOf f != optionsSent f) = !(optionsSent f).inRange :=
  congrArg not (Bool.eq_iff_iff.mpr (beq_iff_eq.trans (optionsOf_eq_sent_iff f)))

/-! ## Fields of a tariff outside their range (10 R179; logs 21 and 28) -/

theorem any_rateOver_iff (top : Nat) (l : List (BitVec 16)) :
    l.any (rateOver top) = true ↔ ∃ r ∈ l, top < r.toNat := by
  simp only [List.any_eq_true, rateOver, decide_eq_true_eq]

theorem capOff_iff (top : Nat) (x : BitVec 32) : capOff top x = true ↔ x.toInt < 0 ∨ (top : Int) < x.toInt := by
  simp only [capOff, Bool.or_eq_true, decide_eq_true_eq]

/-- Part 1 answers CLAMPED just when a rate, a row or a cap field lies outside its range. -/
theorem partClamped_iff (part : TariffPart1) : partClamped part = true ↔
    (∃ r ∈ part.rates, 2500 < r.toNat) ∨ (∃ d ∈ part.rows, 10000 < d.toNat) ∨
      (∃ x ∈ [part.adultBase, part.minorBase, part.capFloor, part.capCeiling], x.toInt < 0 ∨ 50000000 < x.toInt) ∨
      part.capStep.toInt < 0 ∨ 1000000 < part.capStep.toInt := by
  simp only [partClamped, Bool.or_eq_true, any_rateOver_iff, capOff_iff, List.mem_cons, List.not_mem_nil, or_false,
    exists_eq_or_imp, exists_eq_left, Config.capMax, Nat.cast_ofNat]
  exact Iff.of_eq (by ac_rfl)

/-! ## SET TARIFF (10 R179; 11 R192) -/

section Part1

variable {part : TariffPart1} (whole : part.wf = true)

include whole

theorem serveSetTariff1_refused (h : (tariffOf part s.tariff).capCeiling < (tariffOf part s.tariff).capFloor) :
    serveSetTariff1 part s = (s, { Reply.refuse .badField with clamped := partClamped part }) := by
  rw [serveSetTariff1, if_neg (ne_false_of_eq_true whole)]
  exact if_pos h

theorem serveSetTariff1_writes (h : (tariffOf part s.tariff).capFloor ≤ (tariffOf part s.tariff).capCeiling) :
    serveSetTariff1 part s = ({ s with pendingTariff := some (tariffOf part s.tariff) },
      { Reply.ok (tariffOf part s.tariff).bytes with clamped := partClamped part }) := by
  rw [serveSetTariff1, if_neg (ne_false_of_eq_true whole)]
  exact if_neg (Nat.not_lt.mpr h)

end Part1

theorem TariffPart1.wf_of_lengths {part : TariffPart1} (rates : part.rates.length = 8) (rows : part.rows.length = 64) :
    part.wf = true := by
  rw [TariffPart1.wf, rates, rows]
  rfl

section Part2

variable {rows : List (BitVec 16)} (whole : rows.length = 64)

include whole

theorem serveSetTariff2_refused (h : s.pendingTariff = none) :
    serveSetTariff2 rows s = (s, Reply.refuse .slotState) := by
  rw [serveSetTariff2, if_neg (not_not_intro whole), h]

theorem serveSetTariff2_writes {t : Tariff} (h : s.pendingTariff = some t) :
    serveSetTariff2 rows s = ({ s with pendingTariff := some (t.withRows rows) },
      { Reply.ok [] with clamped := rows.any (rateOver 10000) }) := by
  rw [serveSetTariff2, if_neg (not_not_intro whole), h]

end Part2

/-- Settles O51: the options brought into range with the rollover recomputed, and each part of a tariff, with CLAMPED
read from the fields as sent. -/
theorem settingsAreWritten : Obligations.SettingsAreWritten := by
  refine ⟨fun s p tag f h o ho => ?_, fun s p tag part clamped h hrates hrows hc => ?_,
    fun s p tag rows clamped h whole hc => ?_⟩
  · obtain rfl := ho.trans (optionsOf_eq f).symm
    rw [exec_setOptions h, serveSetOptions, optionsOf_bne_sent, Served.answers_mk]
    rfl
  · have whole := TariffPart1.wf_of_lengths hrates hrows
    obtain rfl : partClamped part = clamped := Bool.eq_iff_iff.mpr ((partClamped_iff part).trans hc.symm)
    rw [exec_setTariffPart1 h]
    refine ⟨fun crossed => ?_, fun ordered => ?_⟩
    · rw [serveSetTariff1_refused whole crossed, Served.answers_mk]
    · rw [serveSetTariff1_writes whole ordered]
      rfl
  · obtain rfl : rows.any (rateOver 10000) = clamped := Bool.eq_iff_iff.mpr ((any_rateOver_iff _ rows).trans hc.symm)
    rw [exec_setTariffPart2 h]
    refine ⟨fun absent => ?_, fun t pending => ?_⟩
    · rw [serveSetTariff2_refused whole absent, Served.answers_mk]
    · rw [serveSetTariff2_writes whole pending]
      rfl

end Sys2Proof.Machine
end

section
/-! PROOFS. CommandsAreWrites: a request that has a frame is read back from it, and its command is the WRITE of that
frame (09 R165; 11 R186 to R192). -/

namespace Sys2Proof.Machine

/-! ## Bytes written and read back (11 R186) -/

@[simp] theorem leBytes_length (n x : Nat) : (leBytes n x).length = n := by
  induction n generalizing x with
  | zero => rfl
  | succ n ih => rw [leBytes, List.length_cons, ih]

/-- A quantity past the first bytes is read from the bytes after them. -/
theorem fieldAt_append (a b : List Byte) (k n : Nat) : fieldAt (a ++ b) (a.length + k) n = fieldAt b k n := by
  rw [fieldAt, fieldAt, ← List.drop_drop, List.drop_left]

theorem fieldAt_leBytes (n x : Nat) (b : List Byte) : fieldAt (leBytes n x ++ b) 0 n = x % 256 ^ n := by
  rw [fieldAt, List.drop_zero, List.take_left' (leBytes_length n x), leValue_leBytes]

/-- A byte of a run, where the run reaches it, and 0 past its end. -/
theorem field8_eq_getD (bytes : List Byte) (i : Nat) : field8 bytes i = bytes.getD i 0#8 := by
  rw [field8, fieldAt, List.getD_eq_getElem?_getD, ← List.head?_drop]
  cases bytes.drop i with
  | nil => rfl
  | cons b rest => simp [leValue]

section Fields

variable (x : Byte) (y : BitVec 16) (z : BitVec 32) (b : List Byte) (k n : Nat)

@[simp] theorem put8_length : (put8 x).length = 1 := rfl
@[simp] theorem put16_length : (put16 y).length = 2 := rfl
@[simp] theorem put32_length : (put32 z).length = 4 := rfl

@[simp] theorem fieldAt_skip8 : fieldAt (put8 x ++ b) (k + 1) n = fieldAt b k n := by
  rw [Nat.add_comm]; exact fieldAt_append (put8 x) b k n

@[simp] theorem fieldAt_skip16 : fieldAt (put16 y ++ b) (k + 2) n = fieldAt b k n := by
  rw [Nat.add_comm]; exact fieldAt_append (put16 y) b k n

@[simp] theorem fieldAt_skip32 : fieldAt (put32 z ++ b) (k + 4) n = fieldAt b k n := by
  rw [Nat.add_comm]; exact fieldAt_append (put32 z) b k n

@[simp] theorem fieldAt_put8 : fieldAt (put8 x ++ b) 0 1 = x.toNat := rfl

@[simp] theorem fieldAt_put16 : fieldAt (put16 y ++ b) 0 2 = y.toNat := by
  have fits : y.toNat < 256 ^ 2 := y.isLt
  rw [put16, fieldAt_leBytes, Nat.mod_eq_of_lt fits]

@[simp] theorem fieldAt_put32 : fieldAt (put32 z ++ b) 0 4 = z.toNat := by
  have fits : z.toNat < 256 ^ 4 := z.isLt
  rw [put32, fieldAt_leBytes, Nat.mod_eq_of_lt fits]

@[simp] theorem fieldAt_put8_last : fieldAt (put8 x) 0 1 = x.toNat := fieldAt_put8 x []

@[simp] theorem fieldAt_put16_last : fieldAt (put16 y) 0 2 = y.toNat := by
  simpa using fieldAt_put16 y []

@[simp] theorem fieldAt_put32_last : fieldAt (put32 z) 0 4 = z.toNat := by
  simpa using fieldAt_put32 z []

end Fields

/-! ## Lists in a body (11 R189, R192) -/

@[simp] theorem putAll16_length (xs : List (BitVec 16)) : (putAll16 xs).length = 2 * xs.length := by
  induction xs with
  | nil => rfl
  | cons x xs ih =>
    rw [putAll16, List.length_append, ih, put16_length, List.length_cons]
    omega

@[simp] theorem putCards_length (cs : List Presentation) : (putCards cs).length = 5 * cs.length := by
  induction cs with
  | nil => rfl
  | cons c cs ih =>
    rw [putCards, List.length_append, ih, List.length_append, put32_length, put8_length, List.length_cons]
    omega

theorem fields16_append (a b : List Byte) (k n : Nat) : fields16 (a ++ b) (a.length + k) n = fields16 b k n := by
  induction n generalizing k with
  | zero => rfl
  | succ n ih => rw [fields16, fields16, field16, fieldAt_append, Nat.add_assoc, ih, field16]

/-- A list of two-byte quantities is read back from its place in a body. -/
theorem fields16_putAll16 {a : List Byte} {xs : List (BitVec 16)} {k n : Nat} (hk : a.length = k) (hn : xs.length = n)
    (b : List Byte) : fields16 (a ++ (putAll16 xs ++ b)) k n = xs := by
  have here := fields16_append a (putAll16 xs ++ b) 0 n
  rw [Nat.add_zero, hk] at here
  rw [here]
  clear here
  subst hn
  induction xs with
  | nil => rfl
  | cons x xs ih =>
    rw [putAll16, List.append_assoc, List.length_cons, fields16]
    exact congrArg₂ _ (by simp [field16]) ((fields16_append (put16 x) _ 0 _).trans ih)

theorem presentations_append (a b : List Byte) (k n : Nat) :
    presentations (a ++ b) (a.length + k) n = presentations b k n := by
  induction n generalizing k with
  | zero => rfl
  | succ n ih =>
    rw [presentations, presentations, field32, field8, fieldAt_append, Nat.add_assoc, fieldAt_append, Nat.add_assoc, ih,
      field32, field8]

/-- The cards of a CHARGE are read back from their place in its body. -/
theorem presentations_putCards {a : List Byte} {k : Nat} (hk : a.length = k) (cs : List Presentation) :
    presentations (a ++ putCards cs) k cs.length = cs := by
  have here := presentations_append a (putCards cs) 0 cs.length
  rw [Nat.add_zero, hk] at here
  rw [here]
  clear here
  induction cs with
  | nil => rfl
  | cons c cs ih =>
    rw [putCards, List.length_cons, presentations]
    exact congrArg₂ _ (by simp [field32, field8])
      ((presentations_append (put32 c.card ++ put8 c.gen) (putCards cs) 0 _).trans ih)

/-! ## Bodies read back (11 R189, R191, R192) -/

theorem ofLayout_of_length {body : List Byte} {n : Nat} (h : body.length = n) (code : Byte) (req : Request) :
    ofLayout code body n req = req := if_pos h

/-- A code that R189 does not list names no request, whatever its body. -/
theorem decodeRequest_unknown {code : Byte} (h : isRequestCode code.toNat = false) (body : List Byte) :
    decodeRequest code body = .unknown code := by
  unfold decodeRequest
  split
  case h_66 => rfl
  all_goals
    next hc =>
      rw [hc] at h
      cases h

section Charge

variable (outlet : BitVec 16) (cls : Byte) (unit : BitVec 32) (qty : Byte)

theorem charge_body (cards : List Presentation) : (Request.charge outlet cls unit qty cards).body =
    put16 outlet ++ put8 cls ++ put32 unit ++ put8 qty ++ put8 (BitVec.ofNat 8 cards.length) ++ putCards cards := rfl

/-- The count byte of a CHARGE gives its cards (11 R189, R191). -/
theorem decodeCharge_body {cards : List Presentation} (h : cards.length ≤ 4) :
    decodeCharge (Request.charge outlet cls unit qty cards).body = .charge outlet cls unit qty cards := by
  have length : (Request.charge outlet cls unit qty cards).body.length = 9 + 5 * cards.length := by
    simp only [charge_body, List.length_append, put8_length, put16_length, put32_length, putCards_length]
  have count : fieldAt (Request.charge outlet cls unit qty cards).body 8 1 = cards.length := by
    have fits : cards.length < 256 := by omega
    simp [charge_body, fits]
  have listed : (if cards.length = 0 ∨ 4 < cards.length then []
      else presentations (Request.charge outlet cls unit qty cards).body 9 cards.length) = cards := by
    split
    · next none => exact (List.length_eq_zero_iff.mp (none.resolve_right (Nat.not_lt.mpr h))).symm
    · exact presentations_putCards rfl cards
  rw [decodeCharge, if_neg (by omega), count]
  dsimp only
  rw [listed, ofLayout_of_length length, ite_self]
  simp [charge_body, field8, field16, field32]

end Charge

/-- The lists of SET TARIFF part 1, where they are whole, and the fields between them (11 R192). -/
theorem decodeTariff_part1 {part : TariffPart1} (h : part.wf = true) :
    decodeTariff (Request.setTariff1 part).body = .setTariff1 part := by
  obtain ⟨rates, adultBase, minorBase, capStep, capFloor, capCeiling, rows⟩ := part
  simp only [TariffPart1.wf, Bool.and_eq_true, beq_iff_eq] at h
  obtain ⟨hrates, hrows⟩ := h
  have skipRates (b : List Byte) (k n : Nat) : fieldAt (putAll16 rates ++ b) (k + 16) n = fieldAt b k n := by
    have skip := fieldAt_append (putAll16 rates) b k n
    rwa [putAll16_length, hrates, Nat.add_comm] at skip
  have ratesRead (b : List Byte) : fields16 (put8 0x01#8 ++ (putAll16 rates ++ b)) 1 8 = rates :=
    fields16_putAll16 (a := put8 0x01#8) rfl hrates b
  have rowsRead := fields16_putAll16 (a := put8 0x01#8 ++ putAll16 rates ++ put32 adultBase ++ put32 minorBase ++
    put32 capStep ++ put32 capFloor ++ put32 capCeiling) (k := 37) (by simp [hrates]) hrows []
  simp only [List.append_nil, List.append_assoc] at rowsRead
  refine (ofLayout_of_length (by simp [Request.body, hrates, hrows]) _ _).trans ?_
  simp [Request.body, field32, skipRates, ratesRead, rowsRead]

theorem decodeTariff_part2 {rows : List (BitVec 16)} (h : rows.length = 64) :
    decodeTariff (Request.setTariff2 rows).body = .setTariff2 rows := by
  have rowsRead := fields16_putAll16 (a := put8 0x02#8) rfl h []
  rw [List.append_nil] at rowsRead
  exact (ofLayout_of_length (by simp [Request.body, h]) _ _).trans (congrArg _ rowsRead)

/-- Every request that has a frame is read back from its code and body (11 R189, R191, R192). -/
theorem decodeRequest_body {req : Request} (h : req.wf = true) : decodeRequest req.code req.body = req := by
  cases req
  case badFrame => cases h
  case badLength => cases h
  case unknown code => exact decodeRequest_unknown ((Bool.not_eq_true' _).mp h) _
  case charge outlet cls unit qty cards => exact decodeCharge_body _ _ _ _ (of_decide_eq_true h)
  case setTariff1 part => exact decodeTariff_part1 h
  case setTariff2 rows => exact decodeTariff_part2 (beq_iff_eq.mp h)
  all_goals
    refine (ofLayout_of_length rfl _ _).trans ?_
    simp [Request.body, field8, field16, field32]

theorem body_length_le {req : Request} (h : req.wf = true) : req.body.length ≤ 240 := by
  cases req
  case charge outlet cls unit qty cards =>
    have := of_decide_eq_true h
    simp only [charge_body, List.length_append, put8_length, put16_length, put32_length, putCards_length]
    omega
  case setTariff1 part =>
    simp only [Request.wf, TariffPart1.wf, Bool.and_eq_true, beq_iff_eq] at h
    obtain ⟨hrates, hrows⟩ := h
    simp [Request.body, hrates, hrows]
  case setTariff2 rows =>
    have whole : rows.length = 64 := beq_iff_eq.mp h
    simp [Request.body, whole]
  all_goals exact Nat.le_of_ble_eq_true rfl

/-! ## The frame (09 R165; 11 R187) -/

/-- The bytes of a frame that its check covers (11 R187). -/
def covered (code tag : Byte) (body : List Byte) : List Byte :=
  put8 Config.syncByte ++ leBytes 2 (body.length + 2) ++ put8 code ++ put8 tag ++ body

theorem encodeFrame_eq (code tag : Byte) (body : List Byte) :
    encodeFrame code tag body = covered code tag body ++ crcBytes (covered code tag body) := rfl

section Frame

variable (code tag : Byte) (body : List Byte)

@[simp] theorem covered_length : (covered code tag body).length = body.length + 5 := by
  simp [covered]
  omega

@[simp] theorem encodeFrame_length : (encodeFrame code tag body).length = body.length + 7 := by
  rw [encodeFrame_eq, List.length_append, covered_length, crcBytes, leBytes_length]

theorem frameTag_encodeFrame : frameTag (encodeFrame code tag body) = tag := by
  rw [frameTag, field8_eq_getD]
  rfl

theorem goodFrame_encodeFrame (h : body.length ≤ 240) : goodFrame (encodeFrame code tag body) = true := by
  have drop : (encodeFrame code tag body).length - 2 = (covered code tag body).length := by simp
  have size : fieldAt (encodeFrame code tag body) 1 2 = body.length + 2 := by
    have fits : body.length + 2 < 256 ^ 2 := by omega
    have read := fieldAt_append (put8 Config.syncByte)
      (leBytes 2 (body.length + 2) ++ (put8 code ++ put8 tag ++ body ++ crcBytes (covered code tag body))) 0 2
    rw [fieldAt_leBytes, Nat.mod_eq_of_lt fits] at read
    rw [← read, encodeFrame_eq, covered]
    simp only [List.append_assoc]
    rfl
  have sync : fieldAt (encodeFrame code tag body) 0 1 = Config.syncByte.toNat := rfl
  rw [goodFrame, drop, size, sync, encodeFrame_length, encodeFrame_eq, List.drop_left, List.take_left]
  simp [h]

/-- The code and body of a frame are the ones it was made of (11 R187). -/
theorem decodeFrame_encodeFrame (h : body.length ≤ 240) :
    decodeFrame (encodeFrame code tag body) = decodeRequest code body := by
  have rest : (encodeFrame code tag body).drop 5 = body ++ crcBytes (covered code tag body) := rfl
  have code' : field8 (encodeFrame code tag body) 3 = code := by
    rw [field8_eq_getD]
    rfl
  rw [decodeFrame, if_pos (goodFrame_encodeFrame code tag body h), rest, code', encodeFrame_length,
    Nat.add_sub_cancel, List.take_left]

end Frame

/-- A request that has a frame is read back from it, with its tag (11 R187, R189). -/
theorem decodeFrame_frame {req : Request} (h : req.wf = true) (tag : Byte) : decodeFrame (req.frame tag) = req :=
  (decodeFrame_encodeFrame req.code tag req.body (body_length_le h)).trans (decodeRequest_body h)

theorem frameTag_frame (req : Request) (tag : Byte) : frameTag (req.frame tag) = tag :=
  frameTag_encodeFrame req.code tag req.body

/-! ## The command and the WRITE (09 R165) -/

variable {s : State} {p : Port} {tag : Byte}

theorem exec_write (s : State) (p : Port) (bytes : List Byte) :
    exec (.write p bytes) s = .next (s.submit p (frameTag bytes) (decodeFrame bytes)) := rfl

/-- A request command offers its request to the buffer of its port (log 9). -/
theorem exec_of_requestOf {c : Instr} {req : Request} (h : requestOf c = some (p, tag, req)) (s : State) :
    exec c s = .next (s.submit p tag req) := by
  cases c <;> cases h <;> rfl

/-- Settles O7: both offer the same request with the same tag, since a frame is read back as its request. -/
theorem commandsAreWrites : Obligations.CommandsAreWrites := by
  intro c p tag req s hc hw
  rw [exec_of_requestOf hc, exec_write, decodeFrame_frame hw, frameTag_frame]

end Sys2Proof.Machine
end
section
/-! PROOFS. The client ports: frames checked, the request buffer, requests refused, and deliveries (09 R165 to R168,
R171; 11 R187). -/

namespace Sys2Proof.Machine

variable {s : State} {p : Port} {tag : Byte}

/-! ## The turn of a port (09 R166, R167) -/

/-- A change of a port depends on what it makes of the port as it stands. -/
theorem State.modPort_congr {f g : PortState → PortState} (h : f (s.ports.get p) = g (s.ports.get p)) :
    s.modPort p f = s.modPort p g := by
  rw [State.modPort, State.modPort, h]

theorem State.pump_executes {e : BufEntry} {rest : List BufEntry} (hs : (s.ports.get p).slot = none)
    (hb : (s.ports.get p).buffer = e :: rest) :
    s.pump p = (s.modPort p (fun q => { q with buffer := rest })).execute p e := by
  rw [State.pump, hs, hb]

theorem State.pump_idle (hb : (s.ports.get p).buffer = []) : s.pump p = s := by
  rw [State.pump, hb]
  cases (s.ports.get p).slot <;> rfl

/-- An entry that joins at an empty slot brings the oldest entry of the buffer its turn (09 R167). -/
theorem State.submit_executes (hb : (s.ports.get p).buffer.length < Config.bufferPlaces)
    (hs : (s.ports.get p).slot = none) (tag : Byte) (req : Request) :
    ∃ e rest, (s.ports.get p).buffer ++ [{ tag := tag, req := req }] = e :: rest ∧
      s.submit p tag req = (s.modPort p (fun q => { q with buffer := rest })).execute p e := by
  obtain ⟨e, rest, joined⟩ := List.exists_cons_of_ne_nil
    (List.append_ne_nil_of_right_ne_nil (s.ports.get p).buffer (List.cons_ne_nil (⟨tag, req⟩ : BufEntry) []))
  refine ⟨e, rest, joined, ?_⟩
  rw [State.submit, if_pos hb, State.pump_executes (e := e) (rest := rest) (by rwa [State.modPort_get])
    (by rwa [State.modPort_get]), State.modPort_modPort]

/-- The response of an execution carries its entry's code and tag, and the overrun flag as it stood (09 R166, R167). -/
theorem State.execute_response (s : State) (p : Port) (e : BufEntry) :
    ∃ r, ((s.execute p e).ports.get p).slot = some r ∧ r.code = e.req.code ∧ r.tag = e.tag ∧
      r.overrun = (s.ports.get p).overrun := by
  obtain ⟨-, -, -, -, hover, -⟩ := s.effect_follows p e.req p
  exact ⟨_, by rw [State.execute, State.respond, State.modPort_get], rfl, rfl, hover⟩

/-- An execution clears the overrun flag and leaves the port's profile, buffer and delivery (09 R166). -/
theorem State.execute_port (s : State) (p : Port) (e : BufEntry) :
    ((s.execute p e).ports.get p).overrun = false ∧
      ((s.execute p e).ports.get p).buffer = (s.ports.get p).buffer ∧
      ((s.execute p e).ports.get p).profile = (s.ports.get p).profile ∧
      ((s.execute p e).ports.get p).reading = (s.ports.get p).reading := by
  obtain ⟨hprofile, hbuffer, -, hreading, -⟩ := s.effect_follows p e.req p
  rw [State.execute, State.respond, State.modPort_get]
  exact ⟨rfl, hbuffer, hprofile, hreading⟩

/-- The two together: the response takes the overrun flag over, and the entries that wait stay (09 R166, R167). -/
theorem State.execute_turn (s : State) (p : Port) (e : BufEntry) :
    ∃ r, ((s.execute p e).ports.get p).slot = some r ∧ r.overrun = (s.ports.get p).overrun ∧
      ((s.execute p e).ports.get p).overrun = false ∧
      ((s.execute p e).ports.get p).buffer = (s.ports.get p).buffer := by
  obtain ⟨r, hslot, -, -, hr⟩ := s.execute_response p e
  obtain ⟨hover, hbuffer, -⟩ := s.execute_port p e
  exact ⟨r, hslot, hr, hover, hbuffer⟩

/-! ## Deliveries (09 R168, R171) -/

theorem exec_read (s : State) (p : Port) : exec (.read p) s = .next (s.beginRead p) := rfl

theorem exec_deliveryComplete (s : State) (p : Port) : exec (.deliveryComplete p) s = .next (s.completeRead p) := rfl

theorem exec_readAbandoned (s : State) (p : Port) : exec (.readAbandoned p) s = .next (s.abandonRead p) := rfl

theorem PortState.abandon_none {q : PortState} (h : q.reading = none) : q.abandon = q := by
  rw [PortState.abandon, h]

theorem PortState.abandon_some {q : PortState} {d : Delivery} (h : q.reading = some d) :
    q.abandon = { q with reading := none, lost := q.lost || d.carriesLost } := by
  rw [PortState.abandon, h]

/-- An abandoned READ whose delivery carried no flag leaves the flag as it stands (09 R171). -/
theorem State.abandonRead_plain {d : Delivery} (h : (s.ports.get p).reading = some d) (hd : d.carriesLost = false) :
    s.abandonRead p = s.modPort p (fun q => { q with reading := none }) := by
  refine State.modPort_congr ?_
  rw [PortState.abandon_some h, hd, Bool.or_false]

/-- A READ with none in progress chooses its delivery, and a notice takes the notices-lost flag with it (09 R171). -/
theorem State.beginRead_idle (h : (s.ports.get p).reading = none) :
    s.beginRead p = s.modPort p PortState.startRead :=
  State.modPort_congr (by rw [PortState.abandon_none h])

theorem PortState.startRead_response {q : PortState} {r : Response} (h : q.slot = some r) : q.startRead =
    { q with reading := some { payload := .response r, waits := !q.buffer.isEmpty, queued := q.queue.length } } := by
  rw [PortState.startRead, PortState.choose, h]
  rfl

theorem PortState.startRead_notice {q : PortState} {n : Notice} {rest : List Notice} (hs : q.slot = none)
    (hq : q.queue = n :: rest) : q.startRead =
    { q with
      reading := some { payload := .notice n q.lost, waits := false, queued := rest.length }
      lost := false } := by
  rw [PortState.startRead, PortState.choose, hs, hq]
  rfl

theorem PortState.startRead_empty {q : PortState} (hs : q.slot = none) (hq : q.queue = []) : q.startRead =
    { q with reading := some { payload := .empty, waits := false, queued := 0 } } := by
  rw [PortState.startRead, PortState.choose, hs, hq]
  rfl

theorem State.completeRead_none (h : (s.ports.get p).reading = none) : s.completeRead p = s := by
  rw [State.completeRead, h]

section Reading

variable {d : Delivery} (h : (s.ports.get p).reading = some d)

include h

theorem State.completeRead_response {r : Response} (hd : d.payload = .response r) :
    s.completeRead p = (s.modPort p (fun q => { q with reading := none, slot := none })).pump p := by
  rw [State.completeRead, h]
  simp only [hd]

theorem State.completeRead_notice {n : Notice} {lost : Bool} (hd : d.payload = .notice n lost) :
    s.completeRead p = s.modPort p (fun q => { q with reading := none, queue := q.queue.drop 1 }) := by
  rw [State.completeRead, h]
  simp only [hd]

theorem State.completeRead_empty (hd : d.payload = .empty) :
    s.completeRead p = s.modPort p (fun q => { q with reading := none }) := by
  rw [State.completeRead, h]
  simp only [hd]

/-- The delivery of a response frees the slot, and the oldest waiting entry has its turn (09 R167, R168). -/
theorem State.completeRead_executes {r : Response} (hd : d.payload = .response r) {e : BufEntry}
    {rest : List BufEntry} (hb : (s.ports.get p).buffer = e :: rest) :
    s.completeRead p =
      (s.modPort p (fun q => { q with reading := none, slot := none, buffer := rest })).execute p e := by
  rw [State.completeRead_response h hd, State.pump_executes (e := e) (rest := rest) (by rw [State.modPort_get])
    (by rwa [State.modPort_get]), State.modPort_modPort]

end Reading

/-- Settles O11: the choice of a READ, and what each delivery does when it completes or is abandoned. -/
theorem readTransactions : Obligations.ReadTransactions := by
  intro s p
  rw [exec_read, exec_deliveryComplete, exec_readAbandoned]
  refine ⟨fun idle => ?_, fun d hd => ⟨fun r hr => ?_, fun n lost hn => ?_, fun he => ?_⟩⟩
  · rw [State.beginRead_idle idle, State.completeRead_none idle]
    refine ⟨fun r hs => ?_, fun n rest hs hq => ?_, fun hs hq => ?_, rfl, ?_⟩
    · exact congrArg Host.Outcome.next (State.modPort_congr (PortState.startRead_response hs))
    · exact congrArg Host.Outcome.next (State.modPort_congr (PortState.startRead_notice hs hq))
    · exact congrArg Host.Outcome.next (State.modPort_congr (PortState.startRead_empty hs hq))
    · rw [State.abandonRead, State.modPort_self s p _ (PortState.abandon_none idle)]
  · have plain : d.carriesLost = false := by rw [Delivery.carriesLost, hr]
    refine ⟨fun hb => ?_, fun e rest hb => ?_, ?_⟩
    · rw [State.completeRead_response hd hr, State.pump_idle (by rwa [State.modPort_get])]
    · rw [State.completeRead_executes hd hr hb]
    · rw [State.abandonRead_plain hd plain]
  · have carries : d.carriesLost = lost := by rw [Delivery.carriesLost, hn]
    refine ⟨by rw [State.completeRead_notice hd hn], congrArg Host.Outcome.next (State.modPort_congr ?_)⟩
    rw [PortState.abandon_some hd, carries]
  · have plain : d.carriesLost = false := by rw [Delivery.carriesLost, he]
    exact ⟨by rw [State.completeRead_empty hd he], by rw [State.abandonRead_plain hd plain]⟩

/-! ## The request buffer (09 R166) -/

/-- Settles O8: discarded at two entries, waiting behind a response, or the turn of the oldest. -/
theorem requestBufferHoldsTwo : Obligations.RequestBufferHoldsTwo := by
  intro s p bytes
  rw [exec_write]
  refine ⟨fun full => ?_, fun room occupied => ?_, fun room empty => ?_, fun d r e rest hd hr hb => ?_⟩
  · rw [State.submit_full s p _ _ full]
  · obtain ⟨r, hr⟩ := Option.ne_none_iff_exists'.mp occupied
    rw [State.submit_waits s p _ _ room hr]
  · obtain ⟨e, rest, joined, executed⟩ := State.submit_executes room empty (frameTag bytes) (decodeFrame bytes)
    rw [executed, joined]
    have turn := (s.modPort p (fun q => { q with buffer := rest })).execute_turn p e
    rw [State.modPort_get] at turn
    obtain ⟨r, answered⟩ := turn
    exact ⟨_, r, rfl, answered⟩
  · rw [exec_deliveryComplete, State.completeRead_executes hd hr hb]
    have turn := (s.modPort p (fun q => { q with reading := none, slot := none, buffer := rest })).execute_turn p e
    rw [State.modPort_get] at turn
    obtain ⟨r', answered⟩ := turn
    exact ⟨_, r', rfl, answered⟩

/-! ## Refusals (09 R165, R167, R177; 05 R112) -/

theorem submit_refused {req : Request} {why : Result} (h : s.ready p) (ha : s.answer p req = (s, Reply.refuse why))
    (hk : keepsWindow req = false) : s.submit p tag req = s.answered p req.code tag (Reply.refuse why) := by
  rw [State.submit_ready s p tag req h, State.execute, State.effect, ha, hk]
  rfl

theorem submit_refused_keeps {req : Request} {why : Result} (h : s.ready p)
    (ha : s.answer p req = (s, Reply.refuse why)) (hk : keepsWindow req = true) :
    s.submit p tag req = s.respond p req.code tag (Reply.refuse why) := by
  rw [State.submit_ready s p tag req h, State.execute, State.effect, ha, hk]
  rfl

/-- A port of another profile may not issue a request that a profile owns (09 R167). -/
theorem mayIssue_other {profile owner : Profile} {req : Request} (ho : ownerOf req.code.toNat = some owner)
    (hp : profile ≠ owner) : mayIssue profile req = false := by
  rw [mayIssue, ho]
  exact beq_false_of_ne hp

section Owners

variable {code : Nat}

theorem ownerOf_service (least : 0x20 ≤ code) (most : code < 0x30) : ownerOf code = some .service := by
  rw [ownerOf, if_neg (by omega), if_pos most]

theorem ownerOf_access (least : 0x30 ≤ code) (most : code < 0x40) : ownerOf code = some .access := by
  rw [ownerOf, if_neg (by omega), if_neg (by omega), if_pos most]

theorem ownerOf_purser (least : 0x40 ≤ code) : ownerOf code = some .purser := by
  rw [ownerOf, if_neg (by omega), if_neg (by omega), if_neg (by omega)]

end Owners

/-- The requests that leave the window open are the three of windows, on the shared list or last of all (09 R177). -/
theorem code_of_keepsWindow {req : Request} (hw : req.wf = true) (hk : keepsWindow req = true) :
    req.code.toNat < 0x20 ∨ 0x86 ≤ req.code.toNat := by
  cases req
  case badFrame => cases hw
  case badLength => cases hw
  case windowOpen => exact .inl (show 0x0E < 0x20 by decide)
  case windowRead => exact .inl (show 0x0F < 0x20 by decide)
  case windowAct => exact .inr (Nat.le_refl 0x86)
  all_goals cases hk

/-- A request of another profile is refused, and closes the window (09 R167, R177). -/
theorem exec_notPermitted {c : Instr} {req : Request} {owner : Profile} (hc : requestOf c = some (p, tag, req))
    (known : isRequestCode req.code.toNat = true) (hw : req.wf = true) (h : s.ready p)
    (ho : ownerOf req.code.toNat = some owner) (hp : (s.ports.get p).profile ≠ owner) (least : 0x20 ≤ req.code.toNat)
    (most : req.code.toNat < 0x86) :
    exec c s = .next (s.answered p req.code tag (Reply.refuse .notPermitted)) := by
  have closes : keepsWindow req = false := by
    by_contra keeps
    have := code_of_keepsWindow hw (Bool.not_eq_false _ ▸ keeps)
    omega
  have named : ∀ code, req ≠ .unknown code := by
    rintro code rfl
    rw [Request.wf, Bool.not_eq_true'] at hw
    exact absurd known (Bool.eq_false_iff.mp hw)
  have framed : req ≠ .badFrame := by
    rintro rfl
    cases hw
  have answer := State.answer_notPermitted s p req (mayIssue_other ho hp) framed named
  rw [exec_of_requestOf hc, submit_refused h answer closes]

/-- A WINDOW ACT from a port that is not PURSER is refused, and leaves the window open (05 R112). -/
theorem submit_windowAct_notPermitted (h : s.ready p) (hp : (s.ports.get p).profile ≠ .purser) (action : Byte) :
    s.submit p tag (.windowAct action) = s.respond p 0x86#8 tag (Reply.refuse .notPermitted) :=
  submit_refused_keeps h (State.answer_notPermitted s p _ (mayIssue_other rfl hp) nofun nofun) rfl

/-- Settles O10: each refusal answers before the request's own rule. -/
theorem profilesAreKept : Obligations.ProfilesAreKept := by
  refine ⟨fun s p tag code h => ?_, fun s c p tag req hc known hw h => ⟨fun least most hp => ?_,
    fun least most hp => ?_, fun least most hp => ?_⟩, fun s p tag h hp => ⟨?_, ?_⟩⟩
  · rw [exec_of_requestOf rfl, submit_refused h rfl rfl]
    rfl
  · exact exec_notPermitted hc known hw h (ownerOf_service least most) hp least (by omega)
  · exact exec_notPermitted hc known hw h (ownerOf_access least most) hp (by omega) (by omega)
  · exact exec_notPermitted hc known hw h (ownerOf_purser least) hp (by omega) most
  · rw [exec_of_requestOf rfl, submit_windowAct_notPermitted h hp]
  · rw [exec_of_requestOf rfl, submit_windowAct_notPermitted h hp]

/-! ## Transactions (09 R165; 11 R187) -/

/-- A good frame (09 R165): the sync byte, a length of 2 to 242, the bytes it gives, and their check. -/
theorem goodFrame_iff (bytes : List Byte) : goodFrame bytes = true ↔
    bytes[0]? = some 0xD3#8 ∧ (2 ≤ fieldAt bytes 1 2 ∧ fieldAt bytes 1 2 ≤ 242) ∧
      bytes.length = fieldAt bytes 1 2 + 5 ∧
      bytes.drop (bytes.length - 2) = crcBytes (bytes.take (bytes.length - 2)) := by
  have sync : fieldAt bytes 0 1 = Config.syncByte.toNat ↔ bytes[0]? = some 0xD3#8 := by
    cases bytes with
    | nil => simp [fieldAt, leValue]
    | cons b rest => simp [fieldAt, leValue, BitVec.toNat_eq]
  simp only [goodFrame, Bool.and_eq_true, beq_iff_eq, decide_eq_true_eq, sync, and_assoc]

theorem decodeFrame_good {bytes : List Byte} (h : goodFrame bytes = true) : decodeFrame bytes =
    decodeRequest (bytes.getD 3 0#8) ((bytes.drop 5).take (bytes.length - 7)) := by
  rw [decodeFrame, if_pos h, field8_eq_getD]

theorem decodeFrame_bad {bytes : List Byte} (h : goodFrame bytes = false) : decodeFrame bytes = .badFrame := by
  rw [decodeFrame, h]
  rfl

theorem frameTag_eq_getD (bytes : List Byte) : frameTag bytes = bytes.getD 4 0#8 := field8_eq_getD bytes 4

/-- A READ shifts out the delivery it has chosen (11 R187). -/
theorem State.shiftedOut_read {d : Delivery} (n : Nat) (h : ((s.beginRead p).ports.get p).reading = some d) :
    s.shiftedOut p Config.readType n = d.frame.take n := by
  have fr : (s.beginRead p).deliveryFrame p = some d.frame := by rw [State.deliveryFrame, h]; rfl
  exact congrArg (fun bytes : Option (List Byte) => (bytes.getD []).take n) fr

/-- Settles O6: a frame by its check, and a transaction by its type byte. -/
theorem writeTransactions : Obligations.WriteTransactions := by
  refine ⟨goodFrame_iff, fun s p bytes good => ?_, fun s p bytes bad => ?_, fun s p tag h => ?_,
    fun s p kind => rfl, fun s p kind bytes n => ⟨?_, ?_, fun hw hr => State.transaction_ignored s p kind bytes hw hr⟩⟩
  · rw [exec_write, decodeFrame_good good, frameTag_eq_getD]
  · rw [exec_write, decodeFrame_bad bad, frameTag_eq_getD]
    rfl
  · rw [exec_of_requestOf rfl, submit_refused_keeps h rfl rfl]
    rfl
  · rintro rfl
    exact ⟨rfl, rfl⟩
  · rintro rfl
    exact ⟨rfl, fun d hd => State.shiftedOut_read n hd⟩

end Sys2Proof.Machine
end

section
/-! PROOFS. RequestsAreAnsweredAtOnce: what a request leaves of the queue of commands and of the other ports (09 R167,
R169, R172). -/

namespace Sys2Proof.Machine

variable {s : State} {p q : Port}

/-! ## The commands waiting, and the mask of a port -/

/-- What no rule of a request changes on a port other than its own, besides what `follows` says: the commands waiting,
and the notice mask, which SET NOTICE MASK writes on its own port alone (09 R172). -/
def State.aside (s : State) (q : Port) : List Instr × BitVec 32 := (s.pending, (s.ports.get q).mask)

theorem PortState.enqueue_mask (x : PortState) (n : Notice) : (x.enqueue n).mask = x.mask := by
  unfold PortState.enqueue
  repeat' split
  all_goals rfl

theorem State.modPort_aside (h : q ≠ p) (s : State) (f : PortState → PortState) :
    (s.modPort p f).aside q = s.aside q := by
  rw [State.aside, State.modPort_get_ne s f h, State.modPort_pending, State.aside]

theorem State.raise_aside (s : State) (g : Profile → Bool) (k : NoticeKind) (x : Option Subject) (v : Option Int)
    (q : Port) : (s.raise g k x v).aside q = s.aside q := by
  have masks : ((s.raise g k x v).ports.get q).mask = (s.ports.get q).mask := by
    simp only [State.raise, Quad.get_map]
    split
    · exact PortState.enqueue_mask _ _
    · rfl
  rw [State.aside, masks, State.raise_pending, State.aside]

theorem State.mapWindows_aside (s : State) (f : Window → Window) (q : Port) : (s.mapWindows f).aside q = s.aside q := by
  rw [State.aside, State.mapWindows, Quad.get_map, State.aside]

/-! ## The shared operations -/

theorem State.reportConflict_aside (s : State) (slot : Nat) (q : Port) :
    (s.reportConflict slot).aside q = s.aside q := by
  unfold State.reportConflict
  split
  · rfl
  · dsimp only
    split
    · exact (State.raise_aside _ _ _ _ _ q).trans (State.raise_aside _ _ _ _ _ q)
    · exact State.raise_aside _ _ _ _ _ q

theorem State.noteOverLimit_aside (s : State) (a : Account) (q : Port) : (s.noteOverLimit a).aside q = s.aside q := by
  unfold State.noteOverLimit
  split
  · exact State.raise_aside _ _ _ _ _ q
  · rfl

theorem State.addEvent_aside (s : State) (slot card : Nat) (r : HistoryResult) (q : Port) :
    (s.addEvent slot card r).aside q = s.aside q :=
  State.mapWindows_aside _ _ q

theorem State.jamIf_aside (s : State) (o : HistoryResult) (slot number token : Nat) (q : Port) :
    (s.jamIf o slot number token).aside q = s.aside q := by
  unfold State.jamIf
  split
  · exact State.raise_aside _ _ _ _ _ q
  · rfl

theorem State.sideReport_aside (s : State) (slot : Nat) (c : Cardholder) (v : AccessVerdict) (q : Port) :
    (s.sideReport slot c v).aside q = s.aside q := by
  unfold State.sideReport
  split
  · exact State.raise_aside _ _ _ _ _ q
  · exact State.reportConflict_aside _ _ q
  · rfl

theorem State.denialEvent_aside (s : State) (card cabin : Nat) (v : AccessVerdict) (q : Port) :
    (s.denialEvent card cabin v).aside q = s.aside q := by
  unfold State.denialEvent
  split
  case h_4 =>
    split
    · rfl
    · exact State.addEvent_aside _ _ _ _ q
  all_goals rfl

theorem State.declineEffect_aside (s : State) (card : Nat) (r : Result) (q : Port) :
    (s.declineEffect card r).aside q = s.aside q := by
  unfold State.declineEffect
  split
  · exact State.raise_aside _ _ _ _ _ q
  · split
    · rfl
    · exact State.reportConflict_aside _ _ q
  · rfl

theorem State.closeCall_aside (s : State) (n : Nat) (q : Port) : (s.closeCall n).aside q = s.aside q :=
  State.raise_aside _ _ _ _ _ q

theorem State.leaveMissing_aside (s : State) (slot : Nat) (q : Port) : (s.leaveMissing slot).aside q = s.aside q := by
  unfold State.leaveMissing State.allReturned
  dsimp only
  repeat' split
  · exact (State.closeCall_aside _ _ q).trans (State.raise_aside _ _ _ _ _ q)
  · exact State.raise_aside _ _ _ _ _ q
  · rfl
  · rfl

theorem State.setPresence_aside (s : State) (slot : Nat) (x y : Presence) (q : Port) :
    (s.setPresence slot x y).aside q = s.aside q := by
  unfold State.setPresence State.followPresence
  split
  · rfl
  split
  · rfl
  split
  · rfl
  all_goals exact State.leaveMissing_aside _ _ q

theorem State.advanceTo_aside (s : State) (time : Nat) (q : Port) : (s.advanceTo time).aside q = s.aside q := by
  unfold State.advanceTo
  dsimp only
  split
  · rfl
  · exact State.raise_aside _ _ _ _ _ q

/-! ## Every request -/

/-- A request of port `p` leaves the commands waiting and the mask of every other port. -/
theorem serve_aside (h : q ≠ p) (req : Request) (s : State) : (serve p req s).1.aside q = s.aside q := by
  cases req <;> simp only [serve]
  case setNoticeMask mask =>
    rcases serveSetNoticeMask_cases p mask s with e | ⟨-, e⟩ <;> rw [e]
    exact State.modPort_aside h _ _
  case windowOpen collection mode key start =>
    rcases serveWindowOpen_cases p collection mode key start s with e | ⟨w, -, e⟩ <;> rw [e]
    all_goals exact State.modPort_aside h _ _
  case windowRead =>
    rcases serveWindowRead_cases p s with e | ⟨w, e⟩ <;> rw [e]
    exact State.modPort_aside h _ _
  case windowAct action =>
    rcases serveWindowAct_cases p action s with e | ⟨w, e⟩ | ⟨x, g, w, -, e⟩ <;> rw [e]
    · exact State.modPort_aside h _ _
    · obtain ⟨r', a', l', hv⟩ := State.voidAll_frame s g
      rw [hv]
      exact State.modPort_aside h _ _
  case charge outlet cls unit qty cards =>
    rcases serveCharge_cases p outlet cls unit qty cards s with e | ⟨card, r, e⟩ | ⟨why, -, e⟩ | ⟨sh, pr, -, -, e⟩ <;>
      rw [e]
    · exact State.declineEffect_aside _ _ _ q
    · exact State.raise_aside _ _ _ _ _ q
    · obtain ⟨r', a', l', q', hp⟩ := State.postShares_frame s p outlet.toNat cls.toNat pr s.nextSeq sh 1
      rw [hp]
      rfl
  case holdOpen card gen outlet cls gross lifetime =>
    rcases serveHoldOpen_cases p card gen outlet cls gross lifetime s with e | ⟨r, e⟩ | ⟨x, -, e⟩ <;> rw [e]
    · exact State.declineEffect_aside _ _ _ q
    · rcases placeHold_cases s p x outlet.toNat cls.toNat lifetime.toNat
        (s.tariff.price cls.toNat x.folio.package gross.toNat 1) with e | ⟨slot, -, e⟩ <;> rw [e]
      rfl
  case holdComplete slot reuse gross =>
    rcases serveHoldComplete_cases p slot reuse gross s with e | ⟨why, -, e⟩ | ⟨x, -, -, e⟩ <;> rw [e]
    · exact State.raise_aside _ _ _ _ _ q
    · obtain ⟨a', l', q', hp⟩ := State.post_frame (s.endHold slot.toNat x) x.account
        (completionEntry x { slot := slot.toNat, reuse := reuse.toNat } (s.finalPrice x gross.toNat))
      rw [hp]
      rfl
  case accessQuery card gen cabin =>
    rcases serveAccessQuery_cases p card gen cabin s with
      e | ⟨slot, c, -, ⟨kslot, k, -, -, ⟨-, e⟩ | ⟨-, e⟩⟩ | e⟩ <;> rw [e]
    · rfl
    · rfl
    · exact (State.sideReport_aside _ _ _ _ q).trans (State.denialEvent_aside _ _ _ _ q)
  case lockReport cabin token outcome =>
    rcases serveLockReport_cases cabin token outcome s with e | ⟨result, slot, k, -, -, ⟨u, -, e⟩ | e⟩ <;> rw [e]
    · exact (State.jamIf_aside _ _ _ _ _ q).trans (State.addEvent_aside _ _ _ _ q)
    · exact State.jamIf_aside _ _ _ _ _ q
  case setLimit folio amount =>
    rcases serveSetLimit_cases folio amount s with e | ⟨slot, a, -, -, e⟩ <;> rw [e]
    exact State.noteOverLimit_aside _ _ q
  case setDeposit folio amount =>
    rcases serveSetDeposit_cases folio amount s with e | ⟨slot, a, -, -, e⟩ <;> rw [e]
    exact State.noteOverLimit_aside _ _ q
  case adjust folio kind amount =>
    rcases serveAdjust_cases folio kind amount s with e | ⟨why, -, e⟩ | ⟨k, slot, a, -, -, -, -, -, e⟩ <;> rw [e]
    · exact State.raise_aside _ _ _ _ _ q
    · obtain ⟨a', l', q', hp⟩ := State.post_frame s slot (Entry.draft k amount.toNat 7 none none none none)
      rw [hp]
      rfl
  case reopen folio =>
    rcases serveReopen_cases folio s with e | ⟨slot, a, -, -, e⟩ <;> rw [e]
    exact State.noteOverLimit_aside _ _ q
  case takeClosure =>
    rcases serveTakeClosure_cases s with e | ⟨x, rest, -, e⟩ <;> rw [e]
    exact State.mapWindows_aside _ _ q
  case undefineCabin cabin =>
    rcases serveUndefineCabin_cases cabin s with e | ⟨slot, k, -, -, e⟩ <;> rw [e]
    exact State.mapWindows_aside _ _ q
  case setPresence card presence =>
    rcases serveSetPresence_cases card presence s with e | ⟨y, slot, c, x, -, -, -, e⟩ <;> rw [e]
    exact State.setPresence_aside _ _ _ _ q
  case closeCall force =>
    rcases serveCloseCall_cases force s with e | ⟨f, -, -, -, e⟩ <;> rw [e]
    exact State.closeCall_aside _ _ q
  case setTime time =>
    rcases serveSetTime_cases time s with e | ⟨-, -, e⟩ <;> rw [e]
    exact State.advanceTo_aside _ _ q
  case voyageClear =>
    rcases serveVoyageClear_cases s with e | ⟨-, e⟩ <;> rw [e]
    simp only [State.aside, Quad.get_map]
    rfl
  case price => rw [servePrice_frame]
  case readCardholder => rw [serveReadCardholder_frame]
  case readAccount => rw [serveReadAccount_frame]
  case readCabin => rw [serveReadCabin_frame]
  case readHold => rw [serveReadHold_frame]
  case readEntry => rw [serveReadEntry_frame]
  case readLane => rw [serveReadLane_frame]
  case injectRead => rw [serveInjectRead_frame]
  case holdRelease slot reuse => obtain ⟨_, _, _, e⟩ := serveHoldRelease_frame p slot reuse s; rw [e]; rfl
  case void seq outlet => obtain ⟨_, _, _, e⟩ := serveVoid_frame p seq outlet s; rw [e]; rfl
  case privacySet cabin => obtain ⟨_, e⟩ := servePrivacySet_frame cabin s; rw [e]; rfl
  case privacyClear cabin => obtain ⟨_, e⟩ := servePrivacyClear_frame cabin s; rw [e]; rfl
  case enrol card kind folio classMask deckMask =>
    obtain ⟨_, _, _, e⟩ := serveEnrol_frame card kind folio classMask deckMask s; rw [e]; rfl
  case reissue card => obtain ⟨_, e⟩ := serveReissue_frame card s; rw [e]; rfl
  case suspend card => obtain ⟨_, e⟩ := serveSuspend_frame card s; rw [e]; rfl
  case resume card => obtain ⟨_, e⟩ := serveResume_frame card s; rw [e]; rfl
  case purge card => obtain ⟨_, _, e⟩ := servePurge_frame card s; rw [e]; rfl
  case setClassMask card mask => obtain ⟨_, e⟩ := serveSetClassMask_frame card mask s; rw [e]; rfl
  case setDeckMask card mask => obtain ⟨_, e⟩ := serveSetDeckMask_frame card mask s; rw [e]; rfl
  case capUp card => obtain ⟨_, e⟩ := serveCapUp_frame card s; rw [e]; rfl
  case capDown card => obtain ⟨_, e⟩ := serveCapDown_frame card s; rw [e]; rfl
  case setCapOffset card offset => obtain ⟨_, e⟩ := serveSetCapOffset_frame card offset s; rw [e]; rfl
  case openAccount folio limit deposit =>
    obtain ⟨_, _, e⟩ := serveOpenAccount_frame folio limit deposit s; rw [e]; rfl
  case setPackage folio package => obtain ⟨_, e⟩ := serveSetPackage_frame folio package s; rw [e]; rfl
  case setMinorRelease folio value => obtain ⟨_, e⟩ := serveSetMinorRelease_frame folio value s; rw [e]; rfl
  case settleBegin folio => obtain ⟨_, e⟩ := serveSettleBegin_frame folio s; rw [e]; rfl
  case settleStep folio => obtain ⟨_, _, e⟩ := serveSettleStep_frame folio s; rw [e]; rfl
  case close folio => obtain ⟨_, _, _, _, e⟩ := serveClose_frame folio s; rw [e]; rfl
  case defineCabin cabin deck => obtain ⟨_, e⟩ := serveDefineCabin_frame cabin deck s; rw [e]; rfl
  case grantCabin card cabin => obtain ⟨_, _, e⟩ := serveGrantCabin_frame card cabin s; rw [e]; rfl
  case revokeCabin card cabin => obtain ⟨_, _, e⟩ := serveRevokeCabin_frame card cabin s; rw [e]; rfl
  case rekeyCabin cabin => obtain ⟨_, _, e⟩ := serveRekeyCabin_frame cabin s; rw [e]; rfl
  case blockCabin cabin => obtain ⟨_, e⟩ := serveBlockCabin_frame cabin s; rw [e]; rfl
  case unblockCabin cabin => obtain ⟨_, e⟩ := serveUnblockCabin_frame cabin s; rw [e]; rfl
  case openCall kind allAboard mode closeTime =>
    obtain ⟨_, e⟩ := serveOpenCall_frame kind allAboard mode closeTime s; rw [e]; rfl
  case laneMode lane mode direction clearFaults =>
    obtain ⟨_, e⟩ := serveLaneMode_frame lane mode direction clearFaults s; rw [e]; rfl
  case setTariff1 part => obtain ⟨_, e⟩ := serveSetTariff1_frame part s; rw [e]; rfl
  case setTariff2 rows => obtain ⟨_, e⟩ := serveSetTariff2_frame rows s; rw [e]; rfl
  case loadSettings => obtain ⟨_, _, _, _, _, e⟩ := serveLoadSettings_frame s; rw [e]; rfl
  case saveSettings => obtain ⟨_, _, e⟩ := serveSaveSettings_frame p s; rw [e]; rfl
  all_goals rfl

/-- An execution on port `p` leaves the commands waiting and the mask of every other port. -/
theorem State.execute_aside (h : q ≠ p) (s : State) (e : BufEntry) : (s.execute p e).aside q = s.aside q := by
  have answered : (s.answer p e.req).1.aside q = s.aside q := by
    unfold State.answer
    split
    · rfl
    · rfl
    split
    · exact serve_aside h _ s
    · rfl
  have effected : (s.effect p e.req).aside q = s.aside q := by
    unfold State.effect
    split
    · exact answered
    · exact (State.modPort_aside h _ _).trans answered
  exact (State.modPort_aside h _ _).trans effected

/-- Every port has another beside it, which sees that the commands waiting stay. -/
theorem exists_other_port (p : Port) : ∃ q : Port, q ≠ p := by
  cases p
  case n0 => exact ⟨.n1, nofun⟩
  all_goals exact ⟨.n0, nofun⟩

theorem State.execute_pending (s : State) (p : Port) (e : BufEntry) : (s.execute p e).pending = s.pending := by
  obtain ⟨q, other⟩ := exists_other_port p
  exact congrArg Prod.fst (State.execute_aside other s e)

/-- Settles O9: the entry is executed in the step of its WRITE, and its rule reaches the other ports by their windows
and notice queues alone. -/
theorem requestsAreAnsweredAtOnce : Obligations.RequestsAreAnsweredAtOnce := by
  intro s p bytes h
  rw [exec_write, State.submit_ready s p _ _ h]
  obtain ⟨-, empty⟩ := h
  obtain ⟨r, hslot, hcode, htag, -⟩ := s.execute_response p ⟨frameTag bytes, decodeFrame bytes⟩
  obtain ⟨-, hbuffer, hprofile, hreading⟩ := s.execute_port p ⟨frameTag bytes, decodeFrame bytes⟩
  refine ⟨_, r, rfl, hslot, htag, hcode, hbuffer.trans empty, ?_, hprofile, hreading, s.execute_pending p _,
    fun q other => ?_⟩
  · rw [State.attention, PortState.attention, hslot]
    rfl
  · obtain ⟨fprofile, fbuffer, fslot, freading, fover, -⟩ := s.effect_follows p (decodeFrame bytes) q
    have masks := congrArg Prod.snd (State.execute_aside other s ⟨frameTag bytes, decodeFrame bytes⟩)
    refine ⟨?_, ?_, ?_, ?_, masks, ?_⟩ <;> rw [State.execute, State.respond, State.modPort_get_ne _ _ other]
    · exact fslot
    · exact fbuffer
    · exact freading
    · exact fover
    · exact fprofile

end Sys2Proof.Machine
end

section
/-! PROOFS. NoticeMasksAndQueues: SET NOTICE MASK, and notices masked, queued and lost (09 R170 to R172). -/

namespace Sys2Proof.Machine

variable {s : State} {p : Port} {tag : Byte}

theorem exec_setNoticeMask (h : s.ready p) (mask : BitVec 32) :
    exec (.setNoticeMask p tag mask) s = (serveSetNoticeMask p mask s).answers p 0x03#8 tag :=
  submit_shared h rfl rfl nofun

theorem serveSetNoticeMask_sets {mask : BitVec 32} (h : mask.toNat < 2 ^ 17) : serveSetNoticeMask p mask s =
    (s.modPort p (fun q => { q with mask := mask }), Reply.ok (u32 mask.toNat)) := by
  rw [serveSetNoticeMask, noticeMaskOk, decide_eq_true h, if_neg nofun]

theorem serveSetNoticeMask_refused {mask : BitVec 32} (h : 2 ^ 17 ≤ mask.toNat) :
    serveSetNoticeMask p mask s = (s, Reply.refuse .badField) := by
  rw [serveSetNoticeMask, noticeMaskOk, decide_eq_false (Nat.not_lt.mpr h), if_pos rfl]

section Enqueue

variable {q : PortState} {n : Notice}

theorem PortState.enqueue_masked (h : hasKind q.mask n.kind = false) : q.enqueue n = q := by
  rw [PortState.enqueue, h, if_neg nofun]

theorem PortState.enqueue_joins (h : hasKind q.mask n.kind = true) (room : q.queue.length < 16) :
    q.enqueue n = { q with queue := q.queue ++ [n] } := by
  rw [PortState.enqueue, if_pos h, if_pos room]

theorem PortState.enqueue_lost (h : hasKind q.mask n.kind = true) (full : 16 ≤ q.queue.length) :
    q.enqueue n = { q with lost := true } := by
  rw [PortState.enqueue, if_pos h, if_neg (Nat.not_lt.mpr full)]

end Enqueue

/-- A notice raised to one port joins that port's queue alone (09 R170). -/
theorem State.raiseTo_get (s : State) (p q : Port) (kind : NoticeKind) (subject : Option Subject) (value : Option Int) :
    (s.raiseTo p kind subject value).ports.get q =
      if q = p then (s.ports.get p).enqueue { kind := kind, time := s.shipTime, subject := subject, value := value }
      else s.ports.get q := by
  unfold State.raiseTo
  split
  · next h => rw [h, State.modPort_get]
  · next h => rw [State.modPort_get_ne _ _ h]

/-- Settles O12: the mask admits a kind or not, and an admitted notice finds a place or is lost. -/
theorem noticeMasksAndQueues : Obligations.NoticeMasksAndQueues := by
  refine ⟨fun s p tag mask h => ?_, fun k => ?_, fun q n =>
      ⟨PortState.enqueue_masked, PortState.enqueue_joins, PortState.enqueue_lost⟩,
    fun s receives kind subject value => ⟨rfl, fun p => Quad.get_map _ _ _⟩,
    fun s p kind subject value => ⟨rfl, fun q => State.raiseTo_get s p q kind subject value⟩, fun f => ?_⟩
  · rw [exec_setNoticeMask h]
    exact ⟨fun fits => by rw [serveSetNoticeMask_sets fits, Served.answers_mk],
      fun past => by rw [serveSetNoticeMask_refused past, Served.answers_mk]⟩
  · cases k <;> rfl
  · cases f <;> decide

end Sys2Proof.Machine
end

section
/-! PROOFS. SettingsImage, VoyagesAreCleared and StartUpKinds: LOAD SETTINGS, SAVE SETTINGS and the ends of a save,
VOYAGE CLEAR, and the two kinds of start-up (10 R181 to R185). -/

namespace Sys2Proof.Machine

variable {s : State} {p q : Port} {tag : Byte} {x : Settings}

/-! ## From a command to its rule -/

theorem exec_loadSettings (h : s.readyAs p .purser) :
    exec (.loadSettings p tag) s = (serveLoadSettings s).answers p 0x83#8 tag :=
  submit_owned h rfl rfl nofun

theorem exec_saveSettings (h : s.readyAs p .purser) :
    exec (.saveSettings p tag) s = (serveSaveSettings p s).answers p 0x84#8 tag :=
  submit_owned h rfl rfl nofun

theorem exec_voyageClear (h : s.readyAs p .purser) :
    exec (.voyageClear p tag) s = (serveVoyageClear s).answers p 0x85#8 tag :=
  submit_owned h rfl rfl nofun

theorem exec_saveCompletion (s : State) : exec .saveCompletion s = .next s.completeSave := rfl

theorem exec_saveFailure (s : State) : exec .saveFailure s = .next s.failSave := rfl

theorem exec_startUp (s : State) (straps : Quad (BitVec 2)) (lost : Bool) :
    exec (.startUp straps lost) s = .next (s.startUp straps lost) := rfl

/-! ## LOAD SETTINGS (10 R181) -/

theorem serveLoadSettings_busy (h : s.store = .busy q x) : serveLoadSettings s = (s, Reply.refuse .storeBusy) := by
  rw [serveLoadSettings, h]

theorem serveLoadSettings_invalid (h : s.store = .idle) (hi : s.image = none) :
    serveLoadSettings s = (s, Reply.refuse .storeInvalid) := by
  rw [serveLoadSettings, h, hi]

theorem serveLoadSettings_loads (h : s.store = .idle) (hi : s.image = some x) : serveLoadSettings s =
    ({ s.putOptions x.options with tariff := x.tariff, pendingTariff := none, loaded := true }, Reply.ok []) := by
  rw [serveLoadSettings, h, hi]

/-! ## SAVE SETTINGS (10 R182) -/

theorem serveSaveSettings_busy (h : s.store = .busy q x) :
    serveSaveSettings p s = (s, Reply.refuse .storeBusy) := by
  rw [serveSaveSettings, h]

/-- A VALID image that was not loaded stands against a save. -/
theorem serveSaveSettings_notLoaded (h : s.store = .idle) (hi : s.image = some x) (hl : s.loaded = false) :
    serveSaveSettings p s = (s, Reply.refuse .notLoaded) := by
  rw [serveSaveSettings, h]
  exact if_pos ⟨Option.isSome_of_eq_some hi, hl⟩

/-- An INVALID image, or one that was loaded, gives way to the snapshot. -/
theorem serveSaveSettings_begins (h : s.store = .idle) (hi : s.image = none ∨ s.loaded = true) :
    serveSaveSettings p s = ({ s with store := .busy p s.snapshot, image := none }, Reply.of .accepted []) := by
  have free : ¬ (s.image.isSome = true ∧ s.loaded = false) := by
    rintro ⟨valid, unloaded⟩
    rcases hi with invalid | loaded
    · rw [invalid] at valid
      exact absurd valid nofun
    · exact absurd (loaded.symm.trans unloaded) nofun
  rw [serveSaveSettings, h]
  exact if_neg free

/-! ## The ends of a save (10 R183; log 7) -/

theorem State.completeSave_idle (h : s.store = .idle) : s.completeSave = s := by
  rw [State.completeSave, h]

theorem State.completeSave_busy (h : s.store = .busy p x) : s.completeSave =
    ({ s with image := some x, loaded := true, store := .idle } : State).raiseTo p .settingsSaved none none := by
  rw [State.completeSave, h]

theorem State.failSave_idle (h : s.store = .idle) : s.failSave = s := by
  rw [State.failSave, h]

theorem State.failSave_busy (h : s.store = .busy p x) :
    s.failSave = ({ s with store := .idle } : State).raiseTo p .saveFailed none none := by
  rw [State.failSave, h]

/-- Settles O52: each request by the store state, the image and the loaded flag, and each end of a save by the store
state. -/
theorem settingsImage : Obligations.SettingsImage := by
  refine ⟨fun s p tag h => ?_, fun s => ⟨fun idle => ?_, fun p x busy => ?_⟩⟩
  · rw [exec_loadSettings h, exec_saveSettings h]
    refine ⟨fun q x busy => ?_, fun idle invalid => ?_, fun x idle valid => ?_, fun x idle valid unloaded => ?_,
      fun idle free => ?_⟩
    · rw [serveLoadSettings_busy busy, serveSaveSettings_busy busy]
      exact ⟨Served.answers_mk .., Served.answers_mk ..⟩
    · rw [serveLoadSettings_invalid idle invalid, Served.answers_mk]
    · rw [serveLoadSettings_loads idle valid, Served.answers_mk]
      rfl
    · rw [serveSaveSettings_notLoaded idle valid unloaded, Served.answers_mk]
    · rw [serveSaveSettings_begins idle free, Served.answers_mk, State.snapshot]
  · rw [exec_saveCompletion, exec_saveFailure, State.completeSave_idle idle, State.failSave_idle idle]
    exact ⟨rfl, rfl⟩
  · rw [exec_saveCompletion, exec_saveFailure, State.completeSave_busy busy, State.failSave_busy busy]
    exact ⟨rfl, rfl⟩

/-! ## VOYAGE CLEAR (10 R185) -/

theorem serveVoyageClear_refused (h : s.call.state ≠ .atSea ∨ s.accounts ≠ []) :
    serveVoyageClear s = (s, Reply.refuse .notClear) :=
  if_pos h

/-- At sea without an account, the records are initialized, the windows closed and the repeat records cleared. -/
theorem serveVoyageClear_clears (hc : s.call.state = .atSea) (ha : s.accounts = []) : serveVoyageClear s =
    ({ s.clearRecords with
        nextRollover := nextRolloverAfter 0 s.options.rolloverHour
        ports := s.ports.map (fun port => { port with window := none })
        lanes := s.lanes.map (fun l => { l with lastRead := none }) }, Reply.ok []) :=
  if_neg (not_or.mpr ⟨not_not_intro hc, not_not_intro ha⟩)

/-- Settles O53: what the clear initializes is as at reset, and the rest as it stood. -/
theorem voyagesAreCleared : Obligations.VoyagesAreCleared := by
  intro s p tag h
  rw [exec_voyageClear h]
  refine ⟨fun refused => ?_, fun sea bare => ?_⟩
  · rw [serveVoyageClear_refused refused, Served.answers_mk]
  · rw [serveVoyageClear_clears sea bare, Served.answers_mk]
    rfl

/-! ## START_UP (10 R184; log 23) -/

section StartUp

variable {lost : Bool} (straps : Quad (BitVec 2))

theorem State.startUp_warm (hm : s.marker = true) (hl : lost = false) :
    s.startUp straps lost = s.restart straps true := by
  rw [State.startUp, hm, hl]
  rfl

theorem State.startUp_cold (h : s.marker = false ∨ lost = true) :
    s.startUp straps lost = s.coldRecords.restart straps false := by
  rw [State.startUp]
  rcases h with absent | gone
  · rw [absent]
    rfl
  · rw [gone, Bool.not_true, Bool.and_false]
    rfl

/-- After a cold start only the ports, as strapped, the image and the commands to come differ from reset. -/
theorem State.coldRecords_restart (s : State) :
    s.coldRecords.restart straps false = { State.reset with
      ports := straps.map (fun code => PortState.started (Profile.ofStraps code) 0 false)
      image := s.image
      pending := s.pending } := by
  have rollover : nextRolloverAfter 0 Options.cold.rolloverHour = State.reset.nextRollover := if_pos (by decide)
  rw [State.coldRecords, rollover]
  rfl

end StartUp

/-- Settles O4: the four strap codes, a cold start against reset, and a warm start against the state it found. -/
theorem startUpKinds : Obligations.StartUpKinds := by
  refine ⟨⟨rfl, rfl, rfl, rfl⟩, fun s straps lost => ?_⟩
  rw [exec_startUp]
  refine ⟨fun cold => ?_, fun marked kept => ?_⟩
  · rw [State.startUp_cold straps cold, State.coldRecords_restart]
    rfl
  · rw [State.startUp_warm straps marked kept]
    rfl

end Sys2Proof.Machine
end

section
/-! PROOFS. FramesRoundTrip: decode of frame, and the tag of a frame (11 R186 to R192). -/

namespace Sys2Proof.Machine

/-- Settles O5: a good frame decodes to the request of its code and body, each layout of which reads back its own
fields, and the tag stands in the frame's fifth byte. -/
theorem framesRoundTrip : Obligations.FramesRoundTrip := by
  intro req tag wellFormed
  have request : decodeFrame (req.frame tag) = req := decodeFrame_frame wellFormed tag
  have answered : frameTag (req.frame tag) = tag := frameTag_frame req tag
  exact ⟨request, answered⟩

end Sys2Proof.Machine
end

section
/-! PROOFS. StepTakesTheFrontCommand: a step by what the queue holds (00 section 5; logs 3 and 30). -/

namespace Sys2Proof.Machine

section

variable {s : State}

theorem step_of_pending_cons {c : Instr} {rest : List Instr} (front : s.pending = c :: rest) :
    step s = exec c { s with pending := rest } := by
  rw [step, front]

theorem step_of_pending_nil (idle : s.pending = []) : step s = .next s.millisecond := by
  rw [step, idle]

end

/-- Settles O1: a queue has a front command, which runs on the state with the rest, or is empty, and then only the
millisecond timer rises. -/
theorem stepTakesTheFrontCommand : Obligations.StepTakesTheFrontCommand := by
  refine ⟨fun s c rest front => ?_, fun s idle => ?_⟩
  · exact step_of_pending_cons front
  · rw [step_of_pending_nil idle, State.millisecond]

end Sys2Proof.Machine
end
